-- ==== Sys2Proof/Word.lean ====
section
/-!
DEFINITION. The word types of the module: bytes, register values and their byte order (R3, R4).
-/
namespace Sys2Proof

/-- A byte of memory. -/
abbrev Byte := BitVec 8

/-- The contents of an 8-byte register. -/
abbrev Reg := BitVec 64

end Sys2Proof
end

