-- ==== Sys2Proof/Syntax.lean ====
section
/-!
DEFINITION. The commands of the module: one constructor for each row of the command table (spec/opcode_table.json),
with the row's operands.

Every command carries a stamp `At`: the root-clock tick at which it happens (R475: 4.8 GHz, so ACLK has 8 ticks, MCLK
4, KCLK 3, SCLK 5, LCLK 16 and HCLK 192), the channel it concerns, and what the physical world did to that channel just
before (upset memory symbols, a pin's level, a sensor's reading).  Operands name queues, ports, slots and the like by
their number in the manual; packets, queued commands and messages lie in the state, and a command names where.
-/
namespace Sys2Proof

/-- Who makes a register access (R559): core `h` of the channel (0 to 3 SC0 to SC3, 4 the service core), transfer engine
`k`, the host, the monitor, the firmware of the homeroom itself. -/
inductive Agent where
  | core (h : Nat)
  | te (k : Nat)
  | host
  | monitor
  | homeroom
  deriving DecidableEq, Repr

/-- Where a monitor request came from: the UART, or a host mailbox message MON_REQ (R550). -/
inductive MonSrc where
  | uart
  | mailbox
  deriving DecidableEq, Repr

/-- The host's configuration writes (R421, R427, R446): an HDM decoder with its interleave ways, commit and lock, Bus Master
Enable, an MSI-X vector's mask, a MSI-X table entry, Max Payload Size, CXL.mem enable, Max Read Request Size, D3hot or D0, AER
status bits cleared. -/
inductive CfgWrite where
  | hdm (i base size ways : Nat) (commit lock : Bool)
  | bme (on : Bool)
  | mask (vec : Nat) (masked : Bool)
  | entry (vec addr data : Nat)
  | mps (n : Nat)
  | memEnable (on : Bool)
  | mrrs (n : Nat)
  | power (d3 : Bool)
  | aerClear (bits : Nat)
  deriving DecidableEq, Repr

/-- Acts of the physical world on a channel, for which the command table has no row. -/
inductive Env where
  /-- Symbols of the codeword at address `addr` are upset: symbol and the bits that change (R36). -/
  | upset (addr : Nat) (errs : List (Nat × Byte))
  /-- FLASH_WP_N is low or high. -/
  | flashWp (low : Bool)
  /-- A byte string stands in the flash from address `addr`. -/
  | flash (addr : Nat) (bytes : List Byte)
  /-- Bytes lie in a host mailbox area (R440). -/
  | mailbox (bytes : List Byte)
  /-- An error is found in core `h`'s instruction cache (part 0), data cache (1) or TCM (2), in a line of the cache; the code
  corrects it or does not (R204). -/
  | coreUpset (h part line : Nat) (corrected : Bool)
  /-- The good lanes found by the UCIe lane test (R470), own side. -/
  | ucLanes (map : Nat)
  /-- The adapter of the UCIe link has resent `n` flits, short of the retry limit (R469, R484). -/
  | ucResent (n : Nat)
  /-- `n` codewords of an external Ivell port were beyond its FEC (R347, R375). -/
  | ivFec (p n : Nat)
  /-- The good lanes of an Ivell port. -/
  | ivLanes (p map : Nat)
  /-- The host's data link layer acknowledges the `n` oldest host-bound writes (R442). -/
  | hostAck (n : Nat)
  /-- The host-port die's own sensors: temperature, input voltage, current, power (Table 21-5). -/
  | modSens (temp vin iin pin : Int)
  /-- The host reads `n` bytes of BAR0 at `off`, or of BAR2 at `off` − 2^28 (R425). -/
  | barRead (off n : Nat)
  /-- The host writes bytes of any number there. -/
  | barWrite (off : Nat) (bytes : List Byte)
  /-- The host sends MemInv or MemInvNT for a window address (Table 16-1). -/
  | memInv (off : Nat)
  /-- The host gives a command to the memory-device mailbox: opcode and input payload (Table 16-1). -/
  | memCmd (op : Nat) (input : List Byte)
  /-- Errors of the host link set AER status bits. -/
  | aer (bits : Nat)
  /-- Rows reach the feeder of matrix engine `k` from memory: `count` of them, from the `n`-th after the last row admitted (R101). -/
  | feed (k n count : Nat)
  /-- Framing errors of the management UART, or PEC failures and malformed messages of SMBus, `n` of them (R555). -/
  | mgErr (smb : Bool) (n : Nat)
  /-- Bytes waiting in the Ethernet port's receive buffer (R454). -/
  | enFill (bytes : Nat)
  deriving DecidableEq, Repr

/-- The stamp of a command. -/
structure At where
  time : Nat
  chan : Fin 4
  env : List Env
  deriving DecidableEq, Repr

/-- The commands: one constructor per row of the table, in its order. -/
inductive Instr where
  /-- ERASER_READ (R39): The eraser reads the next HBM or scratchpad codeword in its background pass, correcting it and writing it back if needed. -/
  | eraserRead (a : At) (sp : Bool)
  /-- CLR_CORR (R44): Writing 1 to HBM_ECC_CTL.CLR_CORR or SP_ECC_CTL.CLR_CORR clears the corrected-codeword count. -/
  | clrCorr (a : At) (ag : Agent) (sp : Bool)
  /-- HOST_WINDOW_READ (R428): A CXL.mem read through an HDM window returns channel memory, or poisoned zero data. -/
  | hostWindowRead (a : At) (off len : Nat)
  /-- HOST_WINDOW_WRITE (R428): A posted CXL.mem write through an HDM window is performed in channel memory, or discarded. -/
  | hostWindowWrite (a : At) (off : Nat) (data : List Byte)
  /-- REGISTER_WRITE (R5): A write to a register that has no behaviour of its own sets its fields under their access codes. -/
  | registerWrite (a : At) (ag : Agent) (off val : Nat)
  /-- QUEUE_APPEND (R63): A producer that waited for free slots appends its command atomically at a queue's tail. -/
  | queueAppend (a : At) (i : Nat)
  /-- NOP (R66): The command performs only its waits and signals. -/
  | nop (a : At) (q : Nat)
  /-- EVENT (R66): The command raises a program event record with the given code, severity and detail. -/
  | event (a : At) (q : Nat)
  /-- LESSON_CALL (R76): The queue checks a lesson segment, then fetches and runs its commands. -/
  | lessonCall (a : At) (q : Nat)
  /-- LESSON_RET (R76): The command ends a segment, applying its own signals and then the LESSON_CALL's. -/
  | lessonRet (a : At) (q : Nat)
  /-- RETAKE_BEGIN (R137): The member joins a retake region, opening the region if it is closed, and sets its replay pointer. -/
  | retakeBegin (a : At) (q : Nat)
  /-- RETAKE_END (R143): The member arrives at the end of its region and waits for the other members. -/
  | retakeEnd (a : At) (q : Nat)
  /-- QCTL (R81): A transfer engine applies a queue action to another queue. -/
  | qctl (a : At) (q : Nat)
  /-- COPY (R568): A transfer engine copies strided rows between memories. -/
  | copy (a : At) (q : Nat)
  /-- DELIVER (R567): A transfer engine sends a payload and then a descriptor to a receiver's door slot. -/
  | deliver (a : At) (q : Nat)
  /-- ATOMIC (R56): A transfer engine performs a remote fetch-add, swap or compare-swap and writes back the old value. -/
  | atomic (a : At) (q : Nat)
  /-- FENCE (R54): The command completes once every earlier remote write of its transfer engine is acknowledged. -/
  | fence (a : At) (q : Nat)
  /-- REG_WR (R567): A transfer engine writes a register of its own channel. -/
  | regWr (a : At) (q : Nat)
  /-- REG_RD (R567): A transfer engine reads a register of its own channel into memory. -/
  | regRd (a : At) (q : Nat)
  /-- RDMA (R457): A transfer engine issues one RoCEv2 READ, WRITE or SEND message on a queue pair. -/
  | rdma (a : At) (q : Nat)
  /-- ME_LOADW (R99): A matrix engine sets a weight buffer's metadata and starts loading a weight tile. -/
  | meLoadw (a : At) (q : Nat)
  /-- ME_PASS (R100): A matrix engine starts streaming activation rows through the tile in a buffer. -/
  | mePass (a : At) (q : Nat)
  /-- ME_DRAIN (R128): The drain port scales, biases, activates and converts accumulator rows to memory. -/
  | meDrain (a : At) (q : Nat)
  /-- ME_ACC_CLEAR (R109): The drain port clears accumulator rows. -/
  | meAccClear (a : At) (q : Nat)
  /-- ME_ACC_EXPORT (R127): The drain port writes accumulator pairs to memory unrounded. -/
  | meAccExport (a : At) (q : Nat)
  /-- VE_OP (R169): A vector engine performs an element-wise operation, with an optional summary. -/
  | veOp (a : At) (q : Nat)
  /-- VE_FUNC (R180): A vector engine evaluates a function through its function stage. -/
  | veFunc (a : At) (q : Nat)
  /-- VE_COMPRESS (R177): A vector engine packs the masked elements and writes their count. -/
  | veCompress (a : At) (q : Nat)
  /-- VE_EXPAND (R178): A vector engine scatters packed elements to the masked positions. -/
  | veExpand (a : At) (q : Nat)
  /-- VE_SETVL (R166): The command sets the vector length of its queue. -/
  | veSetvl (a : At) (q : Nat)
  /-- UU_UPDATE (R271): The update unit computes the per-step constants and starts updating the master blocks. -/
  | uuUpdate (a : At) (q : Nat)
  /-- UU_DERIVE (R280): The update unit derives working copies from the masters in a target format. -/
  | uuDerive (a : At) (q : Nat)
  /-- CE_RS (R296): The collective engine starts a ring reduce-scatter of a bucket. -/
  | ceRs (a : At) (q : Nat)
  /-- CE_AG (R297): The collective engine starts a ring all-gather of a bucket. -/
  | ceAg (a : At) (q : Nat)
  /-- CE_AR (R298): The collective engine starts a reduce-scatter followed by an all-gather of the owners' results. -/
  | ceAr (a : At) (q : Nat)
  /-- HQ_FORWARD (R432): The host queue appends an inline command to an engine queue. -/
  | hqForward (a : At)
  /-- HQ_WRITE (R432): The host queue writes its inline data to channel memory. -/
  | hqWrite (a : At)
  /-- HQ_DMA (R432): The host queue moves data between channel memory and host memory. -/
  | hqDma (a : At)
  /-- HQ_RESULT (R434): The host queue writes a result slot, with the sequence word last. -/
  | hqResult (a : At)
  /-- HQ_FLAG (R432): The host queue writes an 8-byte completion flag to host memory. -/
  | hqFlag (a : At)
  /-- COMMAND_COMPLETE (R51): A started command finishes and its signals are applied in queue order. -/
  | commandComplete (a : At) (q i : Nat)
  /-- TOKEN_TIMEOUT (R73): A head command waits on tokens past its wait limit and halts its queue. -/
  | tokenTimeout (a : At) (q : Nat)
  /-- Q_RESUME (R81): The RESUME action of Q_CTL restarts a halted queue. -/
  | qResume (a : At) (ag : Agent) (q : Nat)
  /-- Q_HALT (R81): The HALT action of Q_CTL stops a queue. -/
  | qHalt (a : At) (ag : Agent) (q : Nat)
  /-- Q_DRAIN (R81): The DRAIN action of Q_CTL drains a queue to HALTED with code DRAINED. -/
  | qDrain (a : At) (ag : Agent) (q : Nat)
  /-- Q_FLUSH (R81): The FLUSH action of Q_CTL discards every unstarted entry of a halted queue. -/
  | qFlush (a : At) (ag : Agent) (q : Nat)
  /-- Q_SKIP (R83): SKIP with RESUME consumes a halted head command without performing it. -/
  | qSkip (a : At) (ag : Agent) (q : Nat)
  /-- Q_DEPTH_WRITE (R87): A write of Q_DEPTH binds, unbinds or leaves a queue as its rules allow. -/
  | qDepthWrite (a : At) (ag : Agent) (q v : Nat)
  /-- TOKEN_WRITE (R70): A write sets a token counter, with that cycle's increments added after it. -/
  | tokenWrite (a : At) (ag : Agent) (i v : Nat)
  /-- CH_TOK_INC (R92): A write adds an increment to a token counter as a signal. -/
  | chTokInc (a : At) (ag : Agent) (v : Nat)
  /-- LOAD_TRANSFER (R99): A weight load that waited for earlier passes begins its transfer into the buffer. -/
  | loadTransfer (a : At) (k : Nat)
  /-- ROW_ADMIT (R101): The array admits the next activation row of a pass. -/
  | rowAdmit (a : At) (k arr : Nat)
  /-- ACC_WRITE (R102): A row's pass sum is rounded once and combined into its accumulator entry. -/
  | accWrite (a : At) (k p row col : Nat)
  /-- RAMP_UP (R106): A gated array with a ready row and a loaded buffer begins enabling its cell-row groups. -/
  | rampUp (a : At) (k : Nat)
  /-- RAMP_DOWN (R106): At a_last + 511, with no row left to admit, the array disables its groups and becomes GATED. -/
  | rampDown (a : At) (k : Nat)
  /-- FS_GRANT (R182): A function stage grants two ACLK cycles to the next pending requester in rotation. -/
  | fsGrant (a : At) (k : Nat)
  /-- COUNTER_CLEAR (R118): Writing 1 to a block's CNT_CTL.CLR sets that block's counters to zero. -/
  | counterClear (a : At) (ag : Agent) (off : Nat)
  /-- RETAKE_RESOLVE (R143): Once all members reach RETAKE_END, the attempt commits, retakes or faults. -/
  | retakeResolve (a : At) (n : Nat)
  /-- RTK_ABORT (R146): Writing ABORT halts every member queue of an open region. -/
  | rtkAbort (a : At) (ag : Agent) (n : Nat)
  /-- RETAKE_ABORTED (R146): Once the started commands complete, the aborted region's token log is undone and the region closes. -/
  | retakeAborted (a : At) (n : Nat)
  /-- RPT_CLR_ONE (R154): Writing RPT_CLR.ONE clears one tag's report card entry. -/
  | rptClrOne (a : At) (ag : Agent) (t : Nat)
  /-- RPT_CLR_ALL (R154): Writing RPT_CLR.ALL clears every report card entry. -/
  | rptClrAll (a : At) (ag : Agent)
  /-- RPT_SNAP (R155): A write of RPT_SNAP_CTL copies one tag's entry in one cycle, clearing it if asked. -/
  | rptSnap (a : At) (ag : Agent) (v : Nat)
  /-- E2_MODE_WRITE (R156): A write of CH_E2_MODE changes Elvey 2 mode when the engines are quiet. -/
  | e2ModeWrite (a : At) (ag : Agent) (v : Nat)
  /-- CMD_PUSH (R197): A core appends a command from its TCM to an engine queue. -/
  | cmdPush (a : At) (h : Nat)
  /-- TOK_ADD (R198): A core applies a signal to a token counter. -/
  | tokAdd (a : At) (h : Nat)
  /-- TOK_WAIT (R199): A core begins waiting for a token counter to reach a threshold. -/
  | tokWait (a : At) (h : Nat)
  /-- TOK_WAIT_SATISFIED (R199): A waiting TOK.WAIT completes once its wait is satisfied and returns the counter value. -/
  | tokWaitSatisfied (a : At) (h : Nat)
  /-- SUM_RD (R201): A core reads a vector engine's summary register. -/
  | sumRd (a : At) (h : Nat)
  /-- EVT_RAISE (R202): A core raises an event record, or takes an illegal-instruction exception. -/
  | evtRaise (a : At) (h : Nat)
  /-- XFENCE (R203): A core waits until its earlier write-backs, register stores, fabric stores and host stores have completed. -/
  | xfence (a : At) (h : Nat)
  /-- CMO_CLEAN (R205): A core writes back the dirty data-cache lines of a range. -/
  | cmoClean (a : At) (h : Nat)
  /-- CMO_INV (R205): A core invalidates the data-cache lines of a range without write-back. -/
  | cmoInv (a : At) (h : Nat)
  /-- CMO_FLUSH (R205): A core cleans and then invalidates the data-cache lines of a range. -/
  | cmoFlush (a : At) (h : Nat)
  /-- FENCE_I (R205): A core invalidates its whole instruction cache. -/
  | fenceI (a : At) (h : Nat)
  /-- CORE_LOAD (R193): A core performs a load under the access rules of its region. -/
  | coreLoad (a : At) (h : Nat)
  /-- CORE_STORE (R193): A core performs a store under the access rules of its region. -/
  | coreStore (a : At) (h : Nat)
  /-- CORE_AMO (R194): A core performs an AMO or LR/SC, locally or as a remote atomic. -/
  | coreAmo (a : At) (h : Nat)
  /-- CORE_INSTRUCTION (R190): A core executes any other RV64IMAFC instruction. -/
  | coreInstruction (a : At) (h : Nat)
  /-- CACHE_EVICTION (R205): The data cache writes back a dirty line on eviction, at any moment. -/
  | cacheEviction (a : At) (h line : Nat)
  /-- INTERRUPT (R200): A core takes a pending external or timer interrupt as a trap, abandoning any waiting instruction. -/
  | interrupt (a : At) (h : Nat)
  /-- SC_RUN (R208): Setting SC_CTL.RUN starts a stage core at SC_BOOT, or continues it. -/
  | scRun (a : At) (ag : Agent) (h : Nat)
  /-- SC_STOP (R208): Clearing SC_CTL.RUN stops a stage core at the next instruction boundary. -/
  | scStop (a : At) (ag : Agent) (h : Nat)
  /-- SC_RESET (R208): Writing SC_CTL.RESET returns a stage core's architectural state to reset and invalidates its caches. -/
  | scReset (a : At) (ag : Agent) (h : Nat)
  /-- WDOG_KICK (R209): A write to SC_WDOG_KICK restarts the watchdog period. -/
  | wdogKick (a : At) (ag : Agent) (h : Nat)
  /-- WDOG_EXPIRED (R209): A stage-core watchdog expires, asserting its CIC source. -/
  | wdogExpired (a : At) (h : Nat)
  /-- SVC_WDOG_EXPIRY (R209): The service core's watchdog expires and fences the channel. -/
  | svcWdogExpiry (a : At)
  /-- CIC_ACK (R216): A write to CIC_ACKt pushes the presented source onto the target's stack. -/
  | cicAck (a : At) (ag : Agent) (t src : Nat)
  /-- CIC_EOI (R217): A write to CIC_EOIt pops the top entry of the target's stack. -/
  | cicEoi (a : At) (ag : Agent) (t : Nat)
  /-- CIC_SRC_WRITE (R218): A write to CIC_SRCn changes a source's priority and target at once. -/
  | cicSrcWrite (a : At) (ag : Agent) (n v : Nat)
  /-- CIC_SWSRC_SET (R221): A W1S write asserts software sources. -/
  | cicSwsrcSet (a : At) (ag : Agent) (v : Nat)
  /-- CIC_SWSRC_CLR (R221): A W1C write deasserts software sources. -/
  | cicSwsrcClr (a : At) (ag : Agent) (v : Nat)
  /-- PSTATE_REQUEST (R224): A write of HR_PSTATE.REQ requests a power-state transition. -/
  | pstateRequest (a : At) (ag : Agent) (v : Nat)
  /-- IDLE_ENTRY (R223): After HR_IDLE_DELAY with every engine queue quiet, the channel enters IDLE. -/
  | idleEntry (a : At)
  /-- PSTATE_ENTRY_DONE (R225): An accepted entry into DOZE, RECESS or OFF completes. -/
  | pstateEntryDone (a : At)
  /-- WAKE (R229): An enabled wake source asserted in DOZE or RECESS starts the exit to ACTIVE. -/
  | wake (a : At)
  /-- PSTATE_EXIT_DONE (R227): An exit from DOZE or RECESS completes after power-up, training and service-core boot. -/
  | pstateExitDone (a : At)
  /-- BIND (R234): The BIND action checks a slot's configuration and makes it BOUND. -/
  | bindSlot (a : At) (ag : Agent) (s : Nat)
  /-- START (R232): The START action makes a BOUND slot ACTIVE. -/
  | startSlot (a : At) (ag : Agent) (s : Nat)
  /-- DRAIN (R232): The DRAIN action stops a slot choosing launches and drains it to BOUND. -/
  | drainSlot (a : At) (ag : Agent) (s : Nat)
  /-- UNBIND (R232): The UNBIND action returns an empty BOUND slot to UNBOUND. -/
  | unbindSlot (a : At) (ag : Agent) (s : Nat)
  /-- ABANDON (R232): The ABANDON action frees every record and discards every queued descriptor of a BOUND slot. -/
  | abandonSlot (a : At) (ag : Agent) (s : Nat)
  /-- DISCARD_F (R232): The DISCARD_F action discards the head of the forward queue. -/
  | discardF (a : At) (ag : Agent) (s : Nat)
  /-- DISCARD_B (R232): The DISCARD_B action discards the head of the backward queue. -/
  | discardB (a : At) (ag : Agent) (s : Nat)
  /-- DELIVER_DATA (R367): A receiver checks an arriving DELIVER data packet and writes it into its door slot. -/
  | deliverData (a : At) (p vc : Nat)
  /-- DELIVER_DESC (R238): A receiver takes a descriptor packet and, once all the payload is visible, pushes the descriptor onto its queue. -/
  | deliverDesc (a : At) (p vc : Nat)
  /-- DELIVER_X (R367): A receiver takes an extended DELIVER's payload and descriptor from a single flit. -/
  | deliverX (a : At) (p vc : Nat)
  /-- LAUNCH (R249): The timetable picks an eligible head, creates or finds its record and appends the lesson's LESSON_CALLs. -/
  | launch (a : At) (s : Nat)
  /-- STALE_DISCARD (R247): The timetable discards a queue head of an older term. -/
  | staleDiscard (a : At) (s : Nat) (bwd : Bool)
  /-- DESC_FAULT (R248): A malformed, orphan or duplicate head of the current term sets the slot FAULT. -/
  | descFault (a : At) (s : Nat) (bwd : Bool)
  /-- LAUNCH_COMPLETE (R250): A launch completes: its input entry is released, records are freed or off-loaded, and an end lesson follows a LAST backward. -/
  | launchComplete (a : At) (s i : Nat)
  /-- OFFLOAD_COPY_DONE (R252): An off-load or fetch copy completes, freeing or filling its staging buffer. -/
  | offloadCopyDone (a : At) (s r : Nat)
  /-- PASS (R241): A hall-pass packet arrives at a sender binding or a context and adds passes. -/
  | pass (a : At) (p vc : Nat)
  /-- VS_PUB (R263): A write to VS_PUBs publishes a FREE version entry as READY. -/
  | vsPub (a : At) (ag : Agent) (s v : Nat)
  /-- VS_RETIRED (R265): A READY entry whose conditions hold retires to FREE and signals FREE_TOK. -/
  | vsRetired (a : At) (s k : Nat)
  /-- BLOCK_COMMIT (R276): An update block whose state has arrived is computed, written to the inactive slot and committed by its journal word. -/
  | blockCommit (a : At) (i : Nat)
  /-- CE_GRP_CFG_WRITE (R290): A write of CE_GRPg_CFG enables a context after checks, or disables it and abandons its open buckets. -/
  | ceGrpCfgWrite (a : At) (ag : Agent) (g v : Nat)
  /-- CE_ABANDON (R315): Writing CE_GRPg_CTL.ABANDON closes every open bucket of an old term and writes ABANDONED records. -/
  | ceAbandon (a : At) (ag : Agent) (g : Nat)
  /-- CE_PARTIAL (R295): A reduction partial arrives whole; it is folded or written, forwarded and recorded. -/
  | cePartial (a : At) (p vc : Nat)
  /-- ATTENDANCE (R301): An attendance bell arrives; it starts the deadline timer and is forwarded once. -/
  | attendance (a : At) (p vc : Nat)
  /-- DEADLINE_EXPIRY (R303): A member's attendance deadline expires before its command, making it absent. -/
  | deadlineExpiry (a : At) (g : Nat) (b : Nat)
  /-- GB_CLR (R323): Writing GB_CTL.CLR clears VALID in every gradebook entry of a context. -/
  | gbClr (a : At) (ag : Agent) (g : Nat)
  /-- TERM_START (R338): A write of CH_TERM_CTL with START checks and begins a term switch. -/
  | termStart (a : At) (ag : Agent) (v : Nat)
  /-- TERM_DRAIN_END (R338): Every selected context has drained, so the switch writes the new term, installs the chart and completes. -/
  | termDrainEnd (a : At)
  /-- TERM_DRAIN_TIMEOUT (R338): The drain reaches TIMEOUT_US; the switch proceeds and abandons the open buckets. -/
  | termDrainTimeout (a : At)
  /-- FLIT (R350): A flit arrives on a link; it is checked by CRC and LSEQ, acknowledged and its pass credited. -/
  | flit (a : At) (p : Nat) (bytes : List Byte)
  /-- NAK (R350): A LINKCTL NAK makes the sender replay from the named flit. -/
  | nak (a : At) (p lseq : Nat)
  /-- LANE_SWAP (R348): A LINKCTL LANE_SWAP exchange switches both ends to a spare lane. -/
  | laneSwap (a : At) (p lane spare : Nat)
  /-- LANE_SPARED (R348): A lane that loses lock or exceeds its corrected-symbol limit in a second is replaced by a spare. -/
  | laneSpared (a : At) (p lane : Nat) (lock : Bool) (corr : Nat)
  /-- CAP (R353): A LINKCTL CAP is exchanged and the link negotiates its version and features. -/
  | cap (a : At) (p : Nat) (bytes : List Byte)
  /-- RETRAIN (R353): A LINKCTL RETRAIN, or the replay limit, starts a link retrain. -/
  | retrain (a : At) (p : Nat)
  /-- IV_RETRAIN (R374): Writing IV_CTL.RETRAIN starts a retrain of the port. -/
  | ivRetrain (a : At) (ag : Agent) (p : Nat)
  /-- IV_DISABLE (R353): A write of IV_CTL.DISABLE holds the link DOWN, or releases it. -/
  | ivDisable (a : At) (ag : Agent) (p v : Nat)
  /-- LINK_UP (R352): A port finishes training UP or HALF and grants its hall passes. -/
  | linkUp (a : At) (p rtt : Nat)
  /-- LINK_DOWN (R353): A third failed retrain leaves the link DOWN. -/
  | linkDown (a : At) (p : Nat)
  /-- READ (R365): A fabric READ request is forwarded by the switch or performed at the home channel. -/
  | read (a : At) (p vc : Nat)
  /-- WRITE (R54): A fabric WRITE request is forwarded, or performed and acknowledged once visible. -/
  | write (a : At) (p vc : Nat)
  /-- ATOMIC_REQUEST (R368): A fabric ATOMIC request is performed atomically at the home channel. -/
  | atomicRequest (a : At) (p vc : Nat)
  /-- READ_DATA (R355): A read response arrives at the requester and completes the read. -/
  | readData (a : At) (p vc : Nat)
  /-- WRITE_ACK (R355): A write acknowledgement arrives at the requester and completes the write. -/
  | writeAck (a : At) (p vc : Nat)
  /-- ATOMIC_DATA (R355): An atomic response returns the old value to the requester. -/
  | atomicData (a : At) (p vc : Nat)
  /-- ERROR_RESP (R355): An error response fails the request and halts the requester's queue. -/
  | errorResp (a : At) (p vc : Nat)
  /-- RESP_TIMEOUT (R366): A request with no response within the timeout completes with REMOTE_ERROR. -/
  | respTimeout (a : At) (tid : Nat)
  /-- BREAK (R361): A BREAK bell spreads knowledge of a broken link along its ring. -/
  | brk (a : At) (p vc : Nat)
  /-- MEND (R361): A MEND bell spreads news that a link has returned. -/
  | mend (a : At) (p vc : Nat)
  /-- HEARTBEAT_SEND (R402): Every 1 ms the homeroom sends a HEARTBEAT bell to each neighbour position. -/
  | heartbeatSend (a : At)
  /-- HEARTBEAT (R402): A HEARTBEAT bell arrives and clears the neighbour's miss count. -/
  | heartbeat (a : At) (p vc : Nat)
  /-- HB_TICK (R403): At each 1 ms tick, a miss is counted against each silent monitored neighbour. -/
  | hbTick (a : At)
  /-- POWER_GOOD (R495): The rise of MOD_PWRGD resets the HPD and starts P0. -/
  | powerGood (a : At) (selftest : Nat)
  /-- SYLLABUS_VERIFIED (R517): The security module finishes checking the syllabus copies, ending P0. -/
  | syllabusVerified (a : At)
  /-- CHANNEL_RESET (R381): A channel reset sets the channel to BOOT at P1 and retrains its UCIe link. -/
  | channelReset (a : At)
  /-- SECTION_LOAD (R518): The loader delivers the channel's sections into the boot store and checks their digests. -/
  | sectionLoad (a : At)
  /-- BASE_DIE_READY (R384): The scratchpad and HBM self-tests and training complete, and the environment is checked. -/
  | baseDieReady (a : At) (sp hbm : Bool)
  /-- COMPUTE_POWER_ON (R384): At the stagger time, the compute die is powered. -/
  | computePowerOn (a : At)
  /-- COMPUTE_SELF_TEST (R384): The service core boots and the compute-die self-test passes, ending P1. -/
  | computeSelfTest (a : At) (svc ok : Bool)
  /-- TRAINING_TIMEOUT (R386): A port still training at local time 60 s goes DOWN. -/
  | trainingTimeout (a : At) (p : Nat)
  /-- NEIGHBOUR (R390): A NEIGHBOUR bell arrives; the port is checked, and a reply is sent if needed. -/
  | neighbour (a : At) (p vc : Nat)
  /-- NEIGHBOUR_TIMEOUT (R387): No NEIGHBOUR bell arrives within 1 s, so the port fails as SILENT. -/
  | neighbourTimeout (a : At) (p : Nat)
  /-- LAP_START (R393): A head candidate that becomes ready on an axis starts a COLLECT lap. -/
  | lapStart (a : At) (axis : Nat)
  /-- COLLECT (R393): A COLLECT bell arrives and is held, passed on, reflected or completed. -/
  | collect (a : At) (p vc : Nat)
  /-- COLLECT_RELEASE (R392): A held COLLECT is let go once its member becomes ready on the axis. -/
  | collectRelease (a : At) (axis i : Nat)
  /-- HOLD_LIMIT (R392): The axis hold limit is reached, and the held bell is released without a bit. -/
  | holdLimit (a : At) (axis i : Nat)
  /-- CONFIRM (R392): A CONFIRM bell arrives; the member records the bitmaps and closes the axis. -/
  | confirm (a : At) (p vc : Nat)
  /-- REPORT (R394): An X ring's REPORT reaches the leader or the alternate. -/
  | report (a : At) (p vc : Nat)
  /-- LEADER_TIMEOUT (R394): At local time 70 s, the leader sends ALL_PRESENT. -/
  | leaderTimeout (a : At)
  /-- ROLLCALL_ALT_TIMEOUT (R394): At 72 s, an alternate that has seen no ALL_PRESENT sends one. -/
  | rollcallAltTimeout (a : At)
  /-- ALL_PRESENT (R395): The first ALL_PRESENT is forwarded and moves the channel out of ROLLCALL. -/
  | allPresent (a : At) (p vc : Nat)
  /-- VACATE (R404): Writing HR_RECOV_CTL.VACATE fences the channel. -/
  | vacate (a : At) (ag : Agent)
  /-- FENCE_POWERDOWN (R405): The fence's last order power-gates the compute die and enters BYPASS. -/
  | fencePowerdown (a : At)
  /-- SUSPECT (R404): A SUSPECT FAILURE bell arrives; the accused fences itself and the coordinator acts. -/
  | suspect (a : At) (p vc : Nat)
  /-- NOTICE (R406): A NOTICE FAILURE bell reaches the coordinator or the alternate. -/
  | notice (a : At) (p vc : Nat)
  /-- CALL (R408): A SUBSTITUTE CALL reaches a candidate, whose homeroom accepts or refuses. -/
  | call (a : At) (p vc : Nat)
  /-- ACCEPT (R409): An ACCEPT reaches the coordinator, which sends RECOVER. -/
  | accept (a : At) (p vc : Nat)
  /-- REFUSE (R407): A REFUSE makes the coordinator call its next candidate. -/
  | refuse (a : At) (p vc : Nat)
  /-- CALL_TIMEOUT (R407): A candidate silent for 10 ms is passed over. -/
  | callTimeout (a : At)
  /-- RECOVERY_ALT_TIMEOUT (R406): The alternate, having seen no RECOVER within 5 s, acts in place of the coordinator. -/
  | recoveryAltTimeout (a : At)
  /-- CLAIM_TIMEOUT (R408): A claimed spare with no RECOVER within 60 s drops its claim. -/
  | claimTimeout (a : At)
  /-- RECOVER (R409): A RECOVER bell arrives, is forwarded once and is held by the job's channels. -/
  | recover (a : At) (p vc : Nat)
  /-- RECOVER_HOLD_EXPIRY (R409): After the 2 ms hold, the lowest-seat RECOVER is applied by a term switch with the new chart. -/
  | recoverHoldExpiry (a : At)
  /-- UP (R411): The substitute's UP reaches the coordinator, which writes the chart and sends CHART. -/
  | up (a : At) (p vc : Nat)
  /-- CHART (R411): On CHART, the substitute checks the image, adopts the term, enters READY and starts the bootstrap. -/
  | chart (a : At) (p vc : Nat)
  /-- DOORBELL (R431): A write of HP_DBc.TAIL_CNT hands host queue entries to the executor. -/
  | doorbell (a : At) (v : Nat)
  /-- BOOT_LOAD (R529): The host's BOOT_LOAD message starts the HOST bootstrap path at its digest check. -/
  | bootLoad (a : At)
  /-- MON_REQ (R550): A host mailbox message carries a monitor request, answered under host policy. -/
  | monReq (a : At)
  /-- MB_ACK (R440): The host acknowledges a device-to-host message, freeing the area. -/
  | mbAck (a : At)
  /-- HOST_LINK_LOST (R442): A host link loss drops unacknowledged writes, fails reads, halts host queues and logs. -/
  | hostLinkLost (a : At) (cause : Nat)
  /-- LTSSM_RECOVERY_TIMEOUT (R441): An LTSSM Recovery that has not returned to L0 within 100 µs becomes a link loss. -/
  | ltssmRecoveryTimeout (a : At)
  /-- HOST_LINK_UP (R446): The host link comes up, and host-bound traffic and pending MSI-X messages resume. -/
  | hostLinkUp (a : At) (cxl : Bool) (width speed : Nat)
  /-- HOST_WRITE_ACCEPT (R423): The HPD accepts a waiting host-bound write into its outbound buffer, completing it. -/
  | hostWriteAccept (a : At)
  /-- QP_STATE_WRITE (R455): A write of EN_QPq_A.STATE moves a queue pair between states. -/
  | qpStateWrite (a : At) (ag : Agent) (q v : Nat)
  /-- RDMA_READ_REQUEST (R460): An inbound RDMA READ is checked against its memory region and answered. -/
  | rdmaReadRequest (a : At) (q psn va key len : Nat) (ce : Bool)
  /-- RDMA_WRITE_REQUEST (R461): An inbound RDMA WRITE is checked, performed and acknowledged once visible. -/
  | rdmaWriteRequest (a : At) (q psn va key : Nat) (data : List Byte) (ce : Bool)
  /-- RDMA_SEND (R462): An inbound SEND lands in the receive ring and signals its counter. -/
  | rdmaSend (a : At) (q psn : Nat) (data : List Byte) (ce : Bool)
  /-- READ_RESPONSE (R458): RDMA READ response data arrives and completes the READ. -/
  | readResponse (a : At) (q psn : Nat) (data : List Byte) (ce : Bool)
  /-- ROCE_ACK (R458): A responder's acknowledgement completes WRITE and SEND messages. -/
  | roceAck (a : At) (q psn : Nat) (ce : Bool)
  /-- ROCE_NAK (R459): A sequence, RNR, access or invalid-request NAK triggers a retransmission or the ERROR state. -/
  | roceNak (a : At) (q psn syn : Nat) (ce : Bool)
  /-- ACK_TIMEOUT (R459): With no acknowledgement within ACK_TO_US, the queue pair retransmits. -/
  | ackTimeout (a : At) (q : Nat)
  /-- CNP (R463): A received CNP lowers the queue pair's send rate. -/
  | cnp (a : At) (q : Nat)
  /-- RATE_INCREASE (R463): After INC_US with no decrease, the send rate rises by AI_GBPS. -/
  | rateIncrease (a : At) (q : Nat)
  /-- PFC (R454): A received priority flow control frame pauses or resumes the lossless priority. -/
  | pfc (a : At) (prios : Nat) (quanta : Nat)
  /-- XOFF_REFRESH (R454): XOFF is refreshed while occupancy stays high. -/
  | xoffRefresh (a : At)
  /-- ARP_REQUEST (R453): An ARP request for the port's address is answered. -/
  | arpRequest (a : At) (smac sip tip : Nat)
  /-- NEIGHBOR_SOLICITATION (R453): An IPv6 Neighbor Solicitation for the port's address is answered. -/
  | neighborSolicitation (a : At) (smac sip tip : Nat)
  /-- EN_LINK_UP (R467): The Ethernet link comes up. -/
  | enLinkUp (a : At)
  /-- EN_LINK_DOWN (R467): The Ethernet link goes down, and queue-pair state is kept. -/
  | enLinkDown (a : At)
  /-- UC_RETRAIN (R471): Writing UC_CTL.RETRAIN starts UCIe training. -/
  | ucRetrain (a : At) (ag : Agent)
  /-- UC_RETRY_LIMIT (R471): Sixteen successive retries of one flit start UCIe training. -/
  | ucRetryLimit (a : At)
  /-- UC_CAP (R471): A UCIe CAP arrives over the sideband and fixes the rate. -/
  | ucCap (a : At) (ver gen rate : Nat)
  /-- UC_MAP (R470): A good-lane MAP arrives, and each side computes G and the width. -/
  | ucMap (a : At) (map : Nat)
  /-- UC_SEL (R471): A SEL arrives and is compared; training at the selected width follows. -/
  | ucSel (a : At) (width part chk : Nat)
  /-- UC_EXCHANGE_TIMEOUT (R471): A MAP or SEL missing after 1 ms fails the exchange. -/
  | ucExchangeTimeout (a : At)
  /-- UC_LINK_UP (R471): The UCIe link finishes training and is UP. -/
  | ucLinkUp (a : At)
  /-- UC_LINK_DOWN (R472): The safe width fails to train within 10 ms, and the link goes DOWN. -/
  | ucLinkDown (a : At)
  /-- CLOCK_FAULT (R478): A loss of the reference or of root lock is detected, fencing a powered channel. -/
  | clockFault (a : At) (root : Bool)
  /-- REF_RETURN (R478): The reference returns and the root relocks, so the switch forwards in BYPASS. -/
  | refReturn (a : At)
  /-- THERM_SAMPLE (R479): Every 100 µs, the homeroom samples its sensors and forms T_base. -/
  | thermSample (a : At) (t : List (Option Int))
  /-- THERM_STEP (R480): Every 1 ms, the throttle control step adjusts DUTY from T_base. -/
  | thermStep (a : At)
  /-- PWRGD_FALL (R495): MOD_PWRGD held low for 1 ms turns off every converter on the module. -/
  | pwrgdFall (a : At)
  /-- PWRGD_GLITCH (R496): A low pulse of MOD_PWRGD shorter than 1 ms is ignored and logged. -/
  | pwrgdGlitch (a : At) (us : Nat)
  /-- CONVERTER_OFF (R497): Undervoltage, overvoltage or an eFuse trip turns the converters off. -/
  | converterOff (a : At) (cause : Nat)
  /-- ENV_SAMPLE (R500): Every 10 ms, the homeroom samples voltage, inlet temperature and flow into bands. -/
  | envSample (a : At) (vin iin : Option Nat) (tin : Option Int) (flow : Option Nat)
  /-- ERASE (R521): SYL_CMD ERASE starts erasing a 64 KiB flash sector. -/
  | erase (a : At) (ag : Agent) (v : Nat)
  /-- PROGRAM (R521): SYL_CMD PROGRAM starts writing SYL_BUF bytes to an erased page. -/
  | program (a : At) (ag : Agent) (v : Nat)
  /-- FLASH_READ (R521): SYL_CMD READ starts copying flash bytes into SYL_BUF. -/
  | flashRead (a : At) (ag : Agent) (v : Nat)
  /-- VERIFY (R521): SYL_CMD VERIFY starts running the boot checks on a copy. -/
  | verify (a : At) (ag : Agent) (v : Nat)
  /-- FLASH_OP_DONE (R521): A flash operation completes and sets LAST_CODE. -/
  | flashOpDone (a : At) (ok : Bool)
  /-- NONCE (R535): SEC_CTL NONCE writes a fresh nonce. -/
  | nonce (a : At) (ag : Agent)
  /-- ATTEST (R533): SEC_CTL ATTEST starts signing an attestation report over a challenge. -/
  | attest (a : At) (ag : Agent)
  /-- CERT (R533): SEC_CTL CERT writes the identity certificate. -/
  | cert (a : At) (ag : Agent)
  /-- UNLOCK (R535): SEC_CTL UNLOCK checks a signed token and applies its debug scope. -/
  | unlock (a : At) (ag : Agent)
  /-- ENROL (R536): SEC_CTL ENROL fuses a customer key into a slot. -/
  | enrol (a : At) (ag : Agent)
  /-- REVOKE (R536): SEC_CTL REVOKE fuses a slot's REVOKED bit. -/
  | revoke (a : At) (ag : Agent)
  /-- ZEROISE (R537): SEC_CTL ZEROISE with CONFIRM 0x5A erases the key store and entropy state. -/
  | zeroise (a : At) (ag : Agent) (confirm : Nat)
  /-- SELFTEST (R532): SEC_CTL SELFTEST runs the known-answer tests. -/
  | selftest (a : At) (ag : Agent)
  /-- SEC_OP_DONE (R538): A security module operation completes and writes SEC_RESULT. -/
  | secOpDone (a : At) (ok : Bool)
  /-- BOOTSTRAP (R528): On entering READY, the service core fetches, checks and places the program and starts the cores. -/
  | bootstrap (a : At)
  /-- BOOTSTRAP_RETRY (R528): A failed ROCE fetch is retried after 1 s. -/
  | bootstrapRetry (a : At)
  /-- ID (R546): The monitor ID request reports serial, stepping and versions. -/
  | monId (a : At) (src : MonSrc)
  /-- RD (R547): The monitor RD request reads an 8-byte register. -/
  | monRd (a : At) (src : MonSrc) (t off : Nat)
  /-- WR (R547): The monitor WR request writes an 8-byte register where policy permits. -/
  | monWr (a : At) (src : MonSrc) (t off v : Nat)
  /-- LOG (R546): The monitor LOG request returns event records. -/
  | monLog (a : At) (src : MonSrc) (t i n : Nat)
  /-- SENS (R546): The monitor SENS request lists every sensor. -/
  | monSens (a : At) (src : MonSrc)
  /-- PWR (R546): The monitor PWR request reports each channel's power. -/
  | monPwr (a : At) (src : MonSrc)
  /-- PWR_ON (R548): The monitor PWR t ON request restores power to an OFF channel, which starts at P1. -/
  | monPwrOn (a : At) (src : MonSrc) (t : Nat)
  /-- PWR_OFF (R546): The monitor PWR t OFF request requests the OFF state. -/
  | monPwrOff (a : At) (src : MonSrc) (t : Nat)
  /-- BAUD (R547): The monitor BAUD request changes the UART rate after its answer. -/
  | monBaud (a : At) (src : MonSrc) (r : Nat)
  /-- SVC_HALT (R546): The monitor halts a channel's service core under debug unlock. -/
  | svcHalt (a : At) (src : MonSrc) (t : Nat)
  /-- SVC_RUN (R546): The monitor restarts a channel's service core under debug unlock. -/
  | svcRun (a : At) (src : MonSrc) (t : Nat)
  /-- SVC_REG (R546): The monitor reads a service-core register under debug unlock. -/
  | svcReg (a : At) (src : MonSrc) (t n : Nat)
  /-- UART_BREAK (R546): A break of 10 ms or longer returns the UART to 115,200 baud. -/
  | uartBreak (a : At) (ms : Nat)
  /-- PWR_CTL_ON (R555): Writing MG_PWR_CTL.ON acts as PWR t ON. -/
  | pwrCtlOn (a : At) (ag : Agent) (t : Nat)
  /-- SET_ENDPOINT_ID (R551): The MCTP Set Endpoint ID control message is served. -/
  | setEndpointId (a : At) (op eid : Nat)
  /-- GET_ENDPOINT_ID (R551): The MCTP Get Endpoint ID control message is answered. -/
  | getEndpointId (a : At)
  /-- GET_MCTP_VERSION_SUPPORT (R551): The MCTP Get MCTP Version Support control message is answered. -/
  | getMctpVersionSupport (a : At) (mtype : Nat)
  /-- GET_MESSAGE_TYPE_SUPPORT (R551): The MCTP Get Message Type Support control message is answered. -/
  | getMessageTypeSupport (a : At)
  /-- GET_ID (R551): The vendor GET_ID request returns identification. -/
  | getId (a : At)
  /-- GET_SENSORS (R551): The vendor GET_SENSORS request returns the sensor readings. -/
  | getSensors (a : At)
  /-- GET_LOG (R551): The vendor GET_LOG request returns up to 32 event records. -/
  | getLog (a : At) (t i n : Nat)
  /-- ALERT_RESPONSE (R552): The SMBus Alert Response Address transaction returns the address and clears PEND. -/
  | alertResponse (a : At)
  /-- LOG_IDX_WRITE (R543): A write of HR_LOG_IDX or MG_LOG_IDX copies one whole record into the data registers. -/
  | logIdxWrite (a : At) (ag : Agent) (mg : Bool) (v : Nat)
  /-- PEER_TRAINING (R353): A port held DOWN sees its peer start training and begins training again. -/
  | peerTraining (a : At) (p : Nat)
  /-- RETRAIN_FAILED (R353): A retrain ends within 100 ms without reaching UP or HALF, and a further retrain starts. -/
  | retrainFailed (a : At) (p : Nat)
  /-- UC_TRAINING_FAILED (R471): UCIe training at the selected width fails, the exchange counts as failed and the side restarts from the lane test. -/
  | ucTrainingFailed (a : At)
  /-- HOST_READ_COMPLETION (R438): Completion data of a host-bound read arrives at the HPD and completes the read. -/
  | hostReadCompletion (a : At) (i : Nat) (data : List Byte)
  /-- HOST_CONFIGURATION_WRITE (R446): The host writes PCIe or CXL configuration (HDM decoder commit, Bus Master Enable, MSI-X vector mask) with effects on the device. -/
  | hostConfigurationWrite (a : At) (w : CfgWrite)
  /-- SLOT_CONFIG_WRITE (R233): A write to a slot or version-store configuration register is taken only in UNBOUND, and otherwise is ignored with SLOT_ACTION_IGNORED. -/
  | slotConfigWrite (a : At) (ag : Agent) (off v : Nat)
  /-- CONTEXT_CONFIG_WRITE (R290): A write to a CE context configuration register other than CE_GRPg_CFG is taken only while EN = 0, and otherwise is refused with reason WRITE_ENABLED. -/
  | contextConfigWrite (a : At) (ag : Agent) (off v : Nat)
  /-- CONVERTER_ON (R497): The input returns above 46 V or below 60 V and the converters turn on again. -/
  | converterOn (a : At)
  /-- CHANNEL_POWER_LOST (R405): One channel loses its supply, its corridor switch included, and it falls silent with no fence sequence. -/
  | channelPowerLost (a : At)
  /-- ENTROPY_HEALTH_FAILURE (R532): A continuous entropy repetition-count or adaptive-proportion test fails and the security module enters ERROR. -/
  | entropyHealthFailure (a : At)
  /-- DISCARDED_FRAME (R453): A received Ethernet frame of any other kind, global PAUSE included, is discarded and counted in EN_CNT_DISCARD. -/
  | discardedFrame (a : At)
  /-- RESERVED_PACKET (R354): A packet of reserved type, or a bell of reserved kind, is discarded and counted in CS_CNT_UNSUP. -/
  | reservedPacket (a : At) (p vc : Nat)
  /-- MONITOR_SYNTAX (R546): A monitor request line that is unknown, badly numbered or too long, or that follows dropped characters, is answered with ERR SYNTAX or OVERRUN. -/
  | monitorSyntax (a : At) (src : MonSrc) (overrun : Bool)
  /-- UNSUPPORTED_CONTROL_MESSAGE (R551): An MCTP control message other than the four supported is answered with ERROR_UNSUPPORTED_CMD. -/
  | unsupportedControlMessage (a : At) (code : Nat)
  /-- PAUSE_EXPIRY (R454): The pause time of a received PFC XOFF runs out and transmission on the lossless priority resumes. -/
  | pauseExpiry (a : At)
  deriving DecidableEq, Repr

end Sys2Proof
end

