-- ==== Sys2Proof/Decode.lean ====
section
/-!
DEFINITION. Decoding.  The command table (spec/opcode_table.json) gives no row any bits: its commands are events of a block, not
words.  So no word spells a command.  (The commands of the engine queues are bytes in memory; Machine/Operands.lean and the
meanings read them there.)
-/
namespace Sys2Proof

/-- The command that `nbits` bits `w` spell by the table's bits: none, for the table gives none. -/
def decodeTableWord (_nbits _w : Nat) : Option Instr := none

end Sys2Proof
end

