-- ==== Sys2Proof/Config.lean ====
section
/-!
DEFINITION. What the manual leaves open: free values.  Each is a constant without a body, so nothing can be proved about
its value; a statement that speaks of one holds for every value.  The first argument is the next number of the state's
own counter (`fresh`) wherever two uses need not agree.
-/
namespace Sys2Proof.Config

/-- R36: four or more bad symbols: may the code fail to notice them?  The argument is the codeword as it is read, so that two reads
of it agree (R6; notes/assumptions/3.md). -/
opaque eccMiss : List Byte → Bool
/-- R36: the data that a codeword of four or more unnoticed bad symbols yields. -/
opaque eccByte : List Byte → Nat → Byte

/-- R349: the payload of a link-control flit: message (1 NAK, 2 LANE_SWAP, 3 RETRAIN), its two numbers, byte.  Table 13-4
gives the layout of CAP alone. -/
opaque linkCtl : Nat → Nat → Nat → Nat → Byte

/-- R279: in FREE mode, the 16 random bits that a lane draws for an element. -/
opaque laneRandom : Nat → Nat → BitVec 16
/-- R273: a learning rate whose schedule entry is not a finite number. -/
opaque learningRate : Nat → BitVec 32

/-- R212, R564: SVC_STAT.FW_VER of a service-core firmware image; the manual gives no field that holds the version. -/
opaque fwVersion : List Byte → BitVec 32

/-- R410: where the service core writes its copy of the chart: a block of 64 KiB of the scratchpad, modulo 8,184. -/
opaque chartCopy : Nat

/-- R471: the 16-bit check of the good-lane map that SEL carries. -/
opaque mapCheck : Nat → BitVec 16

/-- R229, R408: the wake entry, modulo 32, that the service core of a spare gives to source 401. -/
opaque wakeEntry : Nat

/-- R508, R517, R533: Nolerda's slot 0 key, as the leaf shows it with which the identity certificate is signed: the leaf's number,
the SEED, the starts of the leaf's 67 chains, the 20 nodes of its path, and the signature's r (notes/assumptions/9.md). -/
opaque slot0Leaf : BitVec 20
opaque slot0Seed : BitVec 256
opaque slot0Start : Nat → BitVec 256
opaque slot0Path : Nat → BitVec 256
opaque slot0R : BitVec 256

/-- R508, R509: the seeds of the module's XMSS^MT key, written at manufacture: SK_SEED, SK_PRF and the public SEED. -/
opaque identitySeeds : BitVec 768

/-- R535: the nonces that the entropy source gives. -/
opaque nonce : Nat → BitVec 256

/-- R204: which of the lines of a full set a cache gives up (modulo 4). -/
opaque cacheVictim : Nat → Nat

/-- R210: does the service core's firmware handle the trap that it has taken? -/
opaque svcHandles : Nat → Bool

/-- R454: the pause time of the port's XOFF, in quanta of 512 bit times. -/
opaque xoffQuanta : BitVec 16

/-- R551: the version numbers that the endpoint reports for a message type (notes/assumptions/41.md). -/
opaque mctpVersion : Nat → BitVec 32

/-- Table 16-1: the payload of the answer to a memory-device mailbox command, whose contents CXL defines
(notes/assumptions/125.md). -/
opaque memDevice : Nat → Nat → List Byte

/-- R425: byte `i` of a host read at an offset that is no part of one aligned doubleword, given the doublewords that it touches, so
that two reads of the same contents agree (R6; notes/assumptions/124.md). -/
opaque barByte : Nat → List Nat → Nat → Byte

/-- R572: byte `i` of the results, records, norm pairs and gradebook entries of a bucket that its members issued differently
(notes/assumptions/134.md). -/
opaque ceUndefined : Nat → Nat → Byte

/-- R572: whether the members of a bucket's group issued it differently where no partial shows this member the difference
(notes/assumptions/134.md). -/
opaque ceIssuedApart : Nat → Bool

/-- R572: whether a bucket that its members issued differently stays incomplete when everything of it has come
(notes/assumptions/134.md). -/
opaque ceStuck : Nat → Bool

end Sys2Proof.Config
end

