-- ==== Sys2Proof/Machine/Bits.lean ====
section
/-!
DEFINITION. Bit fields, little-endian bytes (R3, R4), modular counters (R11) and sparse tables.

A sparse table is a list of (index, value) pairs in one canonical form: indexes strictly rising, and no entry equal to
what an unlisted index reads as.  Memory, registers and every numbered thing of the state are held this way.
-/
namespace Sys2Proof.Machine

variable {α : Type}

/-- Bits `[lo + w - 1 : lo]` of a number. -/
def bits (v lo w : Nat) : Nat := v / 2 ^ lo % 2 ^ w

/-- `v` with bits `[lo + w - 1 : lo]` replaced by the low `w` bits of `x`. -/
def setBits (v lo w x : Nat) : Nat :=
  v / 2 ^ (lo + w) * 2 ^ (lo + w) + (x % 2 ^ w) * 2 ^ lo + v % 2 ^ lo

/-- Bit `i` of a number. -/
def bit (v i : Nat) : Bool := v.testBit i

/-- One bit as a number. -/
def b2n (b : Bool) : Nat := if b then 1 else 0

/-- The `n` little-endian bytes of a number (R3). -/
def leBytes : Nat → Nat → List Byte
  | 0, _ => []
  | n + 1, v => BitVec.ofNat 8 v :: leBytes n (v / 256)

/-- The number that little-endian bytes spell (R3). -/
def ofLe : List Byte → Nat
  | [] => 0
  | b :: r => b.toNat + 256 * ofLe r

/-- `n` bytes at position `p` of a byte string, read as a little-endian number; bytes past the end read 0. -/
def leAt (bs : List Byte) (p n : Nat) : Nat := ofLe ((bs.drop p).take n)

/-- The two's-complement reading of the low `n` bits of a number. -/
def toSigned (n v : Nat) : Int :=
  let x := v % 2 ^ n
  if x < 2 ^ (n - 1) then (x : Int) else (x : Int) - (2 ^ n : Nat)

/-- The low `n` bits of an integer. -/
def ofSigned (n : Nat) (v : Int) : Nat := (v % ((2 ^ n : Nat) : Int)).toNat

/-- R11: `a` is later than `b`, for counters of `n` bits. -/
def later (n a b : Nat) : Bool := toSigned n (a + 2 ^ n - b % 2 ^ n) > 0

/-- R11: `a` equals `b` or is later. -/
def notEarlier (n a b : Nat) : Bool := toSigned n (a + 2 ^ n - b % 2 ^ n) ≥ 0

/-- A sparse table. -/
abbrev Tbl (α : Type) := List (Nat × α)

/-- The listed value at index `i`. -/
def tget? (i : Nat) : Tbl α → Option α
  | [] => none
  | (k, v) :: r => if k = i then some v else tget? i r

/-- The value at index `i`; an unlisted index reads `d i`. -/
def tget (d : Nat → α) (t : Tbl α) (i : Nat) : α := (tget? i t).getD (d i)

/-- The table without index `i`. -/
def terase (i : Nat) : Tbl α → Tbl α
  | [] => []
  | (k, v) :: r => if k = i then terase i r else (k, v) :: terase i r

/-- An entry put in its place among rising indexes. -/
def tins (i : Nat) (v : α) : Tbl α → Tbl α
  | [] => [(i, v)]
  | (k, x) :: r => if k < i then (k, x) :: tins i v r else (i, v) :: (k, x) :: r

/-- A write: the value an unlisted index reads as removes the entry. -/
def tput [DecidableEq α] (d : Nat → α) (t : Tbl α) (i : Nat) (v : α) : Tbl α :=
  if v = d i then terase i t else tins i v (terase i t)

/-- The table without the indexes `lo ≤ i < hi`. -/
def teraseRange (lo hi : Nat) : Tbl α → Tbl α
  | [] => []
  | (k, v) :: r => if lo ≤ k ∧ k < hi then teraseRange lo hi r else (k, v) :: teraseRange lo hi r

/-- Indexes strictly rising and all at least `lo`, and no entry equal to what an unlisted index reads as. -/
def twfFrom [DecidableEq α] (d : Nat → α) : Nat → Tbl α → Bool
  | _, [] => true
  | lo, (k, v) :: r => decide (lo ≤ k) && decide (v ≠ d k) && twfFrom d (k + 1) r

/-- The canonical form of a sparse table. -/
def twf [DecidableEq α] (d : Nat → α) (t : Tbl α) : Bool := twfFrom d 0 t

/-- The first entry that satisfies `p`. -/
def tfind (p : Nat → α → Bool) : Tbl α → Option (Nat × α)
  | [] => none
  | (k, v) :: r => if p k v then some (k, v) else tfind p r

/-- Element `i` of a list, `d` past its end. -/
def nth (d : α) (l : List α) (i : Nat) : α := (l[i]?).getD d

/-- The list with element `i` replaced; past its end nothing changes. -/
def setNth : List α → Nat → α → List α
  | [], _, _ => []
  | _ :: r, 0, v => v :: r
  | x :: r, i + 1, v => x :: setNth r i v

/-- Do the ranges `[a, a + n)` and `[b, b + m)` share a byte? -/
def overlaps (a n b m : Nat) : Bool := decide (a < b + m) && decide (b < a + n) && n != 0 && m != 0

/-- The population count of the low `n` bits. -/
def popcount : Nat → Nat → Nat
  | 0, _ => 0
  | n + 1, v => v % 2 + popcount n (v / 2)

/-- The lowest `n` numbers that satisfy a predicate. -/
def numsWhere (n : Nat) (p : Nat → Bool) : List Nat := (List.range n).filter p

/-- A 64-bit number rotated left. -/
def rotl64 (a n : Nat) : Nat := (a * 2 ^ n + a / 2 ^ (64 - n)) % 2 ^ 64

end Sys2Proof.Machine
end

