-- ==== Sys2Proof/Machine/Fp.lean ====
section
/-!
DEFINITION. Number formats and FP32 arithmetic (R119 to R122, R133): exact values as sign, magnitude and power of two, and
one rounding function.  FP32 and FP16 are IEEE 754-2019 binary32 and binary16, BF16 is binary32 without its low 16 bits, E4M3
and E5M2 follow the OCP 8-bit specification, the small element formats the OCP Microscaling formats (Table 5-1).
-/
namespace Sys2Proof.Machine

/-- Special values of a format: IEEE infinities and NaNs, E4M3's single NaN, or none. -/
inductive FmtKind where
  | ieee | e4m3 | plain
  deriving DecidableEq, Repr

/-- A binary format: exponent bits, bias, mantissa bits and special values. -/
structure Fmt where
  eb : Nat
  bias : Nat
  mb : Nat
  kind : FmtKind
  deriving DecidableEq, Repr

/-- Table 5-1. -/
def fmtFP32 : Fmt := ⟨8, 127, 23, .ieee⟩
def fmtBF16 : Fmt := ⟨8, 127, 7, .ieee⟩
def fmtFP16 : Fmt := ⟨5, 15, 10, .ieee⟩
def fmtE4M3 : Fmt := ⟨4, 7, 3, .e4m3⟩
def fmtE5M2 : Fmt := ⟨5, 15, 2, .ieee⟩
def fmtE3M2 : Fmt := ⟨3, 3, 2, .plain⟩
def fmtE2M3 : Fmt := ⟨2, 1, 3, .plain⟩
def fmtE2M1 : Fmt := ⟨2, 1, 1, .plain⟩

/-- An exact value: NaN, an infinity, or sign, magnitude and weight exponent, (−1)^neg × m × 2^q. -/
inductive Num where
  | nan
  | inf (neg : Bool)
  | fin (neg : Bool) (m : Nat) (q : Int)
  deriving DecidableEq, Repr

/-- The position of the leading bit of a non-zero number. -/
def msb (m : Nat) : Nat := Nat.log2 m

/-- The value that an encoding stands for. -/
def Fmt.decode (f : Fmt) (code : Nat) : Num :=
  let neg := bit code (f.eb + f.mb)
  let e := bits code f.mb f.eb
  let m := bits code 0 f.mb
  let top := e = 2 ^ f.eb - 1
  if f.kind = .ieee ∧ top then (if m = 0 then .inf neg else .nan)
  else if f.kind = .e4m3 ∧ top ∧ m = 2 ^ f.mb - 1 then .nan
  else if e = 0 then .fin neg m (1 - (f.bias : Int) - f.mb)
  else .fin neg (2 ^ f.mb + m) ((e : Int) - f.bias - f.mb)

/-- The magnitude code of the largest finite value. -/
def Fmt.maxCode (f : Fmt) : Nat :=
  match f.kind with
  | .ieee => (2 ^ f.eb - 1) * 2 ^ f.mb - 1
  | .e4m3 => 2 ^ (f.eb + f.mb) - 2
  | .plain => 2 ^ (f.eb + f.mb) - 1

/-- The sign bit of an encoding. -/
def Fmt.sign (f : Fmt) (neg : Bool) : Nat := b2n neg * 2 ^ (f.eb + f.mb)

/-- The canonical NaN (R121). -/
def Fmt.nanCode (f : Fmt) : Nat :=
  match f.kind with
  | .ieee => (2 ^ f.eb - 1) * 2 ^ f.mb + 2 ^ (f.mb - 1)
  | .e4m3 => 2 ^ (f.eb + f.mb) - 1
  | .plain => 0

/-- The code of an infinity. -/
def Fmt.infCode (f : Fmt) (neg : Bool) : Nat := (2 ^ f.eb - 1) * 2 ^ f.mb + f.sign neg

/-- Rounding: to nearest, ties to even; toward zero; down; up; to nearest, ties away; stochastic with 16 random bits (R278). -/
inductive Rnd where
  | rne | rtz | rdn | rup | rmm
  | sr (r : Nat)
  deriving DecidableEq, Repr

/-- Does a magnitude `r` with remainder `rem` of 2^sh round up in magnitude? -/
def Rnd.up (mode : Rnd) (neg : Bool) (r rem sh : Nat) : Bool :=
  let half := 2 ^ (sh - 1)
  match mode with
  | .rne => half < rem || (rem == half && r % 2 == 1)
  | .rtz => false
  | .rdn => neg && rem != 0
  | .rup => !neg && rem != 0
  | .rmm => half ≤ rem
  | .sr k => 2 ^ 16 ≤ rem * 2 ^ 16 / 2 ^ sh + k

/-- A rounded magnitude: its code (which may lie beyond the largest finite value), and whether bits were lost. -/
structure Rounded where
  code : Nat
  inexact : Bool
  deriving DecidableEq, Repr

/-- The magnitude m × 2^q rounded to the format's precision with gradual underflow and an unbounded exponent above
(m ≠ 0). -/
def Fmt.roundMag (f : Fmt) (mode : Rnd) (neg : Bool) (m : Nat) (q : Int) : Rounded :=
  let emin : Int := 1 - (f.bias : Int)
  let e : Int := (msb m : Int) + q
  let ulp : Int := max e emin - f.mb
  let field : Nat := (ulp + f.mb + f.bias).toNat
  if ulp ≤ q then
    { code := (field - 1) * 2 ^ f.mb + m * 2 ^ (q - ulp).toNat, inexact := false }
  else
    let sh := (ulp - q).toNat
    let r := m / 2 ^ sh
    let rem := m % 2 ^ sh
    { code := (field - 1) * 2 ^ f.mb + (if rem != 0 && mode.up neg r rem sh then r + 1 else r), inexact := rem != 0 }

/-- Does the rounded magnitude exceed the largest finite value? -/
def Fmt.over (f : Fmt) (r : Rounded) : Bool := f.maxCode < r.code

/-- FP32 result of a finite value in a mode: the code and the exception flags NX, UF, OF of RISC-V (bits 0, 1, 2). -/
def f32Round (mode : Rnd) (neg : Bool) (m : Nat) (q : Int) : Nat × Nat :=
  if m = 0 then (fmtFP32.sign neg, 0)
  else
    let r := fmtFP32.roundMag mode neg m q
    if fmtFP32.over r then
      let toMax := match mode with
        | .rtz => true | .rdn => !neg | .rup => neg | _ => false
      ((if toMax then fmtFP32.maxCode + fmtFP32.sign neg else fmtFP32.infCode neg), 5)
    else
      -- tininess after rounding: the value rounded with unbounded exponent lies below the smallest normal
      let e : Int := (msb m : Int) + q
      let wide : Fmt := { fmtFP32 with eb := 12, bias := 2047 }
      let tiny := e < -126 && (wide.roundMag mode neg m q).code < (2047 - 126) * 2 ^ 23
      (r.code + fmtFP32.sign neg, if r.inexact then (if tiny then 3 else 1) else 0)

/-- FP32, round-to-nearest-even: the `RN` of the manual. -/
def rn (neg : Bool) (m : Nat) (q : Int) : Nat := (f32Round .rne neg m q).1

def nan32 : Nat := 0x7FC00000
def one32 : Nat := 0x3F800000

/-- The value of an FP32 code. -/
def f32 (code : Nat) : Num := fmtFP32.decode code

/-- FP32 classes. -/
def isNan32 (a : Nat) : Bool := f32 a == .nan
def isInf32 (a : Nat) : Bool := match f32 a with | .inf _ => true | _ => false
def isFin32 (a : Nat) : Bool := match f32 a with | .fin .. => true | _ => false
def neg32? (a : Nat) : Bool := bit a 31
/-- The code with its sign changed. -/
def negate32 (a : Nat) : Nat := if bit a 31 then a - 2 ^ 31 else a + 2 ^ 31
/-- The magnitude of a code. -/
def abs32 (a : Nat) : Nat := a % 2 ^ 31
def isZero32 (a : Nat) : Bool := abs32 a == 0

/-- A signed magnitude as an integer multiple of 2^q, q not above its own exponent. -/
def scaled (neg : Bool) (m : Nat) (q0 q : Int) : Int :=
  let v : Int := (m * 2 ^ (q0 - q).toNat : Nat)
  if neg then -v else v

/-- The exact sum of two finite values, with the sign rule for zero sums in a mode. -/
def addExact (mode : Rnd) (n1 : Bool) (m1 : Nat) (q1 : Int) (n2 : Bool) (m2 : Nat) (q2 : Int) : Bool × Nat × Int :=
  let q := min q1 q2
  let s := scaled n1 m1 q1 q + scaled n2 m2 q2 q
  if s = 0 then
    ((if m1 = 0 ∧ m2 = 0 ∧ n1 = n2 then n1 else mode == .rdn), 0, q)
  else (decide (s < 0), s.natAbs, q)

/-- FP32 addition with flags (NV is bit 4). -/
def addF (mode : Rnd) (a b : Num) : Nat × Nat :=
  match a, b with
  | .nan, _ | _, .nan => (nan32, 0)
  | .inf s, .inf t => if s = t then (fmtFP32.infCode s, 0) else (nan32, 16)
  | .inf s, _ => (fmtFP32.infCode s, 0)
  | _, .inf t => (fmtFP32.infCode t, 0)
  | .fin s m q, .fin t n r =>
    let (sg, k, e) := addExact mode s m q t n r
    f32Round mode sg k e

/-- FP32 multiplication with flags. -/
def mulF (mode : Rnd) (a b : Num) : Nat × Nat :=
  match a, b with
  | .nan, _ | _, .nan => (nan32, 0)
  | .inf s, .inf t => (fmtFP32.infCode (s != t), 0)
  | .inf s, .fin t m _ => if m = 0 then (nan32, 16) else (fmtFP32.infCode (s != t), 0)
  | .fin s m _, .inf t => if m = 0 then (nan32, 16) else (fmtFP32.infCode (s != t), 0)
  | .fin s m q, .fin t n r => f32Round mode (s != t) (m * n) (q + r)

/-- Fused multiply-add a × b + c, one rounding, with flags. -/
def fmaF (mode : Rnd) (a b c : Num) : Nat × Nat :=
  let bad := match a, b with
    | .inf _, .fin _ 0 _ => true
    | .fin _ 0 _, .inf _ => true
    | _, _ => false
  if bad then (nan32, 16)
  else
    match a, b, c with
    | .nan, _, _ | _, .nan, _ | _, _, .nan => (nan32, 0)
    | .fin s m q, .fin t n r, .fin u k e =>
      let (sg, x, y) := addExact mode (s != t) (m * n) (q + r) u k e
      f32Round mode sg x y
    | .fin _ _ _, .fin _ _ _, .inf u => (fmtFP32.infCode u, 0)
    | a, b, c =>
      let s := (match a with | .inf s => s | .fin s _ _ => s | .nan => false) !=
        (match b with | .inf s => s | .fin s _ _ => s | .nan => false)
      match c with
      | .inf u => if u = s then (fmtFP32.infCode s, 0) else (nan32, 16)
      | _ => (fmtFP32.infCode s, 0)

/-- A quotient with at least 64 bits and a sticky bit at the low end. -/
def divSticky (m n : Nat) : Nat × Int :=
  let k := msb n + 64
  let x := m * 2 ^ k
  (2 * (x / n) + b2n (x % n != 0), -(k : Int) - 1)

/-- FP32 division with flags (DZ is bit 3). -/
def divF (mode : Rnd) (a b : Num) : Nat × Nat :=
  match a, b with
  | .nan, _ | _, .nan => (nan32, 0)
  | .inf _, .inf _ => (nan32, 16)
  | .inf s, .fin t _ _ => (fmtFP32.infCode (s != t), 0)
  | .fin s _ _, .inf t => (fmtFP32.sign (s != t), 0)
  | .fin s m q, .fin t n r =>
    if n = 0 then (if m = 0 then (nan32, 16) else (fmtFP32.infCode (s != t), 8))
    else if m = 0 then (fmtFP32.sign (s != t), 0)
    else
      let (x, k) := divSticky m n
      f32Round mode (s != t) x (q - r + k)

/-- The integer square root, by bits from 2^k down. -/
def isqrtAux (n : Nat) : Nat → Nat → Nat
  | 0, r => r
  | k + 1, r => let t := r + 2 ^ k; isqrtAux n k (if t * t ≤ n then t else r)

def isqrt (n : Nat) : Nat := isqrtAux n (msb n / 2 + 1) 0

/-- The square root of m × 2^q with a sticky bit (m ≠ 0). -/
def sqrtSticky (m : Nat) (q : Int) : Nat × Int :=
  let odd := q % 2 ≠ 0
  let m := if odd then 2 * m else m
  let q := if odd then q - 1 else q
  let x := m * 2 ^ 64
  let r := isqrt x
  (2 * r + b2n (r * r != x), q / 2 - 33)

/-- FP32 square root with flags. -/
def sqrtF (mode : Rnd) (a : Num) : Nat × Nat :=
  match a with
  | .nan => (nan32, 0)
  | .inf s => if s then (nan32, 16) else (fmtFP32.infCode false, 0)
  | .fin s m q =>
    if m = 0 then (fmtFP32.sign s, 0)
    else if s then (nan32, 16)
    else let (x, k) := sqrtSticky m q; f32Round mode false x k

/-- FP32 operations on codes, round-to-nearest-even. -/
def add32 (a b : Nat) : Nat := (addF .rne (f32 a) (f32 b)).1
def sub32 (a b : Nat) : Nat := add32 a (negate32 b)
def mul32 (a b : Nat) : Nat := (mulF .rne (f32 a) (f32 b)).1
def fma32 (a b c : Nat) : Nat := (fmaF .rne (f32 a) (f32 b) (f32 c)).1
def div32 (a b : Nat) : Nat := (divF .rne (f32 a) (f32 b)).1
def sqrt32 (a : Nat) : Nat := (sqrtF .rne (f32 a)).1

/-- Order of finite or infinite values: a < b; false with a NaN; −0 equals +0. -/
def ltNum (a b : Num) : Bool :=
  match a, b with
  | .nan, _ | _, .nan => false
  | .inf s, .inf t => s && !t
  | .inf s, _ => s
  | _, .inf t => !t
  | .fin s m q, .fin t n r =>
    let e := min q r
    decide (scaled s m q e < scaled t n r e)

def eqNum (a b : Num) : Bool :=
  match a, b with
  | .nan, _ | _, .nan => false
  | a, b => !ltNum a b && !ltNum b a

def lt32 (a b : Nat) : Bool := ltNum (f32 a) (f32 b)
def eq32 (a b : Nat) : Bool := eqNum (f32 a) (f32 b)

/-- Minimum and maximum of IEEE 754-2019: NaN if either is NaN; −0 below +0. -/
def min32 (a b : Nat) : Nat :=
  if isNan32 a || isNan32 b then nan32
  else if isZero32 a && isZero32 b then (if neg32? a then a else b)
  else if lt32 b a then b else a
def max32 (a b : Nat) : Nat :=
  if isNan32 a || isNan32 b then nan32
  else if isZero32 a && isZero32 b then (if neg32? a then b else a)
  else if lt32 a b then b else a

/-- floor(log2 |v|) of a finite non-zero FP32 value. -/
def exp32? (a : Nat) : Option Int :=
  match f32 a with
  | .fin _ m q => if m = 0 then none else some ((msb m : Int) + q)
  | _ => none

/-- An exact value rounded once to FP32 (R165): zeros keep their sign, NaN is canonical. -/
def toF32 : Num → Nat
  | .nan => nan32
  | .inf s => fmtFP32.infCode s
  | .fin s m q => rn s m q

/-- The two sum of R126: RN(a + b) and the rounding error. -/
def twoSum (a b : Nat) : Nat × Nat :=
  let s := add32 a b
  let bb := sub32 s a
  (s, add32 (sub32 a (sub32 s bb)) (sub32 b bb))

/-- R126: a pass result combined with an accumulator pair. -/
def accCombine (init : Bool) (s e p : Nat) : Nat × Nat :=
  if init then (p, 0)
  else
    let r := add32 s p
    if !isFin32 s || !isFin32 p || !isFin32 r then (r, 0)
    else
      let (x, t) := twoSum s p
      (x, add32 e t)

/-! ### Element formats of commands (Tables 4-1, 5-4 and 7-1) -/

/-- The formats of Table 4-1 by number: element format and whether blocks carry an E8M0 scale; 0x10 is MASK. -/
def elemFmt (n : Nat) : Option (Fmt × Bool) :=
  match n with
  | 0x00 => some (fmtE4M3, false) | 0x01 => some (fmtE5M2, false)
  | 0x02 => some (fmtE4M3, true) | 0x03 => some (fmtE5M2, true)
  | 0x04 => some (fmtE3M2, true) | 0x05 => some (fmtE2M3, true)
  | 0x06 => some (fmtE2M1, true)
  | 0x08 => some (fmtBF16, false) | 0x09 => some (fmtFP16, false)
  | 0x0C => some (fmtFP32, false)
  | _ => none

def fmtOk (n : Nat) : Bool := (elemFmt n).isSome
def isMx (n : Nat) : Bool := 2 ≤ n && n ≤ 6
def fmtOf (n : Nat) : Fmt := ((elemFmt n).map (·.1)).getD fmtFP32

/-- Bits of one element. -/
def elemBits (n : Nat) : Nat := if n = 0x10 then 1 else 1 + (fmtOf n).eb + (fmtOf n).mb

/-- Bytes of `k` packed elements (R120). -/
def elemBytes (n k : Nat) : Nat := (elemBits n * k + 7) / 8

/-- Element `j` of a packed byte string: FP6 groups of four take three bytes, FP4 pairs one byte (R120), mask bits one
bit. -/
def elemAt (n : Nat) (bs : List Byte) (j : Nat) : Nat :=
  let w := elemBits n
  let p := w * j
  bits (leAt bs (p / 8) 5) (p % 8) w

/-- Packed bytes of element codes (R120). -/
def packElems (n : Nat) (codes : List Nat) : List Byte :=
  let w := elemBits n
  let big := codes.foldr (fun x acc => x + acc * 2 ^ w) 0
  leBytes (elemBytes n codes.length) big

/-- The power of two of an E8M0 scale; `none` for the NaN code 0xFF. -/
def e8m0 (code : Nat) : Option Int := if code = 0xFF then none else some ((code : Int) - 127)

/-- An element's exact value with its block's scale. -/
def scaledNum (x : Num) (sc : Option Int) : Num :=
  match x, sc with
  | .nan, _ | _, none => .nan
  | .inf s, _ => .inf s
  | .fin s m q, some e => .fin s m (q + e)

/-! ### Conversion (R133 to R135, R160) -/

/-- One converted element: its code and what it counts as. -/
structure Conv where
  code : Nat
  ovf : Bool := false
  van : Bool := false
  sub : Bool := false
  deriving DecidableEq, Repr

/-- Is a magnitude code subnormal in the format? -/
def Fmt.isSub (f : Fmt) (mag : Nat) : Bool := mag != 0 && mag < 2 ^ f.mb

/-- R133, Table 5-5, with R160 in Elvey 2 mode: an FP32 value to a non-MX format. -/
def convert (f : Fmt) (mode : Rnd) (sat e2 : Bool) (v : Nat) : Conv :=
  if f = fmtFP32 then
    match f32 v with
    | .nan => { code := nan32 }
    | .inf _ => { code := v, ovf := true }
    | .fin s m _ =>
      if e2 && m != 0 && f.isSub (abs32 v) then { code := f.sign s, van := true }
      else { code := v, sub := m != 0 && f.isSub (abs32 v) }
  else
    match f32 v with
    | .nan => { code := f.nanCode }
    | .inf s =>
      if f.kind = .ieee then { code := f.infCode s, ovf := true }
      else { code := if sat then f.maxCode + f.sign s else f.nanCode, ovf := true }
    | .fin s m q =>
      if m = 0 then { code := f.sign s }
      else
        let r := f.roundMag mode s m q
        if f.over r then
          if sat || mode == .rtz then { code := f.maxCode + f.sign s, ovf := true }
          else if f.kind = .ieee then { code := f.infCode s, ovf := true }
          else { code := f.nanCode, ovf := true }
        else if r.code = 0 then { code := f.sign s, van := true }
        else if f.isSub r.code then
          if e2 then { code := f.sign s, van := true } else { code := r.code + f.sign s, sub := true }
        else { code := r.code + f.sign s }

/-- The largest normal exponent of an MX element format (R134). -/
def emaxOf (f : Fmt) : Int :=
  if f = fmtE4M3 then 8 else if f = fmtE5M2 then 15 else if f = fmtE3M2 then 4 else 2

/-- R134: a block of FP32 values to an MX format: the scale byte and the elements.  In a block whose scale is 0xFF no element counts
as vanished (R135; DESIGN CHOICE, notes/assumptions/133.md). -/
def convertMx (f : Fmt) (mode : Rnd) (vs : List Nat) : Nat × List Conv :=
  if vs.any (fun v => !isFin32 v) then
    (0xFF, vs.map (fun v => { code := 0, ovf := isInf32 v }))
  else
    let amax := vs.foldl (fun a v => max a (abs32 v)) 0
    match f32 amax with
    | .fin _ m q =>
      let x0 : Int := if m = 0 then -127 else (msb m : Int) + q - emaxOf f
      let x1 : Int := if m ≠ 0 ∧ f.over (f.roundMag mode false m (q - x0)) then x0 + 1 else x0
      let x : Int := max x1 (-127)
      let one (v : Nat) : Conv :=
        match f32 v with
        | .fin s m q =>
          if m = 0 then { code := f.sign s }
          else
            let r := f.roundMag mode s m (q - x)
            { code := r.code + f.sign s, van := r.code == 0, sub := f.isSub r.code }
        | _ => { code := 0 }
      ((x + 127).toNat, vs.map one)
    | _ => (0xFF, vs.map (fun _ => { code := 0 }))

end Sys2Proof.Machine
end

