-- ==== Sys2Proof/Machine/FpFunc.lean ====
section
/-!
DEFINITION. The functions of the function stages (R130, R180, R181).  Each result is the exact value of the function
rounded once to FP32; it is found from two bounds on the exact value, in integer arithmetic of growing precision, as soon
as both bounds round alike.
-/
namespace Sys2Proof.Machine

/-- ln 2 and 2·√(2/π), scaled by 2^440 and truncated. -/
def ln2Scaled : Nat := 1967993017450341159941259058247707673170273436274736432620672316440916855485724492362804444458040432929760893851004249265809758697505
def geluScaled : Nat := 4530729658664962850373395326552683490604926195217941902884564788085762448873239931438947719292202178065612548010059630802079152535636

/-- ln 2 with p fraction bits, truncated. -/
def ln2At (p : Nat) : Nat := ln2Scaled / 2 ^ (440 - p)

/-- Bounds [lo, hi] × 2^ex on a positive value. -/
structure Bounds where
  lo : Nat
  hi : Nat
  ex : Int
  deriving DecidableEq, Repr

/-- Terms of the alternating series of e^−r, r with p fraction bits below ln 2: `k` counts terms, `t` is the last term,
`pos` and `neg` the sums so far. -/
def expTerms (p r : Nat) : Nat → Nat → Nat → Nat → Nat → Nat × Nat
  | 0, _, _, pos, neg => (pos, neg)
  | fuel + 1, k, t, pos, neg =>
    let t' := t * r / 2 ^ p / k
    if k % 2 = 0 then expTerms p r fuel (k + 1) t' (pos + t') neg
    else expTerms p r fuel (k + 1) t' pos (neg + t')

/-- Bounds on e^−x for x = xs / 2^p, itself known to within `err` units. -/
def expNeg (p xs err : Nat) : Bounds :=
  let l := ln2At p
  let n := xs / l
  let r := xs % l
  let (pos, neg) := expTerms p r (p / 2) 1 (2 ^ p) (2 ^ p) 0
  let s := pos - neg
  let e := 2 * p + 2 * n + err + 16
  { lo := s - e, hi := s + e, ex := -(p : Int) - n }

/-- Terms of atanh z, z with p fraction bits at most 1/3. -/
def atanhTerms (p z2 : Nat) : Nat → Nat → Nat → Nat → Nat
  | 0, _, _, s => s
  | fuel + 1, k, t, s => let t' := t * z2 / 2 ^ p; atanhTerms p z2 fuel (k + 2) t' (s + t' / k)

/-- Bounds, in units of 2^−p, on log2 y for 1 < y < 2, y = m / 2^k. -/
def log2Frac (p m k : Nat) : Nat × Nat :=
  let z := (m - 2 ^ k) * 2 ^ p / (m + 2 ^ k)
  let s := atanhTerms p (z * z / 2 ^ p) (p / 3 + 8) 3 z z
  let e := 2 * p + 32
  let l := ln2At p
  (2 * (s - e) * 2 ^ p / (l + 1), 2 * (s + e) * 2 ^ p / l + 1)

/-- The FP32 code that both bounds round to, if they agree. -/
def agree (neg : Bool) (b : Bounds) : Option Nat :=
  let x := rn neg b.lo b.ex
  if x = rn neg b.hi b.ex then some x else none

/-- The first precision at which the bounds agree; the lower bound of the last, should none. -/
def settle (neg : Bool) (f : Nat → Bounds) : Nat :=
  match agree neg (f 96) with
  | some x => x
  | none =>
    match agree neg (f 200) with
    | some x => x
    | none => match agree neg (f 420) with | some x => x | none => rn neg (f 420).lo (f 420).ex

/-- m × 2^q with p fraction bits, truncated. -/
def fixedAt (p m : Nat) (q : Int) : Nat :=
  if 0 ≤ q + p then m * 2 ^ (q + p).toNat else m / 2 ^ (-(q + p)).toNat

/-- A quotient of bounds: a / b with p more bits. -/
def divBounds (p : Nat) (a b : Bounds) : Bounds :=
  { lo := a.lo * 2 ^ p / (b.hi + 1), hi := a.hi * 2 ^ p / (b.lo) + 1, ex := a.ex - b.ex - p }

/-- 1 + b for bounds b with a negative exponent. -/
def onePlus (b : Bounds) : Bounds :=
  let one := 2 ^ (-b.ex).toNat
  { b with lo := one + b.lo, hi := one + b.hi }

def oneMinus (b : Bounds) : Bounds :=
  let one := 2 ^ (-b.ex).toNat
  { b with lo := one - b.hi, hi := one - b.lo }

def oneAt (b : Bounds) : Bounds := let one := 2 ^ (-b.ex).toNat; { b with lo := one, hi := one }

/-- Bounds on the sigmoid of ±w, w given by bounds in units of 2^−p. -/
def sigBounds (p : Nat) (neg : Bool) (wlo whi : Nat) : Bounds :=
  let a := expNeg p whi 2
  let b := expNeg p wlo 2
  -- e^−w lies between a and b; bring both to one exponent
  let ex := min a.ex b.ex
  let e : Bounds := { lo := a.lo * 2 ^ (a.ex - ex).toNat, hi := b.hi * 2 ^ (b.ex - ex).toNat, ex := ex }
  if neg then divBounds (2 * p) e (onePlus e) else divBounds (2 * p) (oneAt e) (onePlus e)

/-- The sigmoid of a finite value, rounded once. -/
def sigmoidFin (s : Bool) (m : Nat) (q : Int) : Nat :=
  if m = 0 then 0x3F000000
  else if (msb m : Int) + q ≥ 8 then (if s then 0 else one32)
  else settle false (fun p => let w := fixedAt p m q; sigBounds p s w (w + 1))

/-- The σ of GELU: the sigmoid of w = 2·√(2/π)·(a + 0.044715·a³), rounded once. -/
def geluSigma (s : Bool) (m : Nat) (q : Int) : Nat :=
  if m = 0 then 0x3F000000
  else if (msb m : Int) + q ≥ 6 then (if s then 0 else one32)
  else settle false (fun p =>
    -- a + 0.044715 a³ = (m·10^6·2^q + 44715·m³·2^3q) / 10^6
    let u := (fixedAt (p + 8) m q) * 1000000 + 44715 * fixedAt (p + 8) (m * m * m) (3 * q)
    let c := geluScaled / 2 ^ (440 - p)
    let wlo := u * c / 1000000 / 2 ^ (p + 8)
    let whi := (u + 2000000) * (c + 1) / 1000000 / 2 ^ (p + 8) + 1
    sigBounds p s wlo whi)

/-- The hyperbolic tangent of a finite value, rounded once.  Below 2^−13 it rounds to its argument. -/
def tanhFin (s : Bool) (m : Nat) (q : Int) : Nat :=
  if m = 0 then fmtFP32.sign s
  else if (msb m : Int) + q < -13 then rn s m q
  else if (msb m : Int) + q ≥ 6 then one32 + fmtFP32.sign s
  else settle s (fun p =>
    let w := fixedAt p m (q + 1)
    let a := expNeg p (w + 1) 2
    let b := expNeg p w 2
    let ex := min a.ex b.ex
    let e : Bounds := { lo := a.lo * 2 ^ (a.ex - ex).toNat, hi := b.hi * 2 ^ (b.ex - ex).toNat, ex := ex }
    let n := oneMinus e
    let d := onePlus e
    { lo := n.lo * 2 ^ (2 * p) / (d.hi + 1), hi := n.hi * 2 ^ (2 * p) / d.lo + 1, ex := -(2 * p : Nat) })

/-- 2^v of a finite value, rounded once. -/
def exp2Fin (s : Bool) (m : Nat) (q : Int) : Nat :=
  if m = 0 then one32
  else if (msb m : Int) + q ≥ 8 then (if s then 0 else 0x7F800000)
  else if 0 ≤ q ∨ m % 2 ^ (-q).toNat = 0 then
    -- an integer exponent: an exact power of two
    let k : Int := if 0 ≤ q then (m * 2 ^ q.toNat : Nat) else (m / 2 ^ (-q).toNat : Nat)
    rn false 1 (if s then -k else k)
  else
    let d := 2 ^ (-q).toNat
    -- ceiling n of v and g = n − v in (0, 1)
    let n : Int := if s then -((m / d : Nat) : Int) else ((m / d + 1 : Nat) : Int)
    let g := if s then m % d else d - m % d
    settle false (fun p =>
      let x := fixedAt p g q * ln2At p / 2 ^ p
      let b := expNeg p x 4
      { b with ex := b.ex + n })

/-- log2 of a finite positive value, rounded once. -/
def log2Fin (m : Nat) (q : Int) : Nat :=
  let k := msb m
  let e : Int := k + q
  if m = 2 ^ k then (if e = 0 then 0 else rn (decide (e < 0)) e.natAbs 0)
  else
    let bound (p : Nat) : Bounds :=
      let (lo, hi) := log2Frac p m k
      if e ≥ 0 then { lo := e.toNat * 2 ^ p + lo, hi := e.toNat * 2 ^ p + hi, ex := -(p : Int) }
      else { lo := (-e).toNat * 2 ^ p - hi, hi := (-e).toNat * 2 ^ p - lo, ex := -(p : Int) }
    settle (decide (e < 0)) bound

/-- 1 / v. -/
def recipFin (s : Bool) (m : Nat) (q : Int) : Nat :=
  if m = 0 then fmtFP32.infCode s
  else let (x, k) := divSticky 1 m; rn s x (k - q)

/-- 1 / √v of a positive value. -/
def rsqrtFin (m : Nat) (q : Int) : Nat :=
  let odd := q % 2 ≠ 0
  let m := if odd then 2 * m else m
  let q := if odd then q - 1 else q
  let k := msb m + 64
  let r := isqrt (2 ^ (2 * k) / m)
  rn false (2 * r + b2n (r * r * m != 2 ^ (2 * k))) (-(k : Int) - q / 2 - 1)

/-- R180, R181: the function with code `fn` of Table 5-3 (0x04 to 0x0C) at an FP32 value. -/
def funcStage (fn v : Nat) : Nat :=
  match f32 v with
  | .nan => nan32
  | .inf s =>
    match fn with
    | 0x04 | 0x05 => if s then 0x80000000 else v
    | 0x06 => one32 + fmtFP32.sign s
    | 0x07 => if s then 0 else one32
    | 0x08 => if s then 0 else v
    | 0x09 => if s then nan32 else v
    | 0x0A => fmtFP32.sign s
    | 0x0B => if s then nan32 else v
    | _ => if s then nan32 else 0
  | .fin s m q =>
    match fn with
    | 0x04 => if m = 0 then v else mul32 v (geluSigma s m q)
    | 0x05 => if m = 0 then v else mul32 v (sigmoidFin s m q)
    | 0x06 => tanhFin s m q
    | 0x07 => sigmoidFin s m q
    | 0x08 => exp2Fin s m q
    | 0x09 => if m = 0 then 0xFF800000 else if s then nan32 else log2Fin m q
    | 0x0A => recipFin s m q
    | 0x0B => sqrt32 v
    | _ => if m = 0 then fmtFP32.infCode s else if s then nan32 else rsqrtFin m q

/-- Does an activation need a function-stage grant (Table 5-3)? -/
def actGrant (act : Nat) : Bool := 0x04 ≤ act && act ≤ 0x0C

/-- Table 5-3: an activation. -/
def activate (act p0 p1 v : Nat) : Nat :=
  match act with
  | 0x00 => v
  | 0x01 => if isNan32 v then nan32 else if lt32 0 v then v else 0
  | 0x02 => if lt32 v 0 then mul32 p0 v else v
  | 0x03 => if isNan32 v then nan32 else min32 (max32 v p0) p1
  | _ => funcStage act v

end Sys2Proof.Machine
end

