-- ==== Sys2Proof/Machine/Schedule.lean ====
section
/-!
DEFINITION. The per-step constants of the update unit (R272 to R274): exact reals, each rounded once to FP32.
-/
namespace Sys2Proof.Machine

/-- π scaled by 2^440 and truncated. -/
def piScaled : Nat := 8919653111686155361594895283741457667927754617975811017404146498622904977937858519328448476565678712740932499400936380777796272225360

/-- The FP32 nearest to ±num / den × 2^q. -/
def rnQuot (neg : Bool) (num den : Nat) (q : Int) : Nat :=
  if num = 0 then 0 else let (x, k) := divSticky num den; rn neg x (q + k)

/-- The FP32 nearest to an integer times 2^q. -/
def rnInt (n : Int) (q : Int) : Nat := if n = 0 then 0 else rn (n < 0) n.natAbs q

/-- A finite FP32 value as an integer times 2^q, for a given q that is low enough. -/
def intAt (q : Int) : Num → Int
  | .fin s m q0 => let v : Int := (m * 2 ^ (q0 - q).toNat : Nat); if s then -v else v
  | _ => 0

/-- The exponent of the last bit of any FP32 value. -/
def qMin : Int := -149

/-- LINEAR: LR0 + (LR1 − LR0) · t / span. -/
def lrLinear (a b : Num) (t span : Nat) : Nat :=
  let n := intAt qMin a * ((span : Int) - t) + intAt qMin b * t
  rnQuot (n < 0) n.natAbs span qMin

/-- Terms of cos x for x = xs / 2^p, alternating: positive and negative sums. -/
def cosTerms (p x2 : Nat) : Nat → Nat → Nat → Nat → Nat → Nat × Nat
  | 0, _, _, pos, neg => (pos, neg)
  | fuel + 1, k, t, pos, neg =>
    let t' := t * x2 / 2 ^ p / ((2 * k - 1) * (2 * k))
    if k % 2 = 0 then cosTerms p x2 fuel (k + 1) t' (pos + t') neg
    else cosTerms p x2 fuel (k + 1) t' pos (neg + t')

/-- cos(π t / span) for 0 ≤ t ≤ span / 2, in units of 2^−p, to within `4 p` units. -/
def cosQuarter (p t span : Nat) : Int :=
  let x := piScaled / 2 ^ (440 - p) * t / span
  let (pos, neg) := cosTerms p (x * x / 2 ^ p) (p / 2) 1 (2 ^ p) (2 ^ p) 0
  (pos : Int) - neg

/-- cos(π t / span) for 0 ≤ t ≤ span. -/
def cosPi (p t span : Nat) : Int := if 2 * t ≤ span then cosQuarter p t span else -cosQuarter p (span - t) span

/-- Twice cos(π t / span) where it is rational. -/
def cosExact (t span : Nat) : Option Int :=
  if t = 0 then some 2 else if t = span then some (-2) else if 2 * t = span then some 0
  else if 3 * t = span then some 1 else if 3 * t = 2 * span then some (-1) else none

/-- COSINE: LR1 + ½ (LR0 − LR1)(1 + cos(π t / span)). -/
def lrCosine (a b : Num) (t span : Nat) : Nat :=
  let x := intAt qMin a
  let y := intAt qMin b
  match cosExact t span with
  | some c => rnInt (4 * y + (x - y) * (2 + c)) (qMin - 2)
  | none =>
    let at_ (p : Nat) (e : Int) : Nat := rnInt (2 * y * 2 ^ p + (x - y) * (2 ^ p + cosPi p t span + e)) (qMin - 1 - p)
    let try_ (p : Nat) : Option Nat :=
      let l := at_ p (-(4 * p : Int)); let h := at_ p (4 * p : Int); if l = h then some l else none
    match try_ 128 with
    | some r => r
    | none => match try_ 256 with
      | some r => r
      | none => at_ 430 0

/-- A positive number cut to `p` bits, rounding down or up. -/
def cutBits (p : Nat) (up : Bool) (m : Nat) (q : Int) : Nat × Int :=
  let k := msb m + 1 - p
  (m / 2 ^ k + (if up && m % 2 ^ k != 0 then 1 else 0), q + k)

/-- Bounds, as (mantissa, exponent), on (m × 2^q)^n, kept to `p` bits; `fuel` is the number of bits of n. -/
def powBound (p : Nat) (up : Bool) (m : Nat) (q : Int) : Nat → Nat → Nat × Int
  | 0, _ => (1, 0)
  | fuel + 1, n =>
    if n = 0 then (1, 0)
    else
      let (h, e) := powBound p up m q fuel (n / 2)
      let (h, e) := cutBits p up (h * h) (2 * e)
      if n % 2 = 1 then cutBits p up (h * m) (e + q) else (h, e)

/-- The odd part of a positive number. -/
def oddPart : Nat → Nat → Int → Nat × Int
  | 0, m, q => (m, q)
  | fuel + 1, m, q => if m % 2 = 0 ∧ m ≠ 0 then oddPart fuel (m / 2) (q + 1) else (m, q)

/-- The FP32 nearest to a positive number of any exponent. -/
def rnWide (neg : Bool) (m : Nat) (q : Int) : Nat :=
  let e : Int := (msb m : Int) + q
  if e < -200 then rn neg 1 (-300) else if 200 < e then rn neg 1 300 else rn neg m q

/-- STEP: LR0 · LR1^n. -/
def lrStep (a b : Num) (n : Nat) : Nat :=
  match a, b with
  | .fin s m q, .fin t k r =>
    let neg := s != (t && n % 2 == 1)
    if m = 0 ∨ (k = 0 ∧ n ≠ 0) then 0
    else
      let (k, r) := oddPart 24 k r
      let one (p : Nat) (up : Bool) : Nat := let (h, e) := powBound p up k r 40 n; rnWide neg (h * m) (e + q)
      if one 160 false = one 160 true then one 160 false else one 600 false
  | _, _ => 0

/-- INVSQRT: LR0 · √(span / (t + span)). -/
def lrInvSqrt (a : Num) (t span : Nat) : Nat :=
  match a with
  | .fin s m q =>
    if m = 0 then 0
    else
      let x := m * m * span * 2 ^ 200
      let d := t + span
      let r := isqrt (x / d)
      rn s (2 * r + b2n (r * r * d != x)) (q - 101)
  | _ => 0

/-- 1 / (1 − b^τ) for a finite b with 0 ≤ b < 1. -/
def biasInverse (b tau : Nat) : Nat :=
  match f32 b with
  | .fin _ m q =>
    if m = 0 then one32
    else
      let one (p : Nat) (up : Bool) : Nat :=
        let (h, e) := powBound p up m q 40 tau
        let k : Nat := 400
        let pw := if 0 ≤ e + k then h * 2 ^ (e + k).toNat else h / 2 ^ (-(e + k)).toNat + b2n up
        rnQuot false (2 ^ k) (2 ^ k - pw) 0
      if one 160 false = one 160 true then one 160 false else one 390 false
  | _ => one32

/-! ### The parameter record (Table 10-4) -/

def pRULE (p : List Byte) : Nat := leAt p 0 1
def pCLIP (p : List Byte) : Bool := bit (leAt p 1 1) 0
def pCOMPACT (p : List Byte) : Bool := bit (leAt p 1 1) 1
def pMSR (p : List Byte) : Bool := bit (leAt p 1 1) 2
def pSKIP (p : List Byte) : Bool := bit (leAt p 1 1) 3
def pNSEG (p : List Byte) : Nat := leAt p 2 1
def pNB (p : List Byte) : Nat := leAt p 36 2

/-- The schedule entry of a step (R273), and t before SPAN bounds it. -/
def schedEntry (p : List Byte) (step : Nat) : List Byte × Nat :=
  let es := (List.range (pNSEG p)).map (fun k => (p.drop (64 + 16 * k)).take 16)
  match (es.filter (fun e => notEarlier 32 step (leAt e 0 4))).getLast? with
  | some e => (e, (toSigned 32 (step + 2 ^ 32 - leAt e 0 4)).toNat)
  | none => (es.headD [], 0)

/-- The learning rate of a step; the number of a free value serves an entry whose rates are not finite. -/
def learningRate (p : List Byte) (step fresh : Nat) : Nat :=
  let (e, t) := schedEntry p step
  let a := f32 (leAt e 4 4)
  let b := f32 (leAt e 8 4)
  let span := max 1 (leAt e 12 3)
  let kind := leAt e 15 1
  let fin (x : Num) : Bool := match x with | .fin .. => true | _ => false
  if kind = 0 then leAt e 4 4
  else if !fin a || (!fin b && kind != 4) then (Config.learningRate fresh).toNat
  else if kind = 1 then lrLinear a b (min t span) span
  else if kind = 2 then lrCosine a b (min t span) span
  else if kind = 3 then lrStep a b (t / span)
  else lrInvSqrt a t span

/-- R272: the squared norm and the clip factor k, from NB pairs (s, e). -/
def normSum : List (Nat × Nat) → Nat → Nat → Nat
  | [], s, e => add32 s e
  | (a, b) :: r, s, e => let (s', t) := twoSum s a; normSum r s' (add32 (add32 e b) t)

def clipFactor (p : List Byte) (g2 : Nat) : Nat :=
  let nrm := sqrt32 g2
  let c := if pCLIP p && lt32 (leAt p 8 4) nrm then div32 (leAt p 8 4) nrm else one32
  mul32 c (leAt p 12 4)

/-- R274: k, lr, DK, OMB1, OMB2, IBC1, IBC2. -/
def stepConsts (p : List Byte) (step k fresh : Nat) : List Nat :=
  let lr := learningRate p step fresh
  let tau := (max 1 (toSigned 32 (step + 2 ^ 32 - leAt p 4 4) + 1)).toNat
  let b1 := leAt p 24 4
  let b2 := leAt p 28 4
  [k, lr, sub32 one32 (mul32 lr (leAt p 16 4)), sub32 one32 b1, sub32 one32 b2, biasInverse b1 tau, biasInverse b2 tau]

end Sys2Proof.Machine
end

