-- ==== Sys2Proof/Machine/Rs.lean ====
section
/-!
DEFINITION. The symbol code RS(36,32) of HBM and scratchpad codewords (R36): the field, the generator, check bytes,
syndromes and the correction of one symbol.
-/
namespace Sys2Proof.Machine

/-- A field element times α = 0x02, modulo x^8 + x^4 + x^3 + x^2 + 1. -/
def gfDouble (a : Byte) : Byte := if a.msb then a <<< 1 ^^^ 0x1D else a <<< 1

/-- The product of two field elements, by the low `n` bits of the second. -/
def gfMulBits : Nat → Byte → Byte → Byte
  | 0, _, _ => 0
  | n + 1, a, b => (if b.getLsbD 0 then a else 0) ^^^ gfMulBits n (gfDouble a) (b >>> 1)
def gfMul (a b : Byte) : Byte := gfMulBits 8 a b

/-- α^n. -/
def gfAlpha : Nat → Byte
  | 0 => 1
  | n + 1 => gfDouble (gfAlpha n)

/-- A polynomial, highest degree first, times (x + r). -/
def rsTimes (p : List Byte) (r : Byte) : List Byte := (p ++ [0]).zipWith (· ^^^ ·) (0 :: p.map (gfMul r))

/-- g(x) = (x + α^0)(x + α^1)(x + α^2)(x + α^3), highest degree first. -/
def rsGenerator : List Byte := (List.range 4).foldl (fun p i => rsTimes p (gfAlpha i)) [1]

/-- The check bytes c0 to c3 of a message: the remainder of d(x)·x^4 divided by g(x), c0 highest. -/
def rsCheck (d : List Byte) : List Byte :=
  d.foldl (fun r b => let f := b ^^^ r.headD 0; (r.tail ++ [0]).zipWith (· ^^^ ·) (rsGenerator.tail.map (gfMul f))) [0, 0, 0, 0]

/-- The 36 symbols of a codeword: the data bytes in ascending address order, then the check bytes. -/
def rsEncode (d : List Byte) : List Byte := d ++ rsCheck d

/-- Syndrome `j`: the 36 symbols, as a polynomial with the first symbol highest, at α^j. -/
def rsSyndrome (w : List Byte) (j : Nat) : Byte := w.foldl (fun s b => gfMul (gfAlpha j) s ^^^ b) 0

/-- What the decoder finds. -/
inductive RsResult where
  /-- A codeword. -/
  | clean
  /-- One symbol in error: its index and what it differs by. -/
  | one (sym : Nat) (by_ : Byte)
  /-- No codeword within one symbol. -/
  | bad
  deriving DecidableEq, Repr

/-- An error `e` in symbol `i` alone has the syndromes e·α^(j·(35 − i)). -/
def rsDecode (w : List Byte) : RsResult :=
  let s := (List.range 4).map (rsSyndrome w)
  if s = [0, 0, 0, 0] then .clean
  else
    let e := s.headD 0
    match (List.range 36).find? (fun i => e != 0 && s == (List.range 4).map (fun j => gfMul e (gfAlpha (j * (35 - i))))) with
    | some i => .one i e
    | none => .bad

/-- Symbols changed by the patterns given for them. -/
def rsUpset (w : List Byte) (errs : List (Nat × Byte)) : List Byte :=
  w.zipIdx.map (fun b => errs.foldl (fun x e => if e.1 = b.2 then x ^^^ e.2 else x) b.1)

end Sys2Proof.Machine
end

