-- ==== Sys2Proof/Machine/RegTable.lean ====
section
/-!
DEFINITION. The register map of the module: every register of the manual's register tables, with the access
code, the reset value and the reserved values of each of its fields (R5 to R9, R557 to R565 and the register tables of
each chapter), and one name for every field.

A channel register is keyed by its offset B + o in the channel's register window (R559).  The channel pages of the host
port (HP_CHc_) and the doorbell and mailbox registers of BAR2 belong to the host-port die; they are kept beside the
channel's own under keys above the window: 0x1000_0000 + o for the page, 0x1001_0000 + o for the BAR2 registers.  The
other registers of the host-port die are keyed by their BAR0 offset (R558).
-/
namespace Sys2Proof.Machine

/-- A bit field of a register: the register's key, the field's lowest bit and its width. -/
structure Fld where
  off : Nat
  lo : Nat
  w : Nat
  deriving DecidableEq, Repr

/-- The access codes of Table 0-2; bits that no field covers are RSV: they read 0 and writes to them do nothing. -/
inductive Acc where
  | ro | rw | wo | w1c | w1s
  deriving DecidableEq, Repr

/-- One field of a register table: lowest bit, width, access code, reset value and the values that the manual marks
reserved, as inclusive ranges (R8). -/
structure FieldDesc where
  lo : Nat
  w : Nat
  acc : Acc
  reset : Nat
  rsvd : List (Nat × Nat)
  deriving DecidableEq, Repr

/-- A register or an array of registers: the key of its first instance, up to two index ranges (count and stride) and
its fields. -/
structure RegDesc where
  name : String
  base : Nat
  n1 : Nat
  s1 : Nat
  n2 : Nat
  s2 : Nat
  fields : List FieldDesc
  deriving Repr

/-- The base of the queue registers (R86 to R91) of queue id `q` (Table 3-1): 0x00 to 0x0F are ME0 to ME15, 0x10 to 0x13
VE0 to VE3, 0x14 the update unit, 0x18 to 0x1F TE0 to TE7, 0x20 the collective engine.  Queue id 0x80 is the model's own
number for the host queue of the channel, whose registers lie in its HP_CHc_ page. -/
def qbase (q : Nat) : Nat :=
  if q < 0x10 then 0x100000 + 0x1000 * q
  else if q < 0x14 then 0x110000 + 0x1000 * (q - 0x10)
  else if q = 0x14 then 0x050000
  else if q < 0x20 then 0x130000 + 0x1000 * (q - 0x18)
  else if q = 0x20 then 0x070000
  else 0x10000000

/-- HBM_ECC_CORR (R41). -/
abbrev HBM_ECC_CORR.off : Nat := 0xB0100
abbrev HBM_ECC_CORR.COUNT : Fld := ⟨HBM_ECC_CORR.off, 0, 32⟩

/-- HBM_ECC_LAST (R42). -/
abbrev HBM_ECC_LAST.off : Nat := 0xB0108
abbrev HBM_ECC_LAST.ADDR : Fld := ⟨HBM_ECC_LAST.off, 5, 35⟩
abbrev HBM_ECC_LAST.SYMBOL : Fld := ⟨HBM_ECC_LAST.off, 40, 6⟩
abbrev HBM_ECC_LAST.SRC : Fld := ⟨HBM_ECC_LAST.off, 48, 1⟩

/-- HBM_ERASE_STAT (R43). -/
abbrev HBM_ERASE_STAT.off : Nat := 0xB0110
abbrev HBM_ERASE_STAT.POS : Fld := ⟨HBM_ERASE_STAT.off, 5, 35⟩
abbrev HBM_ERASE_STAT.PASSES : Fld := ⟨HBM_ERASE_STAT.off, 48, 16⟩

/-- HBM_ECC_CTL (R44). -/
abbrev HBM_ECC_CTL.off : Nat := 0xB0118
abbrev HBM_ECC_CTL.CLR_CORR : Fld := ⟨HBM_ECC_CTL.off, 0, 1⟩

/-- HBM_IRQ (R46). -/
abbrev HBM_IRQ.off : Nat := 0xB0120
abbrev HBM_IRQ.CORR : Fld := ⟨HBM_IRQ.off, 0, 1⟩
abbrev HBM_IRQ.UNCORR : Fld := ⟨HBM_IRQ.off, 1, 1⟩
abbrev HBM_IRQ.PASS : Fld := ⟨HBM_IRQ.off, 2, 1⟩
abbrev HBM_IRQ.RATE : Fld := ⟨HBM_IRQ.off, 3, 1⟩

/-- Q_BASE (R86). -/
abbrev Q_BASE.off (q : Nat) : Nat := qbase q
abbrev Q_BASE.ADDR (q : Nat) : Fld := ⟨Q_BASE.off q, 6, 34⟩

/-- Q_DEPTH (R87). -/
abbrev Q_DEPTH.off (q : Nat) : Nat := qbase q + 0x8
abbrev Q_DEPTH.DEPTH (q : Nat) : Fld := ⟨Q_DEPTH.off q, 0, 13⟩

/-- Q_STAT (R88). -/
abbrev Q_STAT.off (q : Nat) : Nat := qbase q + 0x10
abbrev Q_STAT.STATE (q : Nat) : Fld := ⟨Q_STAT.off q, 0, 2⟩
abbrev Q_STAT.IN_LESSON (q : Nat) : Fld := ⟨Q_STAT.off q, 2, 1⟩
abbrev Q_STAT.IN_RETAKE (q : Nat) : Fld := ⟨Q_STAT.off q, 3, 1⟩
abbrev Q_STAT.HEAD (q : Nat) : Fld := ⟨Q_STAT.off q, 8, 12⟩
abbrev Q_STAT.TAIL (q : Nat) : Fld := ⟨Q_STAT.off q, 24, 12⟩
abbrev Q_STAT.FILL (q : Nat) : Fld := ⟨Q_STAT.off q, 40, 13⟩

/-- Q_ERR (R89). -/
abbrev Q_ERR.off (q : Nat) : Nat := qbase q + 0x18
abbrev Q_ERR.CODE (q : Nat) : Fld := ⟨Q_ERR.off q, 0, 8⟩
abbrev Q_ERR.OPCODE (q : Nat) : Fld := ⟨Q_ERR.off q, 8, 8⟩
abbrev Q_ERR.SLOT (q : Nat) : Fld := ⟨Q_ERR.off q, 16, 12⟩
abbrev Q_ERR.SEG (q : Nat) : Fld := ⟨Q_ERR.off q, 28, 1⟩
abbrev Q_ERR.DETAIL (q : Nat) : Fld := ⟨Q_ERR.off q, 32, 32⟩

/-- Q_CTL (R90). -/
abbrev Q_CTL.off (q : Nat) : Nat := qbase q + 0x20
abbrev Q_CTL.RESUME (q : Nat) : Fld := ⟨Q_CTL.off q, 0, 1⟩
abbrev Q_CTL.HALT (q : Nat) : Fld := ⟨Q_CTL.off q, 1, 1⟩
abbrev Q_CTL.DRAIN (q : Nat) : Fld := ⟨Q_CTL.off q, 2, 1⟩
abbrev Q_CTL.FLUSH (q : Nat) : Fld := ⟨Q_CTL.off q, 3, 1⟩
abbrev Q_CTL.SKIP (q : Nat) : Fld := ⟨Q_CTL.off q, 4, 1⟩

/-- Q_WAIT_LIMIT (R91). -/
abbrev Q_WAIT_LIMIT.off (q : Nat) : Nat := qbase q + 0x28
abbrev Q_WAIT_LIMIT.LIMIT_US (q : Nat) : Fld := ⟨Q_WAIT_LIMIT.off q, 0, 32⟩

/-- Q_LB (R91). -/
abbrev Q_LB.off (q n : Nat) : Nat := qbase q + 0x40 + 0x8 * n
abbrev Q_LB.BASE (q n : Nat) : Fld := ⟨Q_LB.off q n, 0, 64⟩

/-- CH_TOK (R92). -/
abbrev CH_TOK.off (i : Nat) : Nat := 0x11000 + 0x8 * i
abbrev CH_TOK.VALUE (i : Nat) : Fld := ⟨CH_TOK.off i, 0, 32⟩

/-- CH_TOK_INC (R92). -/
abbrev CH_TOK_INC.off : Nat := 0x10800
abbrev CH_TOK_INC.INDEX : Fld := ⟨CH_TOK_INC.off, 0, 8⟩
abbrev CH_TOK_INC.INC : Fld := ⟨CH_TOK_INC.off, 16, 16⟩

/-- ME_VER (R114). -/
abbrev ME_VER.off (k : Nat) : Nat := 0x100100 + 0x1000 * k
abbrev ME_VER.VER (k : Nat) : Fld := ⟨ME_VER.off k, 0, 8⟩
abbrev ME_VER.ACC_ROWS (k : Nat) : Fld := ⟨ME_VER.off k, 8, 12⟩
abbrev ME_VER.FEED_DEPTH (k : Nat) : Fld := ⟨ME_VER.off k, 20, 8⟩
abbrev ME_VER.ISSUE_WINDOW (k : Nat) : Fld := ⟨ME_VER.off k, 28, 4⟩

/-- ME_STAT (R115). -/
abbrev ME_STAT.off (k : Nat) : Nat := 0x100108 + 0x1000 * k
abbrev ME_STAT.ARRAY (k : Nat) : Fld := ⟨ME_STAT.off k, 0, 2⟩
abbrev ME_STAT.ROWS_LEFT (k : Nat) : Fld := ⟨ME_STAT.off k, 4, 12⟩
abbrev ME_STAT.LOADER_BUSY (k : Nat) : Fld := ⟨ME_STAT.off k, 16, 1⟩
abbrev ME_STAT.DRAIN_BUSY (k : Nat) : Fld := ⟨ME_STAT.off k, 17, 1⟩
abbrev ME_STAT.IN_FLIGHT (k : Nat) : Fld := ⟨ME_STAT.off k, 24, 3⟩

/-- ME_WBUF0 (R116). -/
abbrev ME_WBUF0.off (k : Nat) : Nat := 0x100110 + 0x1000 * k
abbrev ME_WBUF0.FMT (k : Nat) : Fld := ⟨ME_WBUF0.off k, 0, 8⟩
abbrev ME_WBUF0.SHAPE (k : Nat) : Fld := ⟨ME_WBUF0.off k, 8, 3⟩
abbrev ME_WBUF0.TRANS (k : Nat) : Fld := ⟨ME_WBUF0.off k, 11, 1⟩
abbrev ME_WBUF0.LO_VALID (k : Nat) : Fld := ⟨ME_WBUF0.off k, 12, 1⟩
abbrev ME_WBUF0.HI_VALID (k : Nat) : Fld := ⟨ME_WBUF0.off k, 13, 1⟩

/-- ME_CNT_ROWS (R117). -/
abbrev ME_CNT_ROWS.off (k : Nat) : Nat := 0x100140 + 0x1000 * k
abbrev ME_CNT_ROWS.COUNT (k : Nat) : Fld := ⟨ME_CNT_ROWS.off k, 0, 64⟩

/-- ME_CNT_FEEDWAIT (R117). -/
abbrev ME_CNT_FEEDWAIT.off (k : Nat) : Nat := 0x100148 + 0x1000 * k
abbrev ME_CNT_FEEDWAIT.COUNT (k : Nat) : Fld := ⟨ME_CNT_FEEDWAIT.off k, 0, 64⟩

/-- ME_CNT_LOADWAIT (R117). -/
abbrev ME_CNT_LOADWAIT.off (k : Nat) : Nat := 0x100150 + 0x1000 * k
abbrev ME_CNT_LOADWAIT.COUNT (k : Nat) : Fld := ⟨ME_CNT_LOADWAIT.off k, 0, 64⟩

/-- ME_CNT_RAMPS (R117). -/
abbrev ME_CNT_RAMPS.off (k : Nat) : Nat := 0x100158 + 0x1000 * k
abbrev ME_CNT_RAMPS.COUNT (k : Nat) : Fld := ⟨ME_CNT_RAMPS.off k, 0, 64⟩

/-- ME_CNT_CTL (R118). -/
abbrev ME_CNT_CTL.off (k : Nat) : Nat := 0x100160 + 0x1000 * k
abbrev ME_CNT_CTL.CLR (k : Nat) : Fld := ⟨ME_CNT_CTL.off k, 0, 1⟩

/-- CH_RTK_CTL (R149). -/
abbrev CH_RTK_CTL.off (n : Nat) : Nat := 0x10900 + 0x10 * n
abbrev CH_RTK_CTL.MEMBERS (n : Nat) : Fld := ⟨CH_RTK_CTL.off n, 0, 21⟩
abbrev CH_RTK_CTL.LADDER (n : Nat) : Fld := ⟨CH_RTK_CTL.off n, 24, 1⟩
abbrev CH_RTK_CTL.ABORT (n : Nat) : Fld := ⟨CH_RTK_CTL.off n, 32, 1⟩

/-- CH_RTK_STAT (R150). -/
abbrev CH_RTK_STAT.off (n : Nat) : Nat := 0x10908 + 0x10 * n
abbrev CH_RTK_STAT.OPEN (n : Nat) : Fld := ⟨CH_RTK_STAT.off n, 0, 1⟩
abbrev CH_RTK_STAT.ATTEMPT (n : Nat) : Fld := ⟨CH_RTK_STAT.off n, 1, 2⟩
abbrev CH_RTK_STAT.OVF (n : Nat) : Fld := ⟨CH_RTK_STAT.off n, 3, 1⟩
abbrev CH_RTK_STAT.FAULT (n : Nat) : Fld := ⟨CH_RTK_STAT.off n, 4, 1⟩
abbrev CH_RTK_STAT.ARRIVED (n : Nat) : Fld := ⟨CH_RTK_STAT.off n, 8, 21⟩
abbrev CH_RTK_STAT.LOG_USED (n : Nat) : Fld := ⟨CH_RTK_STAT.off n, 32, 5⟩
abbrev CH_RTK_STAT.COMMITS (n : Nat) : Fld := ⟨CH_RTK_STAT.off n, 48, 16⟩

/-- RPT_CONV (R153). -/
abbrev RPT_CONV.off (t : Nat) : Nat := 0x190000 + 0x40 * t
abbrev RPT_CONV.COUNT (t : Nat) : Fld := ⟨RPT_CONV.off t, 0, 64⟩

/-- RPT_OVF (R153). -/
abbrev RPT_OVF.off (t : Nat) : Nat := 0x190008 + 0x40 * t
abbrev RPT_OVF.COUNT (t : Nat) : Fld := ⟨RPT_OVF.off t, 0, 64⟩

/-- RPT_VAN (R153). -/
abbrev RPT_VAN.off (t : Nat) : Nat := 0x190010 + 0x40 * t
abbrev RPT_VAN.COUNT (t : Nat) : Fld := ⟨RPT_VAN.off t, 0, 64⟩

/-- RPT_SUB (R153). -/
abbrev RPT_SUB.off (t : Nat) : Nat := 0x190018 + 0x40 * t
abbrev RPT_SUB.COUNT (t : Nat) : Fld := ⟨RPT_SUB.off t, 0, 64⟩

/-- RPT_INEX (R153). -/
abbrev RPT_INEX.off (t : Nat) : Nat := 0x190020 + 0x40 * t
abbrev RPT_INEX.COUNT (t : Nat) : Fld := ⟨RPT_INEX.off t, 0, 64⟩

/-- RPT_RETAKE (R153). -/
abbrev RPT_RETAKE.off (t : Nat) : Nat := 0x190028 + 0x40 * t
abbrev RPT_RETAKE.COUNT (t : Nat) : Fld := ⟨RPT_RETAKE.off t, 0, 64⟩

/-- RPT_MAXEXP (R153). -/
abbrev RPT_MAXEXP.off (t : Nat) : Nat := 0x190030 + 0x40 * t
abbrev RPT_MAXEXP.EXP (t : Nat) : Fld := ⟨RPT_MAXEXP.off t, 0, 16⟩
abbrev RPT_MAXEXP.VALID (t : Nat) : Fld := ⟨RPT_MAXEXP.off t, 16, 1⟩

/-- RPT_CLR (R154). -/
abbrev RPT_CLR.off : Nat := 0x180000
abbrev RPT_CLR.TAG : Fld := ⟨RPT_CLR.off, 0, 12⟩
abbrev RPT_CLR.ONE : Fld := ⟨RPT_CLR.off, 16, 1⟩
abbrev RPT_CLR.ALL : Fld := ⟨RPT_CLR.off, 17, 1⟩

/-- RPT_SNAP_CTL (R155). -/
abbrev RPT_SNAP_CTL.off : Nat := 0x180008
abbrev RPT_SNAP_CTL.TAG : Fld := ⟨RPT_SNAP_CTL.off, 0, 12⟩
abbrev RPT_SNAP_CTL.CLR : Fld := ⟨RPT_SNAP_CTL.off, 16, 1⟩

/-- RPT_SNAP (R155). -/
abbrev RPT_SNAP.off (i : Nat) : Nat := 0x180040 + 0x8 * i
abbrev RPT_SNAP.VALUE (i : Nat) : Fld := ⟨RPT_SNAP.off i, 0, 64⟩

/-- RPT_SNAP_TAG (R155). -/
abbrev RPT_SNAP_TAG.off : Nat := 0x180078
abbrev RPT_SNAP_TAG.TAG : Fld := ⟨RPT_SNAP_TAG.off, 0, 12⟩

/-- CH_E2_MODE (R157). -/
abbrev CH_E2_MODE.off : Nat := 0x10810
abbrev CH_E2_MODE.ENABLE : Fld := ⟨CH_E2_MODE.off, 0, 1⟩

/-- VE_VER (R185). -/
abbrev VE_VER.off (k : Nat) : Nat := 0x110100 + 0x1000 * k
abbrev VE_VER.VER (k : Nat) : Fld := ⟨VE_VER.off k, 0, 8⟩
abbrev VE_VER.LANES (k : Nat) : Fld := ⟨VE_VER.off k, 8, 9⟩
abbrev VE_VER.ISSUE_WINDOW (k : Nat) : Fld := ⟨VE_VER.off k, 17, 4⟩
abbrev VE_VER.SUM_REGS (k : Nat) : Fld := ⟨VE_VER.off k, 21, 5⟩

/-- VE_CTL (R186). -/
abbrev VE_CTL.off (k : Nat) : Nat := 0x110108 + 0x1000 * k
abbrev VE_CTL.SAT (k : Nat) : Fld := ⟨VE_CTL.off k, 0, 1⟩

/-- VE_VL (R186). -/
abbrev VE_VL.off (k : Nat) : Nat := 0x110110 + 0x1000 * k
abbrev VE_VL.VL (k : Nat) : Fld := ⟨VE_VL.off k, 0, 16⟩

/-- VE_CNT_ELEMS (R187). -/
abbrev VE_CNT_ELEMS.off (k : Nat) : Nat := 0x110140 + 0x1000 * k
abbrev VE_CNT_ELEMS.COUNT (k : Nat) : Fld := ⟨VE_CNT_ELEMS.off k, 0, 64⟩

/-- VE_CNT_FSWAIT (R187). -/
abbrev VE_CNT_FSWAIT.off (k : Nat) : Nat := 0x110148 + 0x1000 * k
abbrev VE_CNT_FSWAIT.COUNT (k : Nat) : Fld := ⟨VE_CNT_FSWAIT.off k, 0, 64⟩

/-- VE_CNT_CTL (R187). -/
abbrev VE_CNT_CTL.off (k : Nat) : Nat := 0x110160 + 0x1000 * k
abbrev VE_CNT_CTL.CLR (k : Nat) : Fld := ⟨VE_CNT_CTL.off k, 0, 1⟩

/-- VE_SUM (R188). -/
abbrev VE_SUM.off (k n : Nat) : Nat := 0x110200 + 0x1000 * k + 0x8 * n
abbrev VE_SUM.VALUE (k n : Nat) : Fld := ⟨VE_SUM.off k n, 0, 32⟩
abbrev VE_SUM.KIND (k n : Nat) : Fld := ⟨VE_SUM.off k n, 32, 3⟩
abbrev VE_SUM.VALID (k n : Nat) : Fld := ⟨VE_SUM.off k n, 35, 1⟩
abbrev VE_SUM.SEQ (k n : Nat) : Fld := ⟨VE_SUM.off k n, 48, 16⟩

/-- FS_VER (R189). -/
abbrev FS_VER.off (k : Nat) : Nat := 0x120000 + 0x1000 * k
abbrev FS_VER.VER (k : Nat) : Fld := ⟨FS_VER.off k, 0, 8⟩

/-- FS_CNT_VE (R189). -/
abbrev FS_CNT_VE.off (k : Nat) : Nat := 0x120040 + 0x1000 * k
abbrev FS_CNT_VE.COUNT (k : Nat) : Fld := ⟨FS_CNT_VE.off k, 0, 64⟩

/-- FS_CNT_ME (R189). -/
abbrev FS_CNT_ME.off (k : Nat) : Nat := 0x120048 + 0x1000 * k
abbrev FS_CNT_ME.COUNT (k : Nat) : Fld := ⟨FS_CNT_ME.off k, 0, 64⟩

/-- FS_CNT_WAIT (R189). -/
abbrev FS_CNT_WAIT.off (k : Nat) : Nat := 0x120050 + 0x1000 * k
abbrev FS_CNT_WAIT.COUNT (k : Nat) : Fld := ⟨FS_CNT_WAIT.off k, 0, 64⟩

/-- FS_CNT_CTL (R189). -/
abbrev FS_CNT_CTL.off (k : Nat) : Nat := 0x120060 + 0x1000 * k
abbrev FS_CNT_CTL.CLR (k : Nat) : Fld := ⟨FS_CNT_CTL.off k, 0, 1⟩

/-- SC_VER (R211). -/
abbrev SC_VER.off (k : Nat) : Nat := 0x140000 + 0x1000 * k
abbrev SC_VER.VER (k : Nat) : Fld := ⟨SC_VER.off k, 0, 8⟩

/-- SC_CTL (R211). -/
abbrev SC_CTL.off (k : Nat) : Nat := 0x140008 + 0x1000 * k
abbrev SC_CTL.RUN (k : Nat) : Fld := ⟨SC_CTL.off k, 0, 1⟩
abbrev SC_CTL.RESET (k : Nat) : Fld := ⟨SC_CTL.off k, 1, 1⟩

/-- SC_BOOT (R211). -/
abbrev SC_BOOT.off (k : Nat) : Nat := 0x140010 + 0x1000 * k
abbrev SC_BOOT.ADDR (k : Nat) : Fld := ⟨SC_BOOT.off k, 2, 62⟩

/-- SC_STAT (R211). -/
abbrev SC_STAT.off (k : Nat) : Nat := 0x140018 + 0x1000 * k
abbrev SC_STAT.RUNNING (k : Nat) : Fld := ⟨SC_STAT.off k, 0, 1⟩
abbrev SC_STAT.WAITING (k : Nat) : Fld := ⟨SC_STAT.off k, 1, 1⟩

/-- SC_WDOG (R211). -/
abbrev SC_WDOG.off (k : Nat) : Nat := 0x140020 + 0x1000 * k
abbrev SC_WDOG.PERIOD_US (k : Nat) : Fld := ⟨SC_WDOG.off k, 0, 32⟩

/-- SC_WDOG_KICK (R211). -/
abbrev SC_WDOG_KICK.off (k : Nat) : Nat := 0x140028 + 0x1000 * k
abbrev SC_WDOG_KICK.KICK (k : Nat) : Fld := ⟨SC_WDOG_KICK.off k, 0, 1⟩

/-- SC_MTIMECMP (R211). -/
abbrev SC_MTIMECMP.off (k : Nat) : Nat := 0x140030 + 0x1000 * k
abbrev SC_MTIMECMP.CMP (k : Nat) : Fld := ⟨SC_MTIMECMP.off k, 0, 64⟩

/-- SVC_STAT (R212). -/
abbrev SVC_STAT.off : Nat := 0x30000
abbrev SVC_STAT.FW_VER : Fld := ⟨SVC_STAT.off, 0, 32⟩
abbrev SVC_STAT.UP : Fld := ⟨SVC_STAT.off, 32, 1⟩

/-- CIC_VER (R221). -/
abbrev CIC_VER.off : Nat := 0x20000
abbrev CIC_VER.VER : Fld := ⟨CIC_VER.off, 0, 8⟩
abbrev CIC_VER.SOURCES : Fld := ⟨CIC_VER.off, 8, 10⟩
abbrev CIC_VER.TARGETS : Fld := ⟨CIC_VER.off, 18, 4⟩

/-- CIC_TOKSRC (R221). -/
abbrev CIC_TOKSRC.off (i : Nat) : Nat := 0x20100 + 0x8 * i
abbrev CIC_TOKSRC.INDEX (i : Nat) : Fld := ⟨CIC_TOKSRC.off i, 0, 8⟩
abbrev CIC_TOKSRC.EN (i : Nat) : Fld := ⟨CIC_TOKSRC.off i, 8, 1⟩
abbrev CIC_TOKSRC.THR (i : Nat) : Fld := ⟨CIC_TOKSRC.off i, 32, 32⟩

/-- CIC_SWSRC_SET (R221). -/
abbrev CIC_SWSRC_SET.off : Nat := 0x20200
abbrev CIC_SWSRC_SET.BITS : Fld := ⟨CIC_SWSRC_SET.off, 0, 64⟩

/-- CIC_SWSRC_CLR (R221). -/
abbrev CIC_SWSRC_CLR.off : Nat := 0x20208
abbrev CIC_SWSRC_CLR.BITS : Fld := ⟨CIC_SWSRC_CLR.off, 0, 64⟩

/-- CIC_TOP (R221). -/
abbrev CIC_TOP.off (t : Nat) : Nat := 0x20400 + 0x40 * t
abbrev CIC_TOP.SOURCE (t : Nat) : Fld := ⟨CIC_TOP.off t, 0, 9⟩
abbrev CIC_TOP.PRIO (t : Nat) : Fld := ⟨CIC_TOP.off t, 12, 4⟩
abbrev CIC_TOP.VALID (t : Nat) : Fld := ⟨CIC_TOP.off t, 16, 1⟩

/-- CIC_ACK (R221). -/
abbrev CIC_ACK.off (t : Nat) : Nat := 0x20408 + 0x40 * t
abbrev CIC_ACK.SOURCE (t : Nat) : Fld := ⟨CIC_ACK.off t, 0, 9⟩

/-- CIC_EOI (R221). -/
abbrev CIC_EOI.off (t : Nat) : Nat := 0x20410 + 0x40 * t
abbrev CIC_EOI.EOI (t : Nat) : Fld := ⟨CIC_EOI.off t, 0, 1⟩

/-- CIC_STAT (R221). -/
abbrev CIC_STAT.off (t : Nat) : Nat := 0x20418 + 0x40 * t
abbrev CIC_STAT.RP (t : Nat) : Fld := ⟨CIC_STAT.off t, 0, 4⟩
abbrev CIC_STAT.DEPTH (t : Nat) : Fld := ⟨CIC_STAT.off t, 4, 5⟩
abbrev CIC_STAT.ACK_OK (t : Nat) : Fld := ⟨CIC_STAT.off t, 9, 1⟩
abbrev CIC_STAT.ERR (t : Nat) : Fld := ⟨CIC_STAT.off t, 10, 1⟩

/-- CIC_SRC (R221). -/
abbrev CIC_SRC.off (n : Nat) : Nat := 0x21000 + 0x8 * n
abbrev CIC_SRC.PRIO (n : Nat) : Fld := ⟨CIC_SRC.off n, 0, 4⟩
abbrev CIC_SRC.TARGET (n : Nat) : Fld := ⟨CIC_SRC.off n, 4, 3⟩
abbrev CIC_SRC.ASSERTED (n : Nat) : Fld := ⟨CIC_SRC.off n, 8, 1⟩
abbrev CIC_SRC.IN_SERVICE (n : Nat) : Fld := ⟨CIC_SRC.off n, 9, 1⟩

/-- HR_PSTATE (R230). -/
abbrev HR_PSTATE.off : Nat := 0x0
abbrev HR_PSTATE.REQ : Fld := ⟨HR_PSTATE.off, 0, 3⟩
abbrev HR_PSTATE.CUR : Fld := ⟨HR_PSTATE.off, 4, 3⟩
abbrev HR_PSTATE.BUSY : Fld := ⟨HR_PSTATE.off, 7, 1⟩
abbrev HR_PSTATE.REFUSAL : Fld := ⟨HR_PSTATE.off, 8, 3⟩

/-- HR_IDLE_DELAY (R230). -/
abbrev HR_IDLE_DELAY.off : Nat := 0x8
abbrev HR_IDLE_DELAY.DELAY_US : Fld := ⟨HR_IDLE_DELAY.off, 0, 16⟩

/-- HR_WAKE (R230). -/
abbrev HR_WAKE.off (n : Nat) : Nat := 0x100 + 0x8 * n
abbrev HR_WAKE.SOURCE (n : Nat) : Fld := ⟨HR_WAKE.off n, 0, 9⟩
abbrev HR_WAKE.EN (n : Nat) : Fld := ⟨HR_WAKE.off n, 9, 1⟩

/-- HR_WAKE_STAT (R230). -/
abbrev HR_WAKE_STAT.off : Nat := 0x200
abbrev HR_WAKE_STAT.ENTRY : Fld := ⟨HR_WAKE_STAT.off, 0, 5⟩
abbrev HR_WAKE_STAT.BY_REQ : Fld := ⟨HR_WAKE_STAT.off, 5, 1⟩

/-- SS_CTL (R253). -/
abbrev SS_CTL.off (s : Nat) : Nat := 0x150000 + 0x1000 * s
abbrev SS_CTL.ACTION (s : Nat) : Fld := ⟨SS_CTL.off s, 0, 3⟩

/-- SS_STAT (R253). -/
abbrev SS_STAT.off (s : Nat) : Nat := 0x150008 + 0x1000 * s
abbrev SS_STAT.STATE (s : Nat) : Fld := ⟨SS_STAT.off s, 0, 3⟩
abbrev SS_STAT.STOPPING (s : Nat) : Fld := ⟨SS_STAT.off s, 3, 1⟩
abbrev SS_STAT.FAULT (s : Nat) : Fld := ⟨SS_STAT.off s, 4, 1⟩
abbrev SS_STAT.STEP_END (s : Nat) : Fld := ⟨SS_STAT.off s, 5, 1⟩
abbrev SS_STAT.DRAINED (s : Nat) : Fld := ⟨SS_STAT.off s, 6, 1⟩
abbrev SS_STAT.END_PENDING (s : Nat) : Fld := ⟨SS_STAT.off s, 7, 1⟩
abbrev SS_STAT.BIND_ERR (s : Nat) : Fld := ⟨SS_STAT.off s, 8, 3⟩
abbrev SS_STAT.FAULT_CODE (s : Nat) : Fld := ⟨SS_STAT.off s, 12, 2⟩
abbrev SS_STAT.FAULT_Q (s : Nat) : Fld := ⟨SS_STAT.off s, 14, 1⟩
abbrev SS_STAT.LAST_PHASE (s : Nat) : Fld := ⟨SS_STAT.off s, 15, 1⟩
abbrev SS_STAT.INFLIGHT (s : Nat) : Fld := ⟨SS_STAT.off s, 16, 7⟩
abbrev SS_STAT.FQ_FILL (s : Nat) : Fld := ⟨SS_STAT.off s, 24, 7⟩
abbrev SS_STAT.BQ_FILL (s : Nat) : Fld := ⟨SS_STAT.off s, 32, 7⟩
abbrev SS_STAT.LAUNCHES (s : Nat) : Fld := ⟨SS_STAT.off s, 40, 3⟩

/-- SS_CFG (R253). -/
abbrev SS_CFG.off (s : Nat) : Nat := 0x150010 + 0x1000 * s
abbrev SS_CFG.POLICY (s : Nat) : Fld := ⟨SS_CFG.off s, 0, 3⟩
abbrev SS_CFG.VSTAGES (s : Nat) : Fld := ⟨SS_CFG.off s, 3, 2⟩
abbrev SS_CFG.LAUNCH_AHEAD (s : Nat) : Fld := ⟨SS_CFG.off s, 5, 3⟩
abbrev SS_CFG.WARMUP (s : Nat) : Fld := ⟨SS_CFG.off s, 8, 7⟩
abbrev SS_CFG.TWIN (s : Nat) : Fld := ⟨SS_CFG.off s, 16, 8⟩
abbrev SS_CFG.OFF_K (s : Nat) : Fld := ⟨SS_CFG.off s, 24, 5⟩
abbrev SS_CFG.OFF_TE (s : Nat) : Fld := ⟨SS_CFG.off s, 29, 3⟩
abbrev SS_CFG.NSTASH (s : Nat) : Fld := ⟨SS_CFG.off s, 32, 7⟩
abbrev SS_CFG.NSTAGE (s : Nat) : Fld := ⟨SS_CFG.off s, 40, 6⟩
abbrev SS_CFG.PREFETCH (s : Nat) : Fld := ⟨SS_CFG.off s, 48, 4⟩

/-- SS_TERM (R253). -/
abbrev SS_TERM.off (s : Nat) : Nat := 0x150018 + 0x1000 * s
abbrev SS_TERM.TERM (s : Nat) : Fld := ⟨SS_TERM.off s, 0, 16⟩

/-- SS_FQ (R254). -/
abbrev SS_FQ.off (s : Nat) : Nat := 0x150020 + 0x1000 * s
abbrev SS_FQ.ADDR (s : Nat) : Fld := ⟨SS_FQ.off s, 6, 34⟩
abbrev SS_FQ.DEPTH (s : Nat) : Fld := ⟨SS_FQ.off s, 40, 7⟩

/-- SS_BQ (R254). -/
abbrev SS_BQ.off (s : Nat) : Nat := 0x150028 + 0x1000 * s
abbrev SS_BQ.ADDR (s : Nat) : Fld := ⟨SS_BQ.off s, 6, 34⟩
abbrev SS_BQ.DEPTH (s : Nat) : Fld := ⟨SS_BQ.off s, 40, 7⟩

/-- SS_FDOOR_A (R254). -/
abbrev SS_FDOOR_A.off (s d : Nat) : Nat := 0x150040 + 0x1000 * s + 0x10 * d
abbrev SS_FDOOR_A.ADDR (s d : Nat) : Fld := ⟨SS_FDOOR_A.off s d, 6, 34⟩
abbrev SS_FDOOR_A.DEPTH (s d : Nat) : Fld := ⟨SS_FDOOR_A.off s d, 40, 7⟩

/-- SS_BDOOR_A (R254). -/
abbrev SS_BDOOR_A.off (s d : Nat) : Nat := 0x150080 + 0x1000 * s + 0x10 * d
abbrev SS_BDOOR_A.ADDR (s d : Nat) : Fld := ⟨SS_BDOOR_A.off s d, 6, 34⟩
abbrev SS_BDOOR_A.DEPTH (s d : Nat) : Fld := ⟨SS_BDOOR_A.off s d, 40, 7⟩

/-- SS_FDOOR_B (R254). -/
abbrev SS_FDOOR_B.off (s d : Nat) : Nat := 0x150048 + 0x1000 * s + 0x10 * d
abbrev SS_FDOOR_B.STRIDE (s d : Nat) : Fld := ⟨SS_FDOOR_B.off s d, 0, 32⟩
abbrev SS_FDOOR_B.SRC_NODE (s d : Nat) : Fld := ⟨SS_FDOOR_B.off s d, 32, 18⟩
abbrev SS_FDOOR_B.SRC_SLOT (s d : Nat) : Fld := ⟨SS_FDOOR_B.off s d, 50, 3⟩
abbrev SS_FDOOR_B.SRC_OUT (s d : Nat) : Fld := ⟨SS_FDOOR_B.off s d, 53, 3⟩
abbrev SS_FDOOR_B.TOKMODE (s d : Nat) : Fld := ⟨SS_FDOOR_B.off s d, 56, 1⟩

/-- SS_BDOOR_B (R254). -/
abbrev SS_BDOOR_B.off (s d : Nat) : Nat := 0x150088 + 0x1000 * s + 0x10 * d
abbrev SS_BDOOR_B.STRIDE (s d : Nat) : Fld := ⟨SS_BDOOR_B.off s d, 0, 32⟩
abbrev SS_BDOOR_B.SRC_NODE (s d : Nat) : Fld := ⟨SS_BDOOR_B.off s d, 32, 18⟩
abbrev SS_BDOOR_B.SRC_SLOT (s d : Nat) : Fld := ⟨SS_BDOOR_B.off s d, 50, 3⟩
abbrev SS_BDOOR_B.SRC_OUT (s d : Nat) : Fld := ⟨SS_BDOOR_B.off s d, 53, 3⟩
abbrev SS_BDOOR_B.TOKMODE (s d : Nat) : Fld := ⟨SS_BDOOR_B.off s d, 56, 1⟩

/-- SS_OUT_A (R255). -/
abbrev SS_OUT_A.off (s j : Nat) : Nat := 0x150100 + 0x1000 * s + 0x10 * j
abbrev SS_OUT_A.BASE (s j : Nat) : Fld := ⟨SS_OUT_A.off s j, 0, 64⟩

/-- SS_OUT_B (R255). -/
abbrev SS_OUT_B.off (s j : Nat) : Nat := 0x150108 + 0x1000 * s + 0x10 * j
abbrev SS_OUT_B.STRIDE (s j : Nat) : Fld := ⟨SS_OUT_B.off s j, 0, 32⟩
abbrev SS_OUT_B.DEPTH (s j : Nat) : Fld := ⟨SS_OUT_B.off s j, 32, 7⟩
abbrev SS_OUT_B.PASSES (s j : Nat) : Fld := ⟨SS_OUT_B.off s j, 40, 7⟩
abbrev SS_OUT_B.NEXT (s j : Nat) : Fld := ⟨SS_OUT_B.off s j, 48, 6⟩

/-- SS_VS_FLESSON (R256). -/
abbrev SS_VS_FLESSON.off (s v : Nat) : Nat := 0x150200 + 0x1000 * s + 0x20 * v
abbrev SS_VS_FLESSON.ADDR (s v : Nat) : Fld := ⟨SS_VS_FLESSON.off s v, 6, 34⟩

/-- SS_VS_BLESSON (R256). -/
abbrev SS_VS_BLESSON.off (s v : Nat) : Nat := 0x150208 + 0x1000 * s + 0x20 * v
abbrev SS_VS_BLESSON.ADDR (s v : Nat) : Fld := ⟨SS_VS_BLESSON.off s v, 6, 34⟩

/-- SS_VS_ELESSON (R256). -/
abbrev SS_VS_ELESSON.off (s v : Nat) : Nat := 0x150210 + 0x1000 * s + 0x20 * v
abbrev SS_VS_ELESSON.ADDR (s v : Nat) : Fld := ⟨SS_VS_ELESSON.off s v, 6, 34⟩

/-- SS_STASH (R256). -/
abbrev SS_STASH.off (s : Nat) : Nat := 0x150280 + 0x1000 * s
abbrev SS_STASH.ADDR (s : Nat) : Fld := ⟨SS_STASH.off s, 6, 34⟩

/-- SS_STASH_STRIDE (R256). -/
abbrev SS_STASH_STRIDE.off (s : Nat) : Nat := 0x150288 + 0x1000 * s
abbrev SS_STASH_STRIDE.STRIDE (s : Nat) : Fld := ⟨SS_STASH_STRIDE.off s, 0, 32⟩

/-- SS_STAGE (R256). -/
abbrev SS_STAGE.off (s : Nat) : Nat := 0x150290 + 0x1000 * s
abbrev SS_STAGE.ADDR (s : Nat) : Fld := ⟨SS_STAGE.off s, 6, 34⟩

/-- SS_STAGE_STRIDE (R256). -/
abbrev SS_STAGE_STRIDE.off (s : Nat) : Nat := 0x150298 + 0x1000 * s
abbrev SS_STAGE_STRIDE.STRIDE (s : Nat) : Fld := ⟨SS_STAGE_STRIDE.off s, 0, 32⟩

/-- SS_OFF (R256). -/
abbrev SS_OFF.off (s : Nat) : Nat := 0x1502A0 + 0x1000 * s
abbrev SS_OFF.BASE (s : Nat) : Fld := ⟨SS_OFF.off s, 0, 64⟩

/-- SS_OFF_STRIDE (R256). -/
abbrev SS_OFF_STRIDE.off (s : Nat) : Nat := 0x1502A8 + 0x1000 * s
abbrev SS_OFF_STRIDE.STRIDE (s : Nat) : Fld := ⟨SS_OFF_STRIDE.off s, 0, 32⟩

/-- SS_LAYER_END (R256). -/
abbrev SS_LAYER_END.off (s i : Nat) : Nat := 0x150300 + 0x1000 * s + 0x8 * i
abbrev SS_LAYER_END.END (s i : Nat) : Fld := ⟨SS_LAYER_END.off s i, 0, 32⟩

/-- SS_CUR (R256). -/
abbrev SS_CUR.off (s n : Nat) : Nat := 0x150380 + 0x1000 * s + 0x8 * n
abbrev SS_CUR.BASE (s n : Nat) : Fld := ⟨SS_CUR.off s n, 0, 64⟩

/-- SS_CNT_FWD (R257). -/
abbrev SS_CNT_FWD.off (s : Nat) : Nat := 0x150400 + 0x1000 * s
abbrev SS_CNT_FWD.COUNT (s : Nat) : Fld := ⟨SS_CNT_FWD.off s, 0, 64⟩

/-- SS_CNT_BWD (R257). -/
abbrev SS_CNT_BWD.off (s : Nat) : Nat := 0x150408 + 0x1000 * s
abbrev SS_CNT_BWD.COUNT (s : Nat) : Fld := ⟨SS_CNT_BWD.off s, 0, 64⟩

/-- SS_CNT_STALE (R257). -/
abbrev SS_CNT_STALE.off (s : Nat) : Nat := 0x150410 + 0x1000 * s
abbrev SS_CNT_STALE.COUNT (s : Nat) : Fld := ⟨SS_CNT_STALE.off s, 0, 64⟩

/-- SS_CNT_OFFLOAD (R257). -/
abbrev SS_CNT_OFFLOAD.off (s : Nat) : Nat := 0x150418 + 0x1000 * s
abbrev SS_CNT_OFFLOAD.COUNT (s : Nat) : Fld := ⟨SS_CNT_OFFLOAD.off s, 0, 64⟩

/-- SS_CNT_CTL (R257). -/
abbrev SS_CNT_CTL.off (s : Nat) : Nat := 0x150440 + 0x1000 * s
abbrev SS_CNT_CTL.CLR (s : Nat) : Fld := ⟨SS_CNT_CTL.off s, 0, 1⟩

/-- TT_VER (R258). -/
abbrev TT_VER.off : Nat := 0x40000
abbrev TT_VER.VER : Fld := ⟨TT_VER.off, 0, 8⟩
abbrev TT_VER.SLOTS : Fld := ⟨TT_VER.off, 8, 4⟩
abbrev TT_VER.VSTAGES : Fld := ⟨TT_VER.off, 12, 3⟩
abbrev TT_VER.RECORDS : Fld := ⟨TT_VER.off, 15, 7⟩

/-- UU_VER (R285). -/
abbrev UU_VER.off : Nat := 0x50100
abbrev UU_VER.VER : Fld := ⟨UU_VER.off, 0, 8⟩
abbrev UU_VER.LANES : Fld := ⟨UU_VER.off, 8, 8⟩
abbrev UU_VER.BLOCK_ELEMS : Fld := ⟨UU_VER.off, 16, 16⟩
abbrev UU_VER.BLOCKS_IN_FLIGHT : Fld := ⟨UU_VER.off, 32, 5⟩

/-- UU_CFG (R285). -/
abbrev UU_CFG.off : Nat := 0x50108
abbrev UU_CFG.GEN : Fld := ⟨UU_CFG.off, 0, 1⟩

/-- UU_TERM (R285). -/
abbrev UU_TERM.off : Nat := 0x50110
abbrev UU_TERM.TERM : Fld := ⟨UU_TERM.off, 0, 16⟩

/-- UU_DPBASE (R285). -/
abbrev UU_DPBASE.off : Nat := 0x50118
abbrev UU_DPBASE.PBASE : Fld := ⟨UU_DPBASE.off, 0, 64⟩

/-- UU_DSEED (R285). -/
abbrev UU_DSEED.off : Nat := 0x50120
abbrev UU_DSEED.SEED : Fld := ⟨UU_DSEED.off, 0, 64⟩

/-- UU_STAT (R285). -/
abbrev UU_STAT.off : Nat := 0x50128
abbrev UU_STAT.STALE : Fld := ⟨UU_STAT.off, 0, 1⟩
abbrev UU_STAT.SKIPPED : Fld := ⟨UU_STAT.off, 1, 1⟩
abbrev UU_STAT.BUDDY_LOST : Fld := ⟨UU_STAT.off, 2, 1⟩
abbrev UU_STAT.BUDDY_PEND : Fld := ⟨UU_STAT.off, 3, 1⟩
abbrev UU_STAT.IN_FLIGHT : Fld := ⟨UU_STAT.off, 4, 5⟩
abbrev UU_STAT.LAST_STEP : Fld := ⟨UU_STAT.off, 32, 32⟩

/-- UU_CNT_ELEMS (R285). -/
abbrev UU_CNT_ELEMS.off : Nat := 0x50140
abbrev UU_CNT_ELEMS.COUNT : Fld := ⟨UU_CNT_ELEMS.off, 0, 64⟩

/-- UU_CNT_BLOCKS (R285). -/
abbrev UU_CNT_BLOCKS.off : Nat := 0x50148
abbrev UU_CNT_BLOCKS.COUNT : Fld := ⟨UU_CNT_BLOCKS.off, 0, 64⟩

/-- UU_CNT_SKIPBLK (R285). -/
abbrev UU_CNT_SKIPBLK.off : Nat := 0x50150
abbrev UU_CNT_SKIPBLK.COUNT : Fld := ⟨UU_CNT_SKIPBLK.off, 0, 64⟩

/-- UU_CNT_STALE (R285). -/
abbrev UU_CNT_STALE.off : Nat := 0x50158
abbrev UU_CNT_STALE.COUNT : Fld := ⟨UU_CNT_STALE.off, 0, 64⟩

/-- UU_CNT_NONFIN (R285). -/
abbrev UU_CNT_NONFIN.off : Nat := 0x50160
abbrev UU_CNT_NONFIN.COUNT : Fld := ⟨UU_CNT_NONFIN.off, 0, 64⟩

/-- UU_CNT_CTL (R285). -/
abbrev UU_CNT_CTL.off : Nat := 0x50168
abbrev UU_CNT_CTL.CLR : Fld := ⟨UU_CNT_CTL.off, 0, 1⟩

/-- VS_VER (R286). -/
abbrev VS_VER.off : Nat := 0x60000
abbrev VS_VER.VER : Fld := ⟨VS_VER.off, 0, 8⟩
abbrev VS_VER.ENTRIES : Fld := ⟨VS_VER.off, 8, 3⟩

/-- VS_CFG (R286). -/
abbrev VS_CFG.off (s : Nat) : Nat := 0x60100 + 0x80 * s
abbrev VS_CFG.MODE (s : Nat) : Fld := ⟨VS_CFG.off s, 0, 2⟩
abbrev VS_CFG.STALE (s : Nat) : Fld := ⟨VS_CFG.off s, 2, 2⟩
abbrev VS_CFG.FREE_TOK (s : Nat) : Fld := ⟨VS_CFG.off s, 8, 8⟩
abbrev VS_CFG.FREE_TOK_EN (s : Nat) : Fld := ⟨VS_CFG.off s, 16, 1⟩

/-- VS_WC (R286). -/
abbrev VS_WC.off (s : Nat) : Nat := 0x60108 + 0x80 * s
abbrev VS_WC.BASE (s : Nat) : Fld := ⟨VS_WC.off s, 6, 34⟩

/-- VS_WC_STRIDE (R286). -/
abbrev VS_WC_STRIDE.off (s : Nat) : Nat := 0x60110 + 0x80 * s
abbrev VS_WC_STRIDE.STRIDE (s : Nat) : Fld := ⟨VS_WC_STRIDE.off s, 0, 32⟩

/-- VS_PUB (R286). -/
abbrev VS_PUB.off (s : Nat) : Nat := 0x60118 + 0x80 * s
abbrev VS_PUB.ENTRY (s : Nat) : Fld := ⟨VS_PUB.off s, 0, 2⟩
abbrev VS_PUB.BASE_STEP (s : Nat) : Fld := ⟨VS_PUB.off s, 32, 32⟩

/-- VS_DONE (R286). -/
abbrev VS_DONE.off (s : Nat) : Nat := 0x60120 + 0x80 * s
abbrev VS_DONE.DONE_STEP (s : Nat) : Fld := ⟨VS_DONE.off s, 0, 32⟩

/-- VS_ENT_A (R286). -/
abbrev VS_ENT_A.off (s e : Nat) : Nat := 0x60140 + 0x80 * s + 0x10 * e
abbrev VS_ENT_A.STATE (s e : Nat) : Fld := ⟨VS_ENT_A.off s e, 0, 1⟩
abbrev VS_ENT_A.VSTAGE (s e : Nat) : Fld := ⟨VS_ENT_A.off s e, 1, 2⟩
abbrev VS_ENT_A.REFS (s e : Nat) : Fld := ⟨VS_ENT_A.off s e, 3, 7⟩
abbrev VS_ENT_A.BASE_STEP (s e : Nat) : Fld := ⟨VS_ENT_A.off s e, 32, 32⟩

/-- VS_ENT_B (R286). -/
abbrev VS_ENT_B.off (s e : Nat) : Nat := 0x60148 + 0x80 * s + 0x10 * e
abbrev VS_ENT_B.LAST_STEP (s e : Nat) : Fld := ⟨VS_ENT_B.off s e, 0, 32⟩

/-- CE_VER (R321). -/
abbrev CE_VER.off : Nat := 0x70100
abbrev CE_VER.VER : Fld := ⟨CE_VER.off, 0, 8⟩
abbrev CE_VER.CONTEXTS : Fld := ⟨CE_VER.off, 8, 4⟩
abbrev CE_VER.MAX_SIZE : Fld := ⟨CE_VER.off, 12, 9⟩
abbrev CE_VER.ISSUE_WINDOW : Fld := ⟨CE_VER.off, 21, 5⟩

/-- CE_CNT_CTL (R321). -/
abbrev CE_CNT_CTL.off : Nat := 0x70108
abbrev CE_CNT_CTL.CLR : Fld := ⟨CE_CNT_CTL.off, 0, 1⟩

/-- CE_GRP_CFG (R322). -/
abbrev CE_GRP_CFG.off (g : Nat) : Nat := 0x70400 + 0x80 * g
abbrev CE_GRP_CFG.EN (g : Nat) : Fld := ⟨CE_GRP_CFG.off g, 0, 1⟩
abbrev CE_GRP_CFG.AXIS (g : Nat) : Fld := ⟨CE_GRP_CFG.off g, 1, 2⟩
abbrev CE_GRP_CFG.VCP (g : Nat) : Fld := ⟨CE_GRP_CFG.off g, 3, 2⟩
abbrev CE_GRP_CFG.LEGACY (g : Nat) : Fld := ⟨CE_GRP_CFG.off g, 5, 1⟩
abbrev CE_GRP_CFG.SIZE_M1 (g : Nat) : Fld := ⟨CE_GRP_CFG.off g, 8, 8⟩
abbrev CE_GRP_CFG.POS (g : Nat) : Fld := ⟨CE_GRP_CFG.off g, 16, 8⟩
abbrev CE_GRP_CFG.GID (g : Nat) : Fld := ⟨CE_GRP_CFG.off g, 24, 16⟩

/-- CE_GRP_NEXT (R322). -/
abbrev CE_GRP_NEXT.off (g : Nat) : Nat := 0x70408 + 0x80 * g
abbrev CE_GRP_NEXT.NODE (g : Nat) : Fld := ⟨CE_GRP_NEXT.off g, 0, 18⟩

/-- CE_GRP_TERM (R322). -/
abbrev CE_GRP_TERM.off (g : Nat) : Nat := 0x70410 + 0x80 * g
abbrev CE_GRP_TERM.TERM (g : Nat) : Fld := ⟨CE_GRP_TERM.off g, 0, 16⟩

/-- CE_GRP_DEADLINE (R322). -/
abbrev CE_GRP_DEADLINE.off (g : Nat) : Nat := 0x70418 + 0x80 * g
abbrev CE_GRP_DEADLINE.DEADLINE_US (g : Nat) : Fld := ⟨CE_GRP_DEADLINE.off g, 0, 32⟩

/-- CE_GRP_STAGE (R322). -/
abbrev CE_GRP_STAGE.off (g : Nat) : Nat := 0x70420 + 0x80 * g
abbrev CE_GRP_STAGE.ADDR (g : Nat) : Fld := ⟨CE_GRP_STAGE.off g, 6, 34⟩

/-- CE_GRP_STAGE_SIZE (R322). -/
abbrev CE_GRP_STAGE_SIZE.off (g : Nat) : Nat := 0x70428 + 0x80 * g
abbrev CE_GRP_STAGE_SIZE.BYTES (g : Nat) : Fld := ⟨CE_GRP_STAGE_SIZE.off g, 0, 32⟩

/-- CE_GRP_CARRY (R322). -/
abbrev CE_GRP_CARRY.off (g : Nat) : Nat := 0x70430 + 0x80 * g
abbrev CE_GRP_CARRY.ADDR (g : Nat) : Fld := ⟨CE_GRP_CARRY.off g, 6, 34⟩

/-- CE_GRP_CARRY_STRIDE (R322). -/
abbrev CE_GRP_CARRY_STRIDE.off (g : Nat) : Nat := 0x70438 + 0x80 * g
abbrev CE_GRP_CARRY_STRIDE.STRIDE (g : Nat) : Fld := ⟨CE_GRP_CARRY_STRIDE.off g, 0, 32⟩

/-- CE_GRP_REC (R322). -/
abbrev CE_GRP_REC.off (g : Nat) : Nat := 0x70440 + 0x80 * g
abbrev CE_GRP_REC.ADDR (g : Nat) : Fld := ⟨CE_GRP_REC.off g, 6, 34⟩

/-- CE_GRP_NORM (R322). -/
abbrev CE_GRP_NORM.off (g : Nat) : Nat := 0x70448 + 0x80 * g
abbrev CE_GRP_NORM.ADDR (g : Nat) : Fld := ⟨CE_GRP_NORM.off g, 3, 37⟩

/-- CE_GRP_CTL (R322). -/
abbrev CE_GRP_CTL.off (g : Nat) : Nat := 0x70450 + 0x80 * g
abbrev CE_GRP_CTL.ABANDON (g : Nat) : Fld := ⟨CE_GRP_CTL.off g, 0, 1⟩

/-- CE_GRP_STAT (R322). -/
abbrev CE_GRP_STAT.off (g : Nat) : Nat := 0x70458 + 0x80 * g
abbrev CE_GRP_STAT.TARDY (g : Nat) : Fld := ⟨CE_GRP_STAT.off g, 0, 1⟩
abbrev CE_GRP_STAT.STALE (g : Nat) : Fld := ⟨CE_GRP_STAT.off g, 1, 1⟩
abbrev CE_GRP_STAT.CARRY_LOST (g : Nat) : Fld := ⟨CE_GRP_STAT.off g, 2, 1⟩
abbrev CE_GRP_STAT.IV2 (g : Nat) : Fld := ⟨CE_GRP_STAT.off g, 3, 1⟩
abbrev CE_GRP_STAT.OPEN (g : Nat) : Fld := ⟨CE_GRP_STAT.off g, 8, 16⟩

/-- CE_GRP_CNT_BKT (R322). -/
abbrev CE_GRP_CNT_BKT.off (g : Nat) : Nat := 0x70460 + 0x80 * g
abbrev CE_GRP_CNT_BKT.COUNT (g : Nat) : Fld := ⟨CE_GRP_CNT_BKT.off g, 0, 64⟩

/-- CE_GRP_CNT_TARDY (R322). -/
abbrev CE_GRP_CNT_TARDY.off (g : Nat) : Nat := 0x70468 + 0x80 * g
abbrev CE_GRP_CNT_TARDY.COUNT (g : Nat) : Fld := ⟨CE_GRP_CNT_TARDY.off g, 0, 64⟩

/-- CE_GRP_CNT_WIDE (R322). -/
abbrev CE_GRP_CNT_WIDE.off (g : Nat) : Nat := 0x70470 + 0x80 * g
abbrev CE_GRP_CNT_WIDE.COUNT (g : Nat) : Fld := ⟨CE_GRP_CNT_WIDE.off g, 0, 64⟩

/-- CE_GRP_CNT_STALE (R322). -/
abbrev CE_GRP_CNT_STALE.off (g : Nat) : Nat := 0x70478 + 0x80 * g
abbrev CE_GRP_CNT_STALE.COUNT (g : Nat) : Fld := ⟨CE_GRP_CNT_STALE.off g, 0, 64⟩

/-- GB_VER (R323). -/
abbrev GB_VER.off : Nat := 0x80000
abbrev GB_VER.VER : Fld := ⟨GB_VER.off, 0, 8⟩

/-- GB_CTL (R323). -/
abbrev GB_CTL.off : Nat := 0x80008
abbrev GB_CTL.CTX : Fld := ⟨GB_CTL.off, 0, 3⟩
abbrev GB_CTL.CLR : Fld := ⟨GB_CTL.off, 3, 1⟩

/-- GB_E_A (R323). -/
abbrev GB_E_A.off (g i : Nat) : Nat := 0x81000 + 0x800 * g + 0x20 * i
abbrev GB_E_A.STEP (g i : Nat) : Fld := ⟨GB_E_A.off g i, 0, 32⟩
abbrev GB_E_A.TERM (g i : Nat) : Fld := ⟨GB_E_A.off g i, 32, 16⟩
abbrev GB_E_A.VALID (g i : Nat) : Fld := ⟨GB_E_A.off g i, 48, 1⟩
abbrev GB_E_A.RESUMED (g i : Nat) : Fld := ⟨GB_E_A.off g i, 49, 1⟩

/-- GB_E_B (R323). -/
abbrev GB_E_B.off (g i : Nat) : Nat := 0x81008 + 0x800 * g + 0x20 * i
abbrev GB_E_B.NSENT (g i : Nat) : Fld := ⟨GB_E_B.off g i, 0, 32⟩
abbrev GB_E_B.NRECV (g i : Nat) : Fld := ⟨GB_E_B.off g i, 32, 32⟩

/-- GB_E_SENT (R323). -/
abbrev GB_E_SENT.off (g i : Nat) : Nat := 0x81010 + 0x800 * g + 0x20 * i
abbrev GB_E_SENT.DIGEST (g i : Nat) : Fld := ⟨GB_E_SENT.off g i, 0, 64⟩

/-- GB_E_RECV (R323). -/
abbrev GB_E_RECV.off (g i : Nat) : Nat := 0x81018 + 0x800 * g + 0x20 * i
abbrev GB_E_RECV.DIGEST (g i : Nat) : Fld := ⟨GB_E_RECV.off g i, 0, 64⟩

/-- CH_SEAT (R342). -/
abbrev CH_SEAT.off : Nat := 0x10820
abbrev CH_SEAT.SX : Fld := ⟨CH_SEAT.off, 0, 8⟩
abbrev CH_SEAT.SY : Fld := ⟨CH_SEAT.off, 8, 6⟩
abbrev CH_SEAT.SZ : Fld := ⟨CH_SEAT.off, 14, 2⟩
abbrev CH_SEAT.SEATED : Fld := ⟨CH_SEAT.off, 16, 1⟩
abbrev CH_SEAT.SUB : Fld := ⟨CH_SEAT.off, 17, 1⟩
abbrev CH_SEAT.JOB : Fld := ⟨CH_SEAT.off, 32, 16⟩
abbrev CH_SEAT.GEN : Fld := ⟨CH_SEAT.off, 48, 16⟩

/-- CH_TERM (R343). -/
abbrev CH_TERM.off : Nat := 0x10828
abbrev CH_TERM.CUR : Fld := ⟨CH_TERM.off, 0, 16⟩
abbrev CH_TERM.NEXT : Fld := ⟨CH_TERM.off, 16, 16⟩
abbrev CH_TERM.STATE : Fld := ⟨CH_TERM.off, 32, 2⟩
abbrev CH_TERM.ABANDONED : Fld := ⟨CH_TERM.off, 34, 1⟩
abbrev CH_TERM.REASON : Fld := ⟨CH_TERM.off, 36, 3⟩

/-- CH_TERM_CTL (R343). -/
abbrev CH_TERM_CTL.off : Nat := 0x10830
abbrev CH_TERM_CTL.NEW : Fld := ⟨CH_TERM_CTL.off, 0, 16⟩
abbrev CH_TERM_CTL.GROUPS : Fld := ⟨CH_TERM_CTL.off, 16, 8⟩
abbrev CH_TERM_CTL.START : Fld := ⟨CH_TERM_CTL.off, 24, 1⟩
abbrev CH_TERM_CTL.CHART : Fld := ⟨CH_TERM_CTL.off, 25, 1⟩
abbrev CH_TERM_CTL.TOK_EN : Fld := ⟨CH_TERM_CTL.off, 26, 1⟩
abbrev CH_TERM_CTL.ADOPT : Fld := ⟨CH_TERM_CTL.off, 27, 1⟩
abbrev CH_TERM_CTL.TOK : Fld := ⟨CH_TERM_CTL.off, 32, 8⟩

/-- CH_TERM_TIMEOUT (R343). -/
abbrev CH_TERM_TIMEOUT.off : Nat := 0x10838
abbrev CH_TERM_TIMEOUT.TIMEOUT_US : Fld := ⟨CH_TERM_TIMEOUT.off, 0, 32⟩

/-- CH_CHART_SRC (R344). -/
abbrev CH_CHART_SRC.off : Nat := 0x10840
abbrev CH_CHART_SRC.ADDR : Fld := ⟨CH_CHART_SRC.off, 6, 34⟩

/-- CH_CHART_IDX (R344). -/
abbrev CH_CHART_IDX.off : Nat := 0x10848
abbrev CH_CHART_IDX.INDEX : Fld := ⟨CH_CHART_IDX.off, 0, 16⟩

/-- CH_CHART_ENT (R344). -/
abbrev CH_CHART_ENT.off : Nat := 0x10850
abbrev CH_CHART_ENT.ENTRY : Fld := ⟨CH_CHART_ENT.off, 0, 32⟩
abbrev CH_CHART_ENT.TERM : Fld := ⟨CH_CHART_ENT.off, 32, 16⟩

/-- CS_VER (R372). -/
abbrev CS_VER.off : Nat := 0x90000
abbrev CS_VER.VER : Fld := ⟨CS_VER.off, 0, 8⟩
abbrev CS_VER.PORTS : Fld := ⟨CS_VER.off, 8, 4⟩
abbrev CS_VER.VCS : Fld := ⟨CS_VER.off, 12, 5⟩

/-- CS_CFG (R372). -/
abbrev CS_CFG.off : Nat := 0x90008
abbrev CS_CFG.NODE : Fld := ⟨CS_CFG.off, 0, 18⟩
abbrev CS_CFG.MODE : Fld := ⟨CS_CFG.off, 18, 2⟩
abbrev CS_CFG.TC0_HOP_LIMIT : Fld := ⟨CS_CFG.off, 24, 9⟩

/-- CS_RING (R372). -/
abbrev CS_RING.off : Nat := 0x90010
abbrev CS_RING.NX_M1 : Fld := ⟨CS_RING.off, 0, 9⟩
abbrev CS_RING.NY_M1 : Fld := ⟨CS_RING.off, 9, 7⟩
abbrev CS_RING.X_BRK_VALID : Fld := ⟨CS_RING.off, 16, 1⟩
abbrev CS_RING.X_BRK : Fld := ⟨CS_RING.off, 17, 9⟩
abbrev CS_RING.Y_BRK_VALID : Fld := ⟨CS_RING.off, 26, 1⟩
abbrev CS_RING.Y_BRK : Fld := ⟨CS_RING.off, 27, 7⟩
abbrev CS_RING.Z_BRK_VALID : Fld := ⟨CS_RING.off, 34, 1⟩
abbrev CS_RING.Z_BRK : Fld := ⟨CS_RING.off, 35, 2⟩

/-- CS_ARB (R372). -/
abbrev CS_ARB.off : Nat := 0x90018
abbrev CS_ARB.W_TC1 : Fld := ⟨CS_ARB.off, 0, 4⟩
abbrev CS_ARB.W_TC2 : Fld := ⟨CS_ARB.off, 4, 4⟩
abbrev CS_ARB.W_TC3 : Fld := ⟨CS_ARB.off, 8, 4⟩

/-- CS_TO (R372). -/
abbrev CS_TO.off : Nat := 0x90020
abbrev CS_TO.RESP_TIMEOUT_US : Fld := ⟨CS_TO.off, 0, 32⟩

/-- CS_OUTST (R372). -/
abbrev CS_OUTST.off : Nat := 0x90028
abbrev CS_OUTST.READS : Fld := ⟨CS_OUTST.off, 0, 13⟩
abbrev CS_OUTST.WRITES : Fld := ⟨CS_OUTST.off, 16, 13⟩
abbrev CS_OUTST.TC0_Q : Fld := ⟨CS_OUTST.off, 32, 7⟩

/-- CS_STAT (R372). -/
abbrev CS_STAT.off : Nat := 0x90030
abbrev CS_STAT.TIMEOUT : Fld := ⟨CS_STAT.off, 0, 1⟩
abbrev CS_STAT.NOROUTE : Fld := ⟨CS_STAT.off, 1, 1⟩
abbrev CS_STAT.TC0_REFUSED : Fld := ⟨CS_STAT.off, 2, 1⟩

/-- CS_CNT_NOROUTE (R373). -/
abbrev CS_CNT_NOROUTE.off : Nat := 0x90040
abbrev CS_CNT_NOROUTE.COUNT : Fld := ⟨CS_CNT_NOROUTE.off, 0, 64⟩

/-- CS_CNT_TIMEOUT (R373). -/
abbrev CS_CNT_TIMEOUT.off : Nat := 0x90048
abbrev CS_CNT_TIMEOUT.COUNT : Fld := ⟨CS_CNT_TIMEOUT.off, 0, 64⟩

/-- CS_CNT_LATE (R373). -/
abbrev CS_CNT_LATE.off : Nat := 0x90050
abbrev CS_CNT_LATE.COUNT : Fld := ⟨CS_CNT_LATE.off, 0, 64⟩

/-- CS_CNT_TC0_REFUSED (R373). -/
abbrev CS_CNT_TC0_REFUSED.off : Nat := 0x90058
abbrev CS_CNT_TC0_REFUSED.COUNT : Fld := ⟨CS_CNT_TC0_REFUSED.off, 0, 64⟩

/-- CS_CNT_UNSUP (R373). -/
abbrev CS_CNT_UNSUP.off : Nat := 0x90060
abbrev CS_CNT_UNSUP.COUNT : Fld := ⟨CS_CNT_UNSUP.off, 0, 64⟩

/-- CS_CNT_CTL (R373). -/
abbrev CS_CNT_CTL.off : Nat := 0x90068
abbrev CS_CNT_CTL.CLR : Fld := ⟨CS_CNT_CTL.off, 0, 1⟩

/-- IV_VER (R374). -/
abbrev IV_VER.off (p : Nat) : Nat := 0xA0000 + 0x1000 * p
abbrev IV_VER.VER (p : Nat) : Fld := ⟨IV_VER.off p, 0, 8⟩
abbrev IV_VER.NEG_VER (p : Nat) : Fld := ⟨IV_VER.off p, 8, 8⟩
abbrev IV_VER.PEER_FEAT (p : Nat) : Fld := ⟨IV_VER.off p, 16, 8⟩
abbrev IV_VER.FEAT (p : Nat) : Fld := ⟨IV_VER.off p, 24, 8⟩

/-- IV_STAT (R374). -/
abbrev IV_STAT.off (p : Nat) : Nat := 0xA0008 + 0x1000 * p
abbrev IV_STAT.STATE (p : Nat) : Fld := ⟨IV_STAT.off p, 0, 3⟩
abbrev IV_STAT.MM_REASON (p : Nat) : Fld := ⟨IV_STAT.off p, 4, 2⟩
abbrev IV_STAT.PEER_NODE (p : Nat) : Fld := ⟨IV_STAT.off p, 32, 18⟩

/-- IV_CTL (R374). -/
abbrev IV_CTL.off (p : Nat) : Nat := 0xA0010 + 0x1000 * p
abbrev IV_CTL.RETRAIN (p : Nat) : Fld := ⟨IV_CTL.off p, 0, 1⟩
abbrev IV_CTL.DISABLE (p : Nat) : Fld := ⟨IV_CTL.off p, 1, 1⟩

/-- IV_LANES (R374). -/
abbrev IV_LANES.off (p : Nat) : Nat := 0xA0018 + 0x1000 * p
abbrev IV_LANES.GOOD (p : Nat) : Fld := ⟨IV_LANES.off p, 0, 34⟩
abbrev IV_LANES.SPARES_USED (p : Nat) : Fld := ⟨IV_LANES.off p, 40, 2⟩

/-- IV_RTT (R374). -/
abbrev IV_RTT.off (p : Nat) : Nat := 0xA0020 + 0x1000 * p
abbrev IV_RTT.RTT_NS (p : Nat) : Fld := ⟨IV_RTT.off p, 0, 16⟩

/-- IV_LANE_LIMIT (R374). -/
abbrev IV_LANE_LIMIT.off (p : Nat) : Nat := 0xA0028 + 0x1000 * p
abbrev IV_LANE_LIMIT.CORR_PER_S (p : Nat) : Fld := ⟨IV_LANE_LIMIT.off p, 0, 32⟩

/-- IV_CNT_FEC_CORR (R375). -/
abbrev IV_CNT_FEC_CORR.off (p : Nat) : Nat := 0xA0040 + 0x1000 * p
abbrev IV_CNT_FEC_CORR.COUNT (p : Nat) : Fld := ⟨IV_CNT_FEC_CORR.off p, 0, 64⟩

/-- IV_CNT_FEC_UNCORR (R375). -/
abbrev IV_CNT_FEC_UNCORR.off (p : Nat) : Nat := 0xA0048 + 0x1000 * p
abbrev IV_CNT_FEC_UNCORR.COUNT (p : Nat) : Fld := ⟨IV_CNT_FEC_UNCORR.off p, 0, 64⟩

/-- IV_CNT_CRC (R375). -/
abbrev IV_CNT_CRC.off (p : Nat) : Nat := 0xA0050 + 0x1000 * p
abbrev IV_CNT_CRC.COUNT (p : Nat) : Fld := ⟨IV_CNT_CRC.off p, 0, 64⟩

/-- IV_CNT_REPLAY (R375). -/
abbrev IV_CNT_REPLAY.off (p : Nat) : Nat := 0xA0058 + 0x1000 * p
abbrev IV_CNT_REPLAY.COUNT (p : Nat) : Fld := ⟨IV_CNT_REPLAY.off p, 0, 64⟩

/-- IV_CNT_RETRAIN (R375). -/
abbrev IV_CNT_RETRAIN.off (p : Nat) : Nat := 0xA0060 + 0x1000 * p
abbrev IV_CNT_RETRAIN.COUNT (p : Nat) : Fld := ⟨IV_CNT_RETRAIN.off p, 0, 64⟩

/-- IV_CNT_CTL (R375). -/
abbrev IV_CNT_CTL.off (p : Nat) : Nat := 0xA0068 + 0x1000 * p
abbrev IV_CNT_CTL.CLR (p : Nat) : Fld := ⟨IV_CNT_CTL.off p, 0, 1⟩

/-- HR_CSTATE (R398). -/
abbrev HR_CSTATE.off : Nat := 0x10
abbrev HR_CSTATE.STATE : Fld := ⟨HR_CSTATE.off, 0, 3⟩
abbrev HR_CSTATE.PHASE : Fld := ⟨HR_CSTATE.off, 4, 3⟩
abbrev HR_CSTATE.FAULT : Fld := ⟨HR_CSTATE.off, 8, 4⟩
abbrev HR_CSTATE.LATE : Fld := ⟨HR_CSTATE.off, 12, 1⟩
abbrev HR_CSTATE.ROLE : Fld := ⟨HR_CSTATE.off, 13, 2⟩

/-- HR_BOOT_TIME (R398). -/
abbrev HR_BOOT_TIME.off (n : Nat) : Nat := 0x40 + 0x8 * n
abbrev HR_BOOT_TIME.END_US (n : Nat) : Fld := ⟨HR_BOOT_TIME.off n, 0, 32⟩

/-- HR_RC_STAT (R399). -/
abbrev HR_RC_STAT.off : Nat := 0x300
abbrev HR_RC_STAT.Z_CLOSED : Fld := ⟨HR_RC_STAT.off, 0, 1⟩
abbrev HR_RC_STAT.Y_CLOSED : Fld := ⟨HR_RC_STAT.off, 1, 1⟩
abbrev HR_RC_STAT.X_CLOSED : Fld := ⟨HR_RC_STAT.off, 2, 1⟩
abbrev HR_RC_STAT.ALL_PRESENT : Fld := ⟨HR_RC_STAT.off, 3, 1⟩
abbrev HR_RC_STAT.COMPLETE : Fld := ⟨HR_RC_STAT.off, 4, 1⟩
abbrev HR_RC_STAT.LINE : Fld := ⟨HR_RC_STAT.off, 5, 3⟩
abbrev HR_RC_STAT.X_HEAD : Fld := ⟨HR_RC_STAT.off, 8, 9⟩
abbrev HR_RC_STAT.Y_HEAD : Fld := ⟨HR_RC_STAT.off, 17, 7⟩
abbrev HR_RC_STAT.Z_HEAD : Fld := ⟨HR_RC_STAT.off, 24, 2⟩
abbrev HR_RC_STAT.HALL_PRESENT : Fld := ⟨HR_RC_STAT.off, 32, 17⟩

/-- HR_RC_X (R399). -/
abbrev HR_RC_X.off (i : Nat) : Nat := 0x308 + 0x8 * i
abbrev HR_RC_X.PRESENT (i : Nat) : Fld := ⟨HR_RC_X.off i, 0, 64⟩

/-- HR_RC_XB (R399). -/
abbrev HR_RC_XB.off (i : Nat) : Nat := 0x330 + 0x8 * i
abbrev HR_RC_XB.BYPASS (i : Nat) : Fld := ⟨HR_RC_XB.off i, 0, 64⟩

/-- HR_RC_Y (R399). -/
abbrev HR_RC_Y.off (i : Nat) : Nat := 0x358 + 0x8 * i
abbrev HR_RC_Y.PRESENT (i : Nat) : Fld := ⟨HR_RC_Y.off i, 0, 64⟩

/-- HR_RC_YB (R399). -/
abbrev HR_RC_YB.off (i : Nat) : Nat := 0x368 + 0x8 * i
abbrev HR_RC_YB.BYPASS (i : Nat) : Fld := ⟨HR_RC_YB.off i, 0, 64⟩

/-- HR_RC_Z (R399). -/
abbrev HR_RC_Z.off : Nat := 0x378
abbrev HR_RC_Z.PRESENT : Fld := ⟨HR_RC_Z.off, 0, 4⟩
abbrev HR_RC_Z.BYPASS : Fld := ⟨HR_RC_Z.off, 4, 4⟩

/-- HR_HB_STAT (R418). -/
abbrev HR_HB_STAT.off : Nat := 0x400
abbrev HR_HB_STAT.SUSPECT : Fld := ⟨HR_HB_STAT.off, 0, 6⟩
abbrev HR_HB_STAT.MONITORED : Fld := ⟨HR_HB_STAT.off, 6, 6⟩

/-- HR_RECOV_CFG (R418). -/
abbrev HR_RECOV_CFG.off : Nat := 0x408
abbrev HR_RECOV_CFG.TOK : Fld := ⟨HR_RECOV_CFG.off, 0, 8⟩
abbrev HR_RECOV_CFG.TOK_EN : Fld := ⟨HR_RECOV_CFG.off, 8, 1⟩

/-- HR_RECOV_STAT (R418). -/
abbrev HR_RECOV_STAT.off : Nat := 0x410
abbrev HR_RECOV_STAT.FAILED : Fld := ⟨HR_RECOV_STAT.off, 0, 18⟩
abbrev HR_RECOV_STAT.CAUSE : Fld := ⟨HR_RECOV_STAT.off, 18, 4⟩
abbrev HR_RECOV_STAT.COORD : Fld := ⟨HR_RECOV_STAT.off, 22, 1⟩
abbrev HR_RECOV_STAT.CLAIMED : Fld := ⟨HR_RECOV_STAT.off, 23, 1⟩
abbrev HR_RECOV_STAT.RECOVERED : Fld := ⟨HR_RECOV_STAT.off, 24, 1⟩
abbrev HR_RECOV_STAT.NO_SUB : Fld := ⟨HR_RECOV_STAT.off, 25, 1⟩
abbrev HR_RECOV_STAT.SUB : Fld := ⟨HR_RECOV_STAT.off, 32, 18⟩

/-- HR_RECOV_TERM (R418). -/
abbrev HR_RECOV_TERM.off : Nat := 0x418
abbrev HR_RECOV_TERM.OLD_TERM : Fld := ⟨HR_RECOV_TERM.off, 0, 16⟩
abbrev HR_RECOV_TERM.NEW_TERM : Fld := ⟨HR_RECOV_TERM.off, 16, 16⟩
abbrev HR_RECOV_TERM.SEAT : Fld := ⟨HR_RECOV_TERM.off, 32, 16⟩

/-- HR_RECOV_CTL (R418). -/
abbrev HR_RECOV_CTL.off : Nat := 0x420
abbrev HR_RECOV_CTL.VACATE : Fld := ⟨HR_RECOV_CTL.off, 0, 1⟩

/-- HR_CNT_HB_MISS (R418). -/
abbrev HR_CNT_HB_MISS.off : Nat := 0x440
abbrev HR_CNT_HB_MISS.COUNT : Fld := ⟨HR_CNT_HB_MISS.off, 0, 64⟩

/-- HR_CNT_RECOV (R418). -/
abbrev HR_CNT_RECOV.off : Nat := 0x448
abbrev HR_CNT_RECOV.COUNT : Fld := ⟨HR_CNT_RECOV.off, 0, 64⟩

/-- HP_VER (R447). -/
abbrev HP_VER.off : Nat := 0x0
abbrev HP_VER.VER : Fld := ⟨HP_VER.off, 0, 8⟩
abbrev HP_VER.CHANNELS : Fld := ⟨HP_VER.off, 8, 4⟩
abbrev HP_VER.DECODERS : Fld := ⟨HP_VER.off, 12, 4⟩

/-- HP_LINK (R447). -/
abbrev HP_LINK.off : Nat := 0x8
abbrev HP_LINK.UP : Fld := ⟨HP_LINK.off, 0, 1⟩
abbrev HP_LINK.CXL : Fld := ⟨HP_LINK.off, 1, 1⟩
abbrev HP_LINK.BME : Fld := ⟨HP_LINK.off, 2, 1⟩
abbrev HP_LINK.WIDTH : Fld := ⟨HP_LINK.off, 8, 5⟩
abbrev HP_LINK.SPEED : Fld := ⟨HP_LINK.off, 13, 3⟩
abbrev HP_LINK.EPOCH : Fld := ⟨HP_LINK.off, 32, 32⟩

/-- HP_CNT_BADACC (R447). -/
abbrev HP_CNT_BADACC.off : Nat := 0x40
abbrev HP_CNT_BADACC.COUNT : Fld := ⟨HP_CNT_BADACC.off, 0, 64⟩

/-- HP_CNT_REFUSED (R447). -/
abbrev HP_CNT_REFUSED.off : Nat := 0x48
abbrev HP_CNT_REFUSED.COUNT : Fld := ⟨HP_CNT_REFUSED.off, 0, 64⟩

/-- HP_CNT_CTL (R447). -/
abbrev HP_CNT_CTL.off : Nat := 0x60
abbrev HP_CNT_CTL.CLR : Fld := ⟨HP_CNT_CTL.off, 0, 1⟩

/-- HPC_HQ_CNT (R448). -/
abbrev HPC_HQ_CNT.off : Nat := 0x10000100
abbrev HPC_HQ_CNT.HEAD_CNT : Fld := ⟨HPC_HQ_CNT.off, 0, 16⟩
abbrev HPC_HQ_CNT.TAIL_CNT : Fld := ⟨HPC_HQ_CNT.off, 16, 16⟩

/-- HPC_WIN (R448). -/
abbrev HPC_WIN.off : Nat := 0x10000108
abbrev HPC_WIN.BASE : Fld := ⟨HPC_WIN.off, 29, 11⟩

/-- HPC_STAT (R448). -/
abbrev HPC_STAT.off : Nat := 0x10000110
abbrev HPC_STAT.UCIE_UP : Fld := ⟨HPC_STAT.off, 0, 1⟩
abbrev HPC_STAT.REACH : Fld := ⟨HPC_STAT.off, 1, 1⟩
abbrev HPC_STAT.MB_H2D_BUSY : Fld := ⟨HPC_STAT.off, 2, 1⟩

/-- HPC_IRQ (R448). -/
abbrev HPC_IRQ.off : Nat := 0x10000118
abbrev HPC_IRQ.MB_D2H : Fld := ⟨HPC_IRQ.off, 0, 1⟩
abbrev HPC_IRQ.HLOG : Fld := ⟨HPC_IRQ.off, 1, 1⟩
abbrev HPC_IRQ.HQ_HALT : Fld := ⟨HPC_IRQ.off, 2, 1⟩

/-- HPC_IRQ_EN (R448). -/
abbrev HPC_IRQ_EN.off : Nat := 0x10000120
abbrev HPC_IRQ_EN.EN : Fld := ⟨HPC_IRQ_EN.off, 0, 3⟩

/-- HPC_HWSEQ (R448). -/
abbrev HPC_HWSEQ.off : Nat := 0x10000128
abbrev HPC_HWSEQ.LAST : Fld := ⟨HPC_HWSEQ.off, 0, 32⟩

/-- HPC_HLOG (R448). -/
abbrev HPC_HLOG.off : Nat := 0x10000130
abbrev HPC_HLOG.ADDR : Fld := ⟨HPC_HLOG.off, 17, 23⟩

/-- HPC_HLOG_STAT (R448). -/
abbrev HPC_HLOG_STAT.off : Nat := 0x10000138
abbrev HPC_HLOG_STAT.WCNT : Fld := ⟨HPC_HLOG_STAT.off, 0, 16⟩
abbrev HPC_HLOG_STAT.RCNT : Fld := ⟨HPC_HLOG_STAT.off, 16, 16⟩
abbrev HPC_HLOG_STAT.OVF : Fld := ⟨HPC_HLOG_STAT.off, 32, 16⟩
abbrev HPC_HLOG_STAT.HELD : Fld := ⟨HPC_HLOG_STAT.off, 48, 9⟩

/-- HPC_CNT_WINFAULT (R448). -/
abbrev HPC_CNT_WINFAULT.off : Nat := 0x10000140
abbrev HPC_CNT_WINFAULT.COUNT : Fld := ⟨HPC_CNT_WINFAULT.off, 0, 64⟩

/-- HPC_CNT_UNREACH (R448). -/
abbrev HPC_CNT_UNREACH.off : Nat := 0x10000148
abbrev HPC_CNT_UNREACH.COUNT : Fld := ⟨HPC_CNT_UNREACH.off, 0, 64⟩

/-- HPC_CNT_DBREF (R448). -/
abbrev HPC_CNT_DBREF.off : Nat := 0x10000150
abbrev HPC_CNT_DBREF.COUNT : Fld := ⟨HPC_CNT_DBREF.off, 0, 64⟩

/-- HPC_CNT_DROPPED (R448). -/
abbrev HPC_CNT_DROPPED.off : Nat := 0x10000158
abbrev HPC_CNT_DROPPED.COUNT : Fld := ⟨HPC_CNT_DROPPED.off, 0, 64⟩

/-- HPC_CNT_CTL (R448). -/
abbrev HPC_CNT_CTL.off : Nat := 0x10000160
abbrev HPC_CNT_CTL.CLR : Fld := ⟨HPC_CNT_CTL.off, 0, 1⟩

/-- HP_DB (R449). -/
abbrev HP_DB.off : Nat := 0x10010000
abbrev HP_DB.TAIL_CNT : Fld := ⟨HP_DB.off, 0, 16⟩

/-- HP_MB_H2D (R449). -/
abbrev HP_MB_H2D.off : Nat := 0x10010008
abbrev HP_MB_H2D.LEN : Fld := ⟨HP_MB_H2D.off, 0, 13⟩
abbrev HP_MB_H2D.SEQ : Fld := ⟨HP_MB_H2D.off, 16, 32⟩

/-- HP_MB_D2H (R449). -/
abbrev HP_MB_D2H.off : Nat := 0x10010010
abbrev HP_MB_D2H.LEN : Fld := ⟨HP_MB_D2H.off, 0, 13⟩
abbrev HP_MB_D2H.SEQ : Fld := ⟨HP_MB_D2H.off, 16, 32⟩

/-- HP_MB_ACK (R449). -/
abbrev HP_MB_ACK.off : Nat := 0x10010018
abbrev HP_MB_ACK.ACK : Fld := ⟨HP_MB_ACK.off, 0, 1⟩

/-- EN_VER (R464). -/
abbrev EN_VER.off : Nat := 0xE0000
abbrev EN_VER.VER : Fld := ⟨EN_VER.off, 0, 8⟩

/-- EN_CFG (R464). -/
abbrev EN_CFG.off : Nat := 0xE0008
abbrev EN_CFG.EN : Fld := ⟨EN_CFG.off, 0, 1⟩
abbrev EN_CFG.IPV6 : Fld := ⟨EN_CFG.off, 1, 1⟩
abbrev EN_CFG.PRIO : Fld := ⟨EN_CFG.off, 2, 3⟩
abbrev EN_CFG.DSCP : Fld := ⟨EN_CFG.off, 5, 6⟩
abbrev EN_CFG.VLAN_EN : Fld := ⟨EN_CFG.off, 11, 1⟩
abbrev EN_CFG.VLAN : Fld := ⟨EN_CFG.off, 12, 12⟩
abbrev EN_CFG.ACK_TO_US : Fld := ⟨EN_CFG.off, 32, 16⟩
abbrev EN_CFG.RETRY : Fld := ⟨EN_CFG.off, 48, 3⟩
abbrev EN_CFG.RNR_RETRY : Fld := ⟨EN_CFG.off, 51, 3⟩

/-- EN_MAC (R464). -/
abbrev EN_MAC.off : Nat := 0xE0010
abbrev EN_MAC.MAC : Fld := ⟨EN_MAC.off, 0, 48⟩

/-- EN_IP0 (R464). -/
abbrev EN_IP0.off : Nat := 0xE0018
abbrev EN_IP0.IP : Fld := ⟨EN_IP0.off, 0, 64⟩

/-- EN_IP1 (R464). -/
abbrev EN_IP1.off : Nat := 0xE0020
abbrev EN_IP1.IP : Fld := ⟨EN_IP1.off, 0, 64⟩

/-- EN_CC (R464). -/
abbrev EN_CC.off : Nat := 0xE0028
abbrev EN_CC.MD : Fld := ⟨EN_CC.off, 0, 8⟩
abbrev EN_CC.AI_GBPS : Fld := ⟨EN_CC.off, 8, 8⟩
abbrev EN_CC.INC_US : Fld := ⟨EN_CC.off, 16, 16⟩
abbrev EN_CC.CNP_US : Fld := ⟨EN_CC.off, 32, 16⟩
abbrev EN_CC.MIN_GBPS : Fld := ⟨EN_CC.off, 48, 8⟩

/-- EN_STAT (R464). -/
abbrev EN_STAT.off : Nat := 0xE0030
abbrev EN_STAT.UP : Fld := ⟨EN_STAT.off, 0, 1⟩
abbrev EN_STAT.TX_PAUSED : Fld := ⟨EN_STAT.off, 1, 1⟩
abbrev EN_STAT.RX_PAUSING : Fld := ⟨EN_STAT.off, 2, 1⟩
abbrev EN_STAT.QP_ERR : Fld := ⟨EN_STAT.off, 3, 7⟩

/-- EN_CNT_TX (R464). -/
abbrev EN_CNT_TX.off : Nat := 0xE0040
abbrev EN_CNT_TX.BYTES : Fld := ⟨EN_CNT_TX.off, 0, 64⟩

/-- EN_CNT_RX (R464). -/
abbrev EN_CNT_RX.off : Nat := 0xE0048
abbrev EN_CNT_RX.BYTES : Fld := ⟨EN_CNT_RX.off, 0, 64⟩

/-- EN_CNT_RETX (R464). -/
abbrev EN_CNT_RETX.off : Nat := 0xE0050
abbrev EN_CNT_RETX.COUNT : Fld := ⟨EN_CNT_RETX.off, 0, 64⟩

/-- EN_CNT_CNP (R464). -/
abbrev EN_CNT_CNP.off : Nat := 0xE0058
abbrev EN_CNT_CNP.COUNT : Fld := ⟨EN_CNT_CNP.off, 0, 64⟩

/-- EN_CNT_DISCARD (R464). -/
abbrev EN_CNT_DISCARD.off : Nat := 0xE0060
abbrev EN_CNT_DISCARD.COUNT : Fld := ⟨EN_CNT_DISCARD.off, 0, 64⟩

/-- EN_CNT_CTL (R464). -/
abbrev EN_CNT_CTL.off : Nat := 0xE0068
abbrev EN_CNT_CTL.CLR : Fld := ⟨EN_CNT_CTL.off, 0, 1⟩

/-- EN_MR_A (R465). -/
abbrev EN_MR_A.off (i : Nat) : Nat := 0xE0800 + 0x20 * i
abbrev EN_MR_A.VALID (i : Nat) : Fld := ⟨EN_MR_A.off i, 0, 1⟩
abbrev EN_MR_A.RREAD (i : Nat) : Fld := ⟨EN_MR_A.off i, 1, 1⟩
abbrev EN_MR_A.RWRITE (i : Nat) : Fld := ⟨EN_MR_A.off i, 2, 1⟩
abbrev EN_MR_A.TAG (i : Nat) : Fld := ⟨EN_MR_A.off i, 8, 24⟩

/-- EN_MR_B (R465). -/
abbrev EN_MR_B.off (i : Nat) : Nat := 0xE0808 + 0x20 * i
abbrev EN_MR_B.BASE (i : Nat) : Fld := ⟨EN_MR_B.off i, 0, 40⟩

/-- EN_MR_C (R465). -/
abbrev EN_MR_C.off (i : Nat) : Nat := 0xE0810 + 0x20 * i
abbrev EN_MR_C.LEN (i : Nat) : Fld := ⟨EN_MR_C.off i, 0, 40⟩

/-- EN_QP_A (R466). -/
abbrev EN_QP_A.off (q : Nat) : Nat := 0xE1000 + 0x40 * q
abbrev EN_QP_A.STATE (q : Nat) : Fld := ⟨EN_QP_A.off q, 0, 3⟩
abbrev EN_QP_A.OWNER (q : Nat) : Fld := ⟨EN_QP_A.off q, 3, 3⟩
abbrev EN_QP_A.DQPN (q : Nat) : Fld := ⟨EN_QP_A.off q, 8, 24⟩
abbrev EN_QP_A.SPORT (q : Nat) : Fld := ⟨EN_QP_A.off q, 32, 16⟩

/-- EN_QP_B (R466). -/
abbrev EN_QP_B.off (q : Nat) : Nat := 0xE1008 + 0x40 * q
abbrev EN_QP_B.DMAC (q : Nat) : Fld := ⟨EN_QP_B.off q, 0, 48⟩

/-- EN_QP_C (R466). -/
abbrev EN_QP_C.off (q : Nat) : Nat := 0xE1010 + 0x40 * q
abbrev EN_QP_C.DIP (q : Nat) : Fld := ⟨EN_QP_C.off q, 0, 64⟩

/-- EN_QP_D (R466). -/
abbrev EN_QP_D.off (q : Nat) : Nat := 0xE1018 + 0x40 * q
abbrev EN_QP_D.DIP (q : Nat) : Fld := ⟨EN_QP_D.off q, 0, 64⟩

/-- EN_QP_E (R466). -/
abbrev EN_QP_E.off (q : Nat) : Nat := 0xE1020 + 0x40 * q
abbrev EN_QP_E.SPSN (q : Nat) : Fld := ⟨EN_QP_E.off q, 0, 24⟩
abbrev EN_QP_E.EPSN (q : Nat) : Fld := ⟨EN_QP_E.off q, 24, 24⟩

/-- EN_QP_F (R466). -/
abbrev EN_QP_F.off (q : Nat) : Nat := 0xE1028 + 0x40 * q
abbrev EN_QP_F.RQ_ADDR (q : Nat) : Fld := ⟨EN_QP_F.off q, 6, 34⟩
abbrev EN_QP_F.DEPTH (q : Nat) : Fld := ⟨EN_QP_F.off q, 40, 7⟩
abbrev EN_QP_F.TOK (q : Nat) : Fld := ⟨EN_QP_F.off q, 48, 8⟩
abbrev EN_QP_F.TOK_EN (q : Nat) : Fld := ⟨EN_QP_F.off q, 56, 1⟩

/-- EN_QP_G (R466). -/
abbrev EN_QP_G.off (q : Nat) : Nat := 0xE1030 + 0x40 * q
abbrev EN_QP_G.CONS (q : Nat) : Fld := ⟨EN_QP_G.off q, 0, 16⟩
abbrev EN_QP_G.PROD (q : Nat) : Fld := ⟨EN_QP_G.off q, 16, 16⟩

/-- UC_VER (R484). -/
abbrev UC_VER.off : Nat := 0xD0000
abbrev UC_VER.VER : Fld := ⟨UC_VER.off, 0, 8⟩
abbrev UC_VER.PEER_VER : Fld := ⟨UC_VER.off, 8, 8⟩
abbrev UC_VER.PEER_GEN : Fld := ⟨UC_VER.off, 16, 4⟩

/-- UC_STAT (R484). -/
abbrev UC_STAT.off : Nat := 0xD0008
abbrev UC_STAT.STATE : Fld := ⟨UC_STAT.off, 0, 3⟩
abbrev UC_STAT.WIDTH : Fld := ⟨UC_STAT.off, 3, 2⟩
abbrev UC_STAT.PART : Fld := ⟨UC_STAT.off, 5, 2⟩
abbrev UC_STAT.RATE : Fld := ⟨UC_STAT.off, 7, 1⟩
abbrev UC_STAT.FAILS : Fld := ⟨UC_STAT.off, 8, 2⟩

/-- UC_CTL (R484). -/
abbrev UC_CTL.off : Nat := 0xD0010
abbrev UC_CTL.RETRAIN : Fld := ⟨UC_CTL.off, 0, 1⟩

/-- UC_MAP_LOCAL (R484). -/
abbrev UC_MAP_LOCAL.off : Nat := 0xD0018
abbrev UC_MAP_LOCAL.GOOD : Fld := ⟨UC_MAP_LOCAL.off, 0, 64⟩

/-- UC_MAP_PEER (R484). -/
abbrev UC_MAP_PEER.off : Nat := 0xD0020
abbrev UC_MAP_PEER.GOOD : Fld := ⟨UC_MAP_PEER.off, 0, 64⟩

/-- UC_MAP_RED (R484). -/
abbrev UC_MAP_RED.off : Nat := 0xD0028
abbrev UC_MAP_RED.LOCAL : Fld := ⟨UC_MAP_RED.off, 0, 4⟩
abbrev UC_MAP_RED.PEER : Fld := ⟨UC_MAP_RED.off, 4, 4⟩

/-- UC_CNT_RETRY (R484). -/
abbrev UC_CNT_RETRY.off : Nat := 0xD0040
abbrev UC_CNT_RETRY.COUNT : Fld := ⟨UC_CNT_RETRY.off, 0, 64⟩

/-- UC_CNT_RETRAIN (R484). -/
abbrev UC_CNT_RETRAIN.off : Nat := 0xD0048
abbrev UC_CNT_RETRAIN.COUNT : Fld := ⟨UC_CNT_RETRAIN.off, 0, 64⟩

/-- UC_CNT_CTL (R484). -/
abbrev UC_CNT_CTL.off : Nat := 0xD0060
abbrev UC_CNT_CTL.CLR : Fld := ⟨UC_CNT_CTL.off, 0, 1⟩

/-- HR_THERM (R485). -/
abbrev HR_THERM.off : Nat := 0x500
abbrev HR_THERM.DUTY : Fld := ⟨HR_THERM.off, 0, 5⟩
abbrev HR_THERM.ENV_CAP : Fld := ⟨HR_THERM.off, 5, 5⟩
abbrev HR_THERM.HOLD : Fld := ⟨HR_THERM.off, 10, 1⟩
abbrev HR_THERM.SENS_FAULT : Fld := ⟨HR_THERM.off, 11, 1⟩
abbrev HR_THERM.T_BASE : Fld := ⟨HR_THERM.off, 16, 16⟩

/-- HR_TEMP (R485). -/
abbrev HR_TEMP.off (n : Nat) : Nat := 0x540 + 0x8 * n
abbrev HR_TEMP.T (n : Nat) : Fld := ⟨HR_TEMP.off n, 0, 16⟩
abbrev HR_TEMP.VALID (n : Nat) : Fld := ⟨HR_TEMP.off n, 16, 1⟩

/-- CH_CLK_STAT (R486). -/
abbrev CH_CLK_STAT.off : Nat := 0x10860
abbrev CH_CLK_STAT.ROOT_LOCK : Fld := ⟨CH_CLK_STAT.off, 0, 1⟩
abbrev CH_CLK_STAT.REF_LOST : Fld := ⟨CH_CLK_STAT.off, 1, 1⟩

/-- CH_CNT_THROTTLE (R486). -/
abbrev CH_CNT_THROTTLE.off : Nat := 0x10868
abbrev CH_CNT_THROTTLE.COUNT : Fld := ⟨CH_CNT_THROTTLE.off, 0, 64⟩

/-- HR_ENV (R506). -/
abbrev HR_ENV.off : Nat := 0x700
abbrev HR_ENV.VIN : Fld := ⟨HR_ENV.off, 0, 16⟩
abbrev HR_ENV.T_IN : Fld := ⟨HR_ENV.off, 16, 16⟩
abbrev HR_ENV.FLOW : Fld := ⟨HR_ENV.off, 32, 16⟩
abbrev HR_ENV.IIN : Fld := ⟨HR_ENV.off, 48, 16⟩

/-- HR_ENV_STAT (R506). -/
abbrev HR_ENV_STAT.off : Nat := 0x708
abbrev HR_ENV_STAT.VIN_BAND : Fld := ⟨HR_ENV_STAT.off, 0, 2⟩
abbrev HR_ENV_STAT.TIN_BAND : Fld := ⟨HR_ENV_STAT.off, 2, 2⟩
abbrev HR_ENV_STAT.FLOW_BAND : Fld := ⟨HR_ENV_STAT.off, 4, 2⟩

/-- SEC_VER (R538). -/
abbrev SEC_VER.off : Nat := 0x10000
abbrev SEC_VER.VER : Fld := ⟨SEC_VER.off, 0, 8⟩

/-- SEC_STAT (R538). -/
abbrev SEC_STAT.off : Nat := 0x10008
abbrev SEC_STAT.STATE : Fld := ⟨SEC_STAT.off, 0, 2⟩
abbrev SEC_STAT.BUSY : Fld := ⟨SEC_STAT.off, 2, 1⟩
abbrev SEC_STAT.IGNORED : Fld := ⟨SEC_STAT.off, 3, 1⟩
abbrev SEC_STAT.DEBUG : Fld := ⟨SEC_STAT.off, 4, 2⟩
abbrev SEC_STAT.NO_KEY : Fld := ⟨SEC_STAT.off, 6, 1⟩

/-- SEC_FUSE (R538). -/
abbrev SEC_FUSE.off : Nat := 0x10010
abbrev SEC_FUSE.SYL_SVN : Fld := ⟨SEC_FUSE.off, 0, 7⟩
abbrev SEC_FUSE.FW_SVN : Fld := ⟨SEC_FUSE.off, 8, 7⟩
abbrev SEC_FUSE.IDX_BLOCKS : Fld := ⟨SEC_FUSE.off, 16, 13⟩
abbrev SEC_FUSE.ENROLLED : Fld := ⟨SEC_FUSE.off, 32, 4⟩
abbrev SEC_FUSE.REVOKED : Fld := ⟨SEC_FUSE.off, 36, 4⟩

/-- SEC_SERIAL (R538). -/
abbrev SEC_SERIAL.off : Nat := 0x10018
abbrev SEC_SERIAL.SERIAL : Fld := ⟨SEC_SERIAL.off, 0, 64⟩

/-- SEC_CTL (R538). -/
abbrev SEC_CTL.off : Nat := 0x10020
abbrev SEC_CTL.OP : Fld := ⟨SEC_CTL.off, 0, 4⟩
abbrev SEC_CTL.CONFIRM : Fld := ⟨SEC_CTL.off, 8, 8⟩

/-- SEC_RESULT (R538). -/
abbrev SEC_RESULT.off : Nat := 0x10028
abbrev SEC_RESULT.CODE : Fld := ⟨SEC_RESULT.off, 0, 8⟩
abbrev SEC_RESULT.OP : Fld := ⟨SEC_RESULT.off, 8, 4⟩
abbrev SEC_RESULT.LEN : Fld := ⟨SEC_RESULT.off, 16, 14⟩

/-- SEC_IDX (R538). -/
abbrev SEC_IDX.off : Nat := 0x10030
abbrev SEC_IDX.NEXT : Fld := ⟨SEC_IDX.off, 0, 40⟩

/-- SEC_NONCE (R538). -/
abbrev SEC_NONCE.off (i : Nat) : Nat := 0x10040 + 0x8 * i
abbrev SEC_NONCE.NONCE (i : Nat) : Fld := ⟨SEC_NONCE.off i, 0, 64⟩

/-- SYL_VER (R539). -/
abbrev SYL_VER.off : Nat := 0x20000
abbrev SYL_VER.VER : Fld := ⟨SYL_VER.off, 0, 8⟩

/-- SYL_STAT (R539). -/
abbrev SYL_STAT.off : Nat := 0x20008
abbrev SYL_STAT.BOOT_COPY : Fld := ⟨SYL_STAT.off, 0, 1⟩
abbrev SYL_STAT.WP : Fld := ⟨SYL_STAT.off, 1, 1⟩
abbrev SYL_STAT.BUSY : Fld := ⟨SYL_STAT.off, 2, 1⟩
abbrev SYL_STAT.IGNORED : Fld := ⟨SYL_STAT.off, 3, 1⟩
abbrev SYL_STAT.A_CODE : Fld := ⟨SYL_STAT.off, 8, 8⟩
abbrev SYL_STAT.B_CODE : Fld := ⟨SYL_STAT.off, 16, 8⟩
abbrev SYL_STAT.LAST_CODE : Fld := ⟨SYL_STAT.off, 24, 8⟩

/-- SYL_CMD (R539). -/
abbrev SYL_CMD.off : Nat := 0x20010
abbrev SYL_CMD.OP : Fld := ⟨SYL_CMD.off, 0, 3⟩
abbrev SYL_CMD.COPY : Fld := ⟨SYL_CMD.off, 3, 1⟩
abbrev SYL_CMD.ADDR : Fld := ⟨SYL_CMD.off, 4, 26⟩
abbrev SYL_CMD.LEN : Fld := ⟨SYL_CMD.off, 32, 13⟩

/-- SYL_HDR (R539). -/
abbrev SYL_HDR.off : Nat := 0x20018
abbrev SYL_HDR.SVN : Fld := ⟨SYL_HDR.off, 0, 7⟩
abbrev SYL_HDR.ADVANCE : Fld := ⟨SYL_HDR.off, 7, 1⟩
abbrev SYL_HDR.KEY_SLOT : Fld := ⟨SYL_HDR.off, 8, 3⟩
abbrev SYL_HDR.IMAGE_VER : Fld := ⟨SYL_HDR.off, 32, 32⟩

/-- HR_LOG_STAT (R553). -/
abbrev HR_LOG_STAT.off : Nat := 0x800
abbrev HR_LOG_STAT.WCNT : Fld := ⟨HR_LOG_STAT.off, 0, 32⟩
abbrev HR_LOG_STAT.RCNT : Fld := ⟨HR_LOG_STAT.off, 32, 32⟩

/-- HR_LOG_CFG (R553). -/
abbrev HR_LOG_CFG.off : Nat := 0x808
abbrev HR_LOG_CFG.THRESH : Fld := ⟨HR_LOG_CFG.off, 0, 13⟩

/-- HR_LOG_IDX (R553). -/
abbrev HR_LOG_IDX.off : Nat := 0x810
abbrev HR_LOG_IDX.INDEX : Fld := ⟨HR_LOG_IDX.off, 0, 32⟩
abbrev HR_LOG_IDX.VALID : Fld := ⟨HR_LOG_IDX.off, 32, 1⟩

/-- HR_LOG_D (R553). -/
abbrev HR_LOG_D.off (i : Nat) : Nat := 0x840 + 0x8 * i
abbrev HR_LOG_D.RECORD (i : Nat) : Fld := ⟨HR_LOG_D.off i, 0, 64⟩

/-- MG_VER (R555). -/
abbrev MG_VER.off : Nat := 0x30000
abbrev MG_VER.VER : Fld := ⟨MG_VER.off, 0, 8⟩
abbrev MG_VER.IANA : Fld := ⟨MG_VER.off, 32, 32⟩

/-- MG_STAT (R555). -/
abbrev MG_STAT.off : Nat := 0x30008
abbrev MG_STAT.CH_POWER : Fld := ⟨MG_STAT.off, 0, 4⟩
abbrev MG_STAT.BAUD : Fld := ⟨MG_STAT.off, 4, 3⟩
abbrev MG_STAT.PON_CNT : Fld := ⟨MG_STAT.off, 16, 32⟩

/-- MG_PWR_CTL (R555). -/
abbrev MG_PWR_CTL.off : Nat := 0x30010
abbrev MG_PWR_CTL.CH : Fld := ⟨MG_PWR_CTL.off, 0, 2⟩
abbrev MG_PWR_CTL.ON : Fld := ⟨MG_PWR_CTL.off, 2, 1⟩

/-- MG_ALERT (R555). -/
abbrev MG_ALERT.off : Nat := 0x30018
abbrev MG_ALERT.PEND : Fld := ⟨MG_ALERT.off, 0, 1⟩

/-- MG_LOG_STAT (R555). -/
abbrev MG_LOG_STAT.off : Nat := 0x30020
abbrev MG_LOG_STAT.WCNT : Fld := ⟨MG_LOG_STAT.off, 0, 32⟩
abbrev MG_LOG_STAT.RCNT : Fld := ⟨MG_LOG_STAT.off, 32, 32⟩

/-- MG_LOG_IDX (R555). -/
abbrev MG_LOG_IDX.off : Nat := 0x30028
abbrev MG_LOG_IDX.INDEX : Fld := ⟨MG_LOG_IDX.off, 0, 32⟩
abbrev MG_LOG_IDX.NV : Fld := ⟨MG_LOG_IDX.off, 32, 1⟩
abbrev MG_LOG_IDX.VALID : Fld := ⟨MG_LOG_IDX.off, 33, 1⟩

/-- MG_LOG_D (R555). -/
abbrev MG_LOG_D.off (i : Nat) : Nat := 0x30040 + 0x8 * i
abbrev MG_LOG_D.RECORD (i : Nat) : Fld := ⟨MG_LOG_D.off i, 0, 64⟩

/-- MG_CNT_UART (R555). -/
abbrev MG_CNT_UART.off : Nat := 0x30060
abbrev MG_CNT_UART.COUNT : Fld := ⟨MG_CNT_UART.off, 0, 64⟩

/-- MG_CNT_SMB (R555). -/
abbrev MG_CNT_SMB.off : Nat := 0x30068
abbrev MG_CNT_SMB.COUNT : Fld := ⟨MG_CNT_SMB.off, 0, 64⟩

/-- MG_CNT_CTL (R555). -/
abbrev MG_CNT_CTL.off : Nat := 0x30070
abbrev MG_CNT_CTL.CLR : Fld := ⟨MG_CNT_CTL.off, 0, 1⟩

/-- CH_ID (R562). -/
abbrev CH_ID.off : Nat := 0x10000
abbrev CH_ID.PART : Fld := ⟨CH_ID.off, 0, 16⟩
abbrev CH_ID.STEPPING : Fld := ⟨CH_ID.off, 16, 8⟩
abbrev CH_ID.CHANNEL : Fld := ⟨CH_ID.off, 24, 2⟩

/-- HBM_VER (R563). -/
abbrev HBM_VER.off : Nat := 0xB0000
abbrev HBM_VER.VER : Fld := ⟨HBM_VER.off, 0, 8⟩
abbrev HBM_VER.STACKS : Fld := ⟨HBM_VER.off, 8, 4⟩
abbrev HBM_VER.PCHANNELS : Fld := ⟨HBM_VER.off, 12, 7⟩

/-- SP_VER (R563). -/
abbrev SP_VER.off : Nat := 0xC0000
abbrev SP_VER.VER : Fld := ⟨SP_VER.off, 0, 8⟩
abbrev SP_VER.BANKS : Fld := ⟨SP_VER.off, 8, 9⟩

/-- HR_VER (R563). -/
abbrev HR_VER.off : Nat := 0x18
abbrev HR_VER.VER : Fld := ⟨HR_VER.off, 0, 8⟩
abbrev HR_VER.WAKE_ENTRIES : Fld := ⟨HR_VER.off, 8, 6⟩
abbrev HR_VER.LOG_RECORDS : Fld := ⟨HR_VER.off, 14, 13⟩

/-- TE_VER (R563). -/
abbrev TE_VER.off (k : Nat) : Nat := 0x130100 + 0x1000 * k
abbrev TE_VER.VER (k : Nat) : Fld := ⟨TE_VER.off k, 0, 8⟩
abbrev TE_VER.ISSUE_WINDOW (k : Nat) : Fld := ⟨TE_VER.off k, 8, 4⟩

/-- RPT_VER (R563). -/
abbrev RPT_VER.off : Nat := 0x180010
abbrev RPT_VER.VER : Fld := ⟨RPT_VER.off, 0, 8⟩
abbrev RPT_VER.TAGS : Fld := ⟨RPT_VER.off, 8, 13⟩

/-- SP_ECC_CORR (R41). -/
abbrev SP_ECC_CORR.off : Nat := 0xC0100
abbrev SP_ECC_CORR.COUNT : Fld := ⟨SP_ECC_CORR.off, 0, 32⟩

/-- SP_ECC_LAST (R42). -/
abbrev SP_ECC_LAST.off : Nat := 0xC0108
abbrev SP_ECC_LAST.ADDR : Fld := ⟨SP_ECC_LAST.off, 5, 35⟩
abbrev SP_ECC_LAST.SYMBOL : Fld := ⟨SP_ECC_LAST.off, 40, 6⟩
abbrev SP_ECC_LAST.SRC : Fld := ⟨SP_ECC_LAST.off, 48, 1⟩

/-- SP_ERASE_STAT (R43). -/
abbrev SP_ERASE_STAT.off : Nat := 0xC0110
abbrev SP_ERASE_STAT.POS : Fld := ⟨SP_ERASE_STAT.off, 5, 35⟩
abbrev SP_ERASE_STAT.PASSES : Fld := ⟨SP_ERASE_STAT.off, 48, 16⟩

/-- SP_ECC_CTL (R44). -/
abbrev SP_ECC_CTL.off : Nat := 0xC0118
abbrev SP_ECC_CTL.CLR_CORR : Fld := ⟨SP_ECC_CTL.off, 0, 1⟩

/-- SP_IRQ (R46). -/
abbrev SP_IRQ.off : Nat := 0xC0120
abbrev SP_IRQ.CORR : Fld := ⟨SP_IRQ.off, 0, 1⟩
abbrev SP_IRQ.UNCORR : Fld := ⟨SP_IRQ.off, 1, 1⟩
abbrev SP_IRQ.PASS : Fld := ⟨SP_IRQ.off, 2, 1⟩
abbrev SP_IRQ.RATE : Fld := ⟨SP_IRQ.off, 3, 1⟩

/-- ME_WBUF1 (R116). -/
abbrev ME_WBUF1.off (k : Nat) : Nat := 0x100118 + 0x1000 * k
abbrev ME_WBUF1.FMT (k : Nat) : Fld := ⟨ME_WBUF1.off k, 0, 8⟩
abbrev ME_WBUF1.SHAPE (k : Nat) : Fld := ⟨ME_WBUF1.off k, 8, 3⟩
abbrev ME_WBUF1.TRANS (k : Nat) : Fld := ⟨ME_WBUF1.off k, 11, 1⟩
abbrev ME_WBUF1.LO_VALID (k : Nat) : Fld := ⟨ME_WBUF1.off k, 12, 1⟩
abbrev ME_WBUF1.HI_VALID (k : Nat) : Fld := ⟨ME_WBUF1.off k, 13, 1⟩

/-- The register table of the HBM_ block. -/
def descsHBM : List RegDesc := [
  ⟨"HBM_ECC_CORR", 0xB0100, 1, 0x0, 1, 0x0, [⟨0, 32, .ro, 0x0, []⟩]⟩,
  ⟨"HBM_ECC_LAST", 0xB0108, 1, 0x0, 1, 0x0, [⟨5, 35, .ro, 0x0, []⟩, ⟨40, 6, .ro, 0x0, []⟩, ⟨48, 1, .ro, 0x0, []⟩]⟩,
  ⟨"HBM_ERASE_STAT", 0xB0110, 1, 0x0, 1, 0x0, [⟨5, 35, .ro, 0x0, []⟩, ⟨48, 16, .ro, 0x0, []⟩]⟩,
  ⟨"HBM_ECC_CTL", 0xB0118, 1, 0x0, 1, 0x0, [⟨0, 1, .wo, 0x0, []⟩]⟩,
  ⟨"HBM_IRQ", 0xB0120, 1, 0x0, 1, 0x0, [⟨0, 1, .w1c, 0x0, []⟩, ⟨1, 1, .w1c, 0x0, []⟩, ⟨2, 1, .w1c, 0x0, []⟩, ⟨3, 1, .w1c, 0x0, []⟩]⟩,
  ⟨"HBM_VER", 0xB0000, 1, 0x0, 1, 0x0, [⟨0, 8, .ro, 0x3, []⟩, ⟨8, 4, .ro, 0x2, []⟩, ⟨12, 7, .ro, 0x40, []⟩]⟩]

/-- The register table of the ME_ block. -/
def descsME : List RegDesc := [
  ⟨"Q_BASE", 0x100000, 16, 0x1000, 1, 0x0, [⟨6, 34, .rw, 0x0, []⟩]⟩,
  ⟨"Q_DEPTH", 0x100008, 16, 0x1000, 1, 0x0, [⟨0, 13, .rw, 0x0, []⟩]⟩,
  ⟨"Q_STAT", 0x100010, 16, 0x1000, 1, 0x0, [⟨0, 2, .ro, 0x0, []⟩, ⟨2, 1, .ro, 0x0, []⟩, ⟨3, 1, .ro, 0x0, []⟩, ⟨8, 12, .ro, 0x0, []⟩, ⟨24, 12, .ro, 0x0, []⟩, ⟨40, 13, .ro, 0x0, []⟩]⟩,
  ⟨"Q_ERR", 0x100018, 16, 0x1000, 1, 0x0, [⟨0, 8, .ro, 0x0, []⟩, ⟨8, 8, .ro, 0x0, []⟩, ⟨16, 12, .ro, 0x0, []⟩, ⟨28, 1, .ro, 0x0, []⟩, ⟨32, 32, .ro, 0x0, []⟩]⟩,
  ⟨"Q_CTL", 0x100020, 16, 0x1000, 1, 0x0, [⟨0, 1, .wo, 0x0, []⟩, ⟨1, 1, .wo, 0x0, []⟩, ⟨2, 1, .wo, 0x0, []⟩, ⟨3, 1, .wo, 0x0, []⟩, ⟨4, 1, .wo, 0x0, []⟩]⟩,
  ⟨"Q_WAIT_LIMIT", 0x100028, 16, 0x1000, 1, 0x0, [⟨0, 32, .rw, 0x0, []⟩]⟩,
  ⟨"Q_LB", 0x100040, 16, 0x1000, 8, 0x8, [⟨0, 64, .ro, 0x0, []⟩]⟩,
  ⟨"ME_VER", 0x100100, 16, 0x1000, 1, 0x0, [⟨0, 8, .ro, 0x3, []⟩, ⟨8, 12, .ro, 0x800, []⟩, ⟨20, 8, .ro, 0x10, []⟩, ⟨28, 4, .ro, 0x4, []⟩]⟩,
  ⟨"ME_STAT", 0x100108, 16, 0x1000, 1, 0x0, [⟨0, 2, .ro, 0x0, []⟩, ⟨4, 12, .ro, 0x0, []⟩, ⟨16, 1, .ro, 0x0, []⟩, ⟨17, 1, .ro, 0x0, []⟩, ⟨24, 3, .ro, 0x0, []⟩]⟩,
  ⟨"ME_WBUF0", 0x100110, 16, 0x1000, 1, 0x0, [⟨0, 8, .ro, 0x0, []⟩, ⟨8, 3, .ro, 0x0, []⟩, ⟨11, 1, .ro, 0x0, []⟩, ⟨12, 1, .ro, 0x1, []⟩, ⟨13, 1, .ro, 0x1, []⟩]⟩,
  ⟨"ME_CNT_ROWS", 0x100140, 16, 0x1000, 1, 0x0, [⟨0, 64, .ro, 0x0, []⟩]⟩,
  ⟨"ME_CNT_FEEDWAIT", 0x100148, 16, 0x1000, 1, 0x0, [⟨0, 64, .ro, 0x0, []⟩]⟩,
  ⟨"ME_CNT_LOADWAIT", 0x100150, 16, 0x1000, 1, 0x0, [⟨0, 64, .ro, 0x0, []⟩]⟩,
  ⟨"ME_CNT_RAMPS", 0x100158, 16, 0x1000, 1, 0x0, [⟨0, 64, .ro, 0x0, []⟩]⟩,
  ⟨"ME_CNT_CTL", 0x100160, 16, 0x1000, 1, 0x0, [⟨0, 1, .wo, 0x0, []⟩]⟩,
  ⟨"ME_WBUF1", 0x100118, 16, 0x1000, 1, 0x0, [⟨0, 8, .ro, 0x0, []⟩, ⟨8, 3, .ro, 0x0, []⟩, ⟨11, 1, .ro, 0x0, []⟩, ⟨12, 1, .ro, 0x1, []⟩, ⟨13, 1, .ro, 0x1, []⟩]⟩]

/-- The register table of the VE_ block. -/
def descsVE : List RegDesc := [
  ⟨"Q_BASE", 0x110000, 4, 0x1000, 1, 0x0, [⟨6, 34, .rw, 0x0, []⟩]⟩,
  ⟨"Q_DEPTH", 0x110008, 4, 0x1000, 1, 0x0, [⟨0, 13, .rw, 0x0, []⟩]⟩,
  ⟨"Q_STAT", 0x110010, 4, 0x1000, 1, 0x0, [⟨0, 2, .ro, 0x0, []⟩, ⟨2, 1, .ro, 0x0, []⟩, ⟨3, 1, .ro, 0x0, []⟩, ⟨8, 12, .ro, 0x0, []⟩, ⟨24, 12, .ro, 0x0, []⟩, ⟨40, 13, .ro, 0x0, []⟩]⟩,
  ⟨"Q_ERR", 0x110018, 4, 0x1000, 1, 0x0, [⟨0, 8, .ro, 0x0, []⟩, ⟨8, 8, .ro, 0x0, []⟩, ⟨16, 12, .ro, 0x0, []⟩, ⟨28, 1, .ro, 0x0, []⟩, ⟨32, 32, .ro, 0x0, []⟩]⟩,
  ⟨"Q_CTL", 0x110020, 4, 0x1000, 1, 0x0, [⟨0, 1, .wo, 0x0, []⟩, ⟨1, 1, .wo, 0x0, []⟩, ⟨2, 1, .wo, 0x0, []⟩, ⟨3, 1, .wo, 0x0, []⟩, ⟨4, 1, .wo, 0x0, []⟩]⟩,
  ⟨"Q_WAIT_LIMIT", 0x110028, 4, 0x1000, 1, 0x0, [⟨0, 32, .rw, 0x0, []⟩]⟩,
  ⟨"Q_LB", 0x110040, 4, 0x1000, 8, 0x8, [⟨0, 64, .ro, 0x0, []⟩]⟩,
  ⟨"VE_VER", 0x110100, 4, 0x1000, 1, 0x0, [⟨0, 8, .ro, 0x3, []⟩, ⟨8, 9, .ro, 0x100, []⟩, ⟨17, 4, .ro, 0x2, []⟩, ⟨21, 5, .ro, 0x10, []⟩]⟩,
  ⟨"VE_CTL", 0x110108, 4, 0x1000, 1, 0x0, [⟨0, 1, .rw, 0x0, []⟩]⟩,
  ⟨"VE_VL", 0x110110, 4, 0x1000, 1, 0x0, [⟨0, 16, .ro, 0x100, []⟩]⟩,
  ⟨"VE_CNT_ELEMS", 0x110140, 4, 0x1000, 1, 0x0, [⟨0, 64, .ro, 0x0, []⟩]⟩,
  ⟨"VE_CNT_FSWAIT", 0x110148, 4, 0x1000, 1, 0x0, [⟨0, 64, .ro, 0x0, []⟩]⟩,
  ⟨"VE_CNT_CTL", 0x110160, 4, 0x1000, 1, 0x0, [⟨0, 1, .wo, 0x0, []⟩]⟩,
  ⟨"VE_SUM", 0x110200, 4, 0x1000, 16, 0x8, [⟨0, 32, .ro, 0x0, []⟩, ⟨32, 3, .ro, 0x0, []⟩, ⟨35, 1, .ro, 0x0, []⟩, ⟨48, 16, .ro, 0x0, []⟩]⟩]

/-- The register table of the UU_ block. -/
def descsUU : List RegDesc := [
  ⟨"Q_BASE", 0x50000, 1, 0x0, 1, 0x0, [⟨6, 34, .rw, 0x0, []⟩]⟩,
  ⟨"Q_DEPTH", 0x50008, 1, 0x0, 1, 0x0, [⟨0, 13, .rw, 0x0, []⟩]⟩,
  ⟨"Q_STAT", 0x50010, 1, 0x0, 1, 0x0, [⟨0, 2, .ro, 0x0, []⟩, ⟨2, 1, .ro, 0x0, []⟩, ⟨3, 1, .ro, 0x0, []⟩, ⟨8, 12, .ro, 0x0, []⟩, ⟨24, 12, .ro, 0x0, []⟩, ⟨40, 13, .ro, 0x0, []⟩]⟩,
  ⟨"Q_ERR", 0x50018, 1, 0x0, 1, 0x0, [⟨0, 8, .ro, 0x0, []⟩, ⟨8, 8, .ro, 0x0, []⟩, ⟨16, 12, .ro, 0x0, []⟩, ⟨28, 1, .ro, 0x0, []⟩, ⟨32, 32, .ro, 0x0, []⟩]⟩,
  ⟨"Q_CTL", 0x50020, 1, 0x0, 1, 0x0, [⟨0, 1, .wo, 0x0, []⟩, ⟨1, 1, .wo, 0x0, []⟩, ⟨2, 1, .wo, 0x0, []⟩, ⟨3, 1, .wo, 0x0, []⟩, ⟨4, 1, .wo, 0x0, []⟩]⟩,
  ⟨"Q_WAIT_LIMIT", 0x50028, 1, 0x0, 1, 0x0, [⟨0, 32, .rw, 0x0, []⟩]⟩,
  ⟨"Q_LB", 0x50040, 8, 0x8, 1, 0x0, [⟨0, 64, .ro, 0x0, []⟩]⟩,
  ⟨"UU_VER", 0x50100, 1, 0x0, 1, 0x0, [⟨0, 8, .ro, 0x3, []⟩, ⟨8, 8, .ro, 0x80, []⟩, ⟨16, 16, .ro, 0x4000, []⟩, ⟨32, 5, .ro, 0x10, []⟩]⟩,
  ⟨"UU_CFG", 0x50108, 1, 0x0, 1, 0x0, [⟨0, 1, .rw, 0x0, []⟩]⟩,
  ⟨"UU_TERM", 0x50110, 1, 0x0, 1, 0x0, [⟨0, 16, .rw, 0x0, []⟩]⟩,
  ⟨"UU_DPBASE", 0x50118, 1, 0x0, 1, 0x0, [⟨0, 64, .rw, 0x0, []⟩]⟩,
  ⟨"UU_DSEED", 0x50120, 1, 0x0, 1, 0x0, [⟨0, 64, .rw, 0x0, []⟩]⟩,
  ⟨"UU_STAT", 0x50128, 1, 0x0, 1, 0x0, [⟨0, 1, .w1c, 0x0, []⟩, ⟨1, 1, .w1c, 0x0, []⟩, ⟨2, 1, .w1c, 0x0, []⟩, ⟨3, 1, .ro, 0x0, []⟩, ⟨4, 5, .ro, 0x0, []⟩, ⟨32, 32, .ro, 0x0, []⟩]⟩,
  ⟨"UU_CNT_ELEMS", 0x50140, 1, 0x0, 1, 0x0, [⟨0, 64, .ro, 0x0, []⟩]⟩,
  ⟨"UU_CNT_BLOCKS", 0x50148, 1, 0x0, 1, 0x0, [⟨0, 64, .ro, 0x0, []⟩]⟩,
  ⟨"UU_CNT_SKIPBLK", 0x50150, 1, 0x0, 1, 0x0, [⟨0, 64, .ro, 0x0, []⟩]⟩,
  ⟨"UU_CNT_STALE", 0x50158, 1, 0x0, 1, 0x0, [⟨0, 64, .ro, 0x0, []⟩]⟩,
  ⟨"UU_CNT_NONFIN", 0x50160, 1, 0x0, 1, 0x0, [⟨0, 64, .ro, 0x0, []⟩]⟩,
  ⟨"UU_CNT_CTL", 0x50168, 1, 0x0, 1, 0x0, [⟨0, 1, .wo, 0x0, []⟩]⟩]

/-- The register table of the TE_ block. -/
def descsTE : List RegDesc := [
  ⟨"Q_BASE", 0x130000, 8, 0x1000, 1, 0x0, [⟨6, 34, .rw, 0x0, []⟩]⟩,
  ⟨"Q_DEPTH", 0x130008, 8, 0x1000, 1, 0x0, [⟨0, 13, .rw, 0x0, []⟩]⟩,
  ⟨"Q_STAT", 0x130010, 8, 0x1000, 1, 0x0, [⟨0, 2, .ro, 0x0, []⟩, ⟨2, 1, .ro, 0x0, []⟩, ⟨3, 1, .ro, 0x0, []⟩, ⟨8, 12, .ro, 0x0, []⟩, ⟨24, 12, .ro, 0x0, []⟩, ⟨40, 13, .ro, 0x0, []⟩]⟩,
  ⟨"Q_ERR", 0x130018, 8, 0x1000, 1, 0x0, [⟨0, 8, .ro, 0x0, []⟩, ⟨8, 8, .ro, 0x0, []⟩, ⟨16, 12, .ro, 0x0, []⟩, ⟨28, 1, .ro, 0x0, []⟩, ⟨32, 32, .ro, 0x0, []⟩]⟩,
  ⟨"Q_CTL", 0x130020, 8, 0x1000, 1, 0x0, [⟨0, 1, .wo, 0x0, []⟩, ⟨1, 1, .wo, 0x0, []⟩, ⟨2, 1, .wo, 0x0, []⟩, ⟨3, 1, .wo, 0x0, []⟩, ⟨4, 1, .wo, 0x0, []⟩]⟩,
  ⟨"Q_WAIT_LIMIT", 0x130028, 8, 0x1000, 1, 0x0, [⟨0, 32, .rw, 0x0, []⟩]⟩,
  ⟨"Q_LB", 0x130040, 8, 0x1000, 8, 0x8, [⟨0, 64, .ro, 0x0, []⟩]⟩,
  ⟨"TE_VER", 0x130100, 8, 0x1000, 1, 0x0, [⟨0, 8, .ro, 0x3, []⟩, ⟨8, 4, .ro, 0x8, []⟩]⟩]

/-- The register table of the CE_ block. -/
def descsCE : List RegDesc := [
  ⟨"Q_BASE", 0x70000, 1, 0x0, 1, 0x0, [⟨6, 34, .rw, 0x0, []⟩]⟩,
  ⟨"Q_DEPTH", 0x70008, 1, 0x0, 1, 0x0, [⟨0, 13, .rw, 0x0, []⟩]⟩,
  ⟨"Q_STAT", 0x70010, 1, 0x0, 1, 0x0, [⟨0, 2, .ro, 0x0, []⟩, ⟨2, 1, .ro, 0x0, []⟩, ⟨3, 1, .ro, 0x0, []⟩, ⟨8, 12, .ro, 0x0, []⟩, ⟨24, 12, .ro, 0x0, []⟩, ⟨40, 13, .ro, 0x0, []⟩]⟩,
  ⟨"Q_ERR", 0x70018, 1, 0x0, 1, 0x0, [⟨0, 8, .ro, 0x0, []⟩, ⟨8, 8, .ro, 0x0, []⟩, ⟨16, 12, .ro, 0x0, []⟩, ⟨28, 1, .ro, 0x0, []⟩, ⟨32, 32, .ro, 0x0, []⟩]⟩,
  ⟨"Q_CTL", 0x70020, 1, 0x0, 1, 0x0, [⟨0, 1, .wo, 0x0, []⟩, ⟨1, 1, .wo, 0x0, []⟩, ⟨2, 1, .wo, 0x0, []⟩, ⟨3, 1, .wo, 0x0, []⟩, ⟨4, 1, .wo, 0x0, []⟩]⟩,
  ⟨"Q_WAIT_LIMIT", 0x70028, 1, 0x0, 1, 0x0, [⟨0, 32, .rw, 0x0, []⟩]⟩,
  ⟨"Q_LB", 0x70040, 8, 0x8, 1, 0x0, [⟨0, 64, .ro, 0x0, []⟩]⟩,
  ⟨"CE_VER", 0x70100, 1, 0x0, 1, 0x0, [⟨0, 8, .ro, 0x3, []⟩, ⟨8, 4, .ro, 0x8, []⟩, ⟨12, 9, .ro, 0x100, []⟩, ⟨21, 5, .ro, 0x10, []⟩]⟩,
  ⟨"CE_CNT_CTL", 0x70108, 1, 0x0, 1, 0x0, [⟨0, 1, .wo, 0x0, []⟩]⟩,
  ⟨"CE_GRP_CFG", 0x70400, 8, 0x80, 1, 0x0, [⟨0, 1, .rw, 0x0, []⟩, ⟨1, 2, .rw, 0x0, [(3, 3)]⟩, ⟨3, 2, .rw, 0x0, []⟩, ⟨5, 1, .rw, 0x0, []⟩, ⟨8, 8, .rw, 0x0, []⟩, ⟨16, 8, .rw, 0x0, []⟩, ⟨24, 16, .rw, 0x0, []⟩]⟩,
  ⟨"CE_GRP_NEXT", 0x70408, 8, 0x80, 1, 0x0, [⟨0, 18, .rw, 0x0, []⟩]⟩,
  ⟨"CE_GRP_TERM", 0x70410, 8, 0x80, 1, 0x0, [⟨0, 16, .rw, 0x0, []⟩]⟩,
  ⟨"CE_GRP_DEADLINE", 0x70418, 8, 0x80, 1, 0x0, [⟨0, 32, .rw, 0x0, []⟩]⟩,
  ⟨"CE_GRP_STAGE", 0x70420, 8, 0x80, 1, 0x0, [⟨6, 34, .rw, 0x0, []⟩]⟩,
  ⟨"CE_GRP_STAGE_SIZE", 0x70428, 8, 0x80, 1, 0x0, [⟨0, 32, .rw, 0x0, []⟩]⟩,
  ⟨"CE_GRP_CARRY", 0x70430, 8, 0x80, 1, 0x0, [⟨6, 34, .rw, 0x0, []⟩]⟩,
  ⟨"CE_GRP_CARRY_STRIDE", 0x70438, 8, 0x80, 1, 0x0, [⟨0, 32, .rw, 0x0, []⟩]⟩,
  ⟨"CE_GRP_REC", 0x70440, 8, 0x80, 1, 0x0, [⟨6, 34, .rw, 0x0, []⟩]⟩,
  ⟨"CE_GRP_NORM", 0x70448, 8, 0x80, 1, 0x0, [⟨3, 37, .rw, 0x0, []⟩]⟩,
  ⟨"CE_GRP_CTL", 0x70450, 8, 0x80, 1, 0x0, [⟨0, 1, .wo, 0x0, []⟩]⟩,
  ⟨"CE_GRP_STAT", 0x70458, 8, 0x80, 1, 0x0, [⟨0, 1, .w1c, 0x0, []⟩, ⟨1, 1, .w1c, 0x0, []⟩, ⟨2, 1, .w1c, 0x0, []⟩, ⟨3, 1, .ro, 0x0, []⟩, ⟨8, 16, .ro, 0x0, []⟩]⟩,
  ⟨"CE_GRP_CNT_BKT", 0x70460, 8, 0x80, 1, 0x0, [⟨0, 64, .ro, 0x0, []⟩]⟩,
  ⟨"CE_GRP_CNT_TARDY", 0x70468, 8, 0x80, 1, 0x0, [⟨0, 64, .ro, 0x0, []⟩]⟩,
  ⟨"CE_GRP_CNT_WIDE", 0x70470, 8, 0x80, 1, 0x0, [⟨0, 64, .ro, 0x0, []⟩]⟩,
  ⟨"CE_GRP_CNT_STALE", 0x70478, 8, 0x80, 1, 0x0, [⟨0, 64, .ro, 0x0, []⟩]⟩]

/-- The register table of the HP_CHc_ block. -/
def descsHPC : List RegDesc := [
  ⟨"Q_BASE", 0x10000000, 1, 0x0, 1, 0x0, [⟨6, 34, .rw, 0x0, []⟩]⟩,
  ⟨"Q_DEPTH", 0x10000008, 1, 0x0, 1, 0x0, [⟨0, 13, .rw, 0x0, []⟩]⟩,
  ⟨"Q_STAT", 0x10000010, 1, 0x0, 1, 0x0, [⟨0, 2, .ro, 0x0, []⟩, ⟨2, 1, .ro, 0x0, []⟩, ⟨3, 1, .ro, 0x0, []⟩, ⟨8, 12, .ro, 0x0, []⟩, ⟨24, 12, .ro, 0x0, []⟩, ⟨40, 13, .ro, 0x0, []⟩]⟩,
  ⟨"Q_ERR", 0x10000018, 1, 0x0, 1, 0x0, [⟨0, 8, .ro, 0x0, []⟩, ⟨8, 8, .ro, 0x0, []⟩, ⟨16, 12, .ro, 0x0, []⟩, ⟨28, 1, .ro, 0x0, []⟩, ⟨32, 32, .ro, 0x0, []⟩]⟩,
  ⟨"Q_CTL", 0x10000020, 1, 0x0, 1, 0x0, [⟨0, 1, .wo, 0x0, []⟩, ⟨1, 1, .wo, 0x0, []⟩, ⟨2, 1, .wo, 0x0, []⟩, ⟨3, 1, .wo, 0x0, []⟩, ⟨4, 1, .wo, 0x0, []⟩]⟩,
  ⟨"Q_WAIT_LIMIT", 0x10000028, 1, 0x0, 1, 0x0, [⟨0, 32, .rw, 0x0, []⟩]⟩,
  ⟨"Q_LB", 0x10000040, 8, 0x8, 1, 0x0, [⟨0, 64, .ro, 0x0, []⟩]⟩,
  ⟨"HPC_HQ_CNT", 0x10000100, 1, 0x0, 1, 0x0, [⟨0, 16, .ro, 0x0, []⟩, ⟨16, 16, .ro, 0x0, []⟩]⟩,
  ⟨"HPC_WIN", 0x10000108, 1, 0x0, 1, 0x0, [⟨29, 11, .rw, 0x0, []⟩]⟩,
  ⟨"HPC_STAT", 0x10000110, 1, 0x0, 1, 0x0, [⟨0, 1, .ro, 0x0, []⟩, ⟨1, 1, .ro, 0x0, []⟩, ⟨2, 1, .ro, 0x0, []⟩]⟩,
  ⟨"HPC_IRQ", 0x10000118, 1, 0x0, 1, 0x0, [⟨0, 1, .w1c, 0x0, []⟩, ⟨1, 1, .ro, 0x0, []⟩, ⟨2, 1, .w1c, 0x0, []⟩]⟩,
  ⟨"HPC_IRQ_EN", 0x10000120, 1, 0x0, 1, 0x0, [⟨0, 3, .rw, 0x7, []⟩]⟩,
  ⟨"HPC_HWSEQ", 0x10000128, 1, 0x0, 1, 0x0, [⟨0, 32, .ro, 0x0, []⟩]⟩,
  ⟨"HPC_HLOG", 0x10000130, 1, 0x0, 1, 0x0, [⟨17, 23, .rw, 0x200FFF, []⟩]⟩,
  ⟨"HPC_HLOG_STAT", 0x10000138, 1, 0x0, 1, 0x0, [⟨0, 16, .ro, 0x0, []⟩, ⟨16, 16, .rw, 0x0, []⟩, ⟨32, 16, .ro, 0x0, []⟩, ⟨48, 9, .ro, 0x0, []⟩]⟩,
  ⟨"HPC_CNT_WINFAULT", 0x10000140, 1, 0x0, 1, 0x0, [⟨0, 64, .ro, 0x0, []⟩]⟩,
  ⟨"HPC_CNT_UNREACH", 0x10000148, 1, 0x0, 1, 0x0, [⟨0, 64, .ro, 0x0, []⟩]⟩,
  ⟨"HPC_CNT_DBREF", 0x10000150, 1, 0x0, 1, 0x0, [⟨0, 64, .ro, 0x0, []⟩]⟩,
  ⟨"HPC_CNT_DROPPED", 0x10000158, 1, 0x0, 1, 0x0, [⟨0, 64, .ro, 0x0, []⟩]⟩,
  ⟨"HPC_CNT_CTL", 0x10000160, 1, 0x0, 1, 0x0, [⟨0, 1, .wo, 0x0, []⟩]⟩]

/-- The register table of the CH_ block. -/
def descsCH : List RegDesc := [
  ⟨"CH_TOK", 0x11000, 256, 0x8, 1, 0x0, [⟨0, 32, .rw, 0x0, []⟩]⟩,
  ⟨"CH_TOK_INC", 0x10800, 1, 0x0, 1, 0x0, [⟨0, 8, .wo, 0x0, []⟩, ⟨16, 16, .wo, 0x0, []⟩]⟩,
  ⟨"CH_RTK_CTL", 0x10900, 16, 0x10, 1, 0x0, [⟨0, 21, .rw, 0x0, []⟩, ⟨24, 1, .rw, 0x0, []⟩, ⟨32, 1, .wo, 0x0, []⟩]⟩,
  ⟨"CH_RTK_STAT", 0x10908, 16, 0x10, 1, 0x0, [⟨0, 1, .ro, 0x0, []⟩, ⟨1, 2, .ro, 0x0, []⟩, ⟨3, 1, .ro, 0x0, []⟩, ⟨4, 1, .ro, 0x0, []⟩, ⟨8, 21, .ro, 0x0, []⟩, ⟨32, 5, .ro, 0x0, []⟩, ⟨48, 16, .ro, 0x0, []⟩]⟩,
  ⟨"CH_E2_MODE", 0x10810, 1, 0x0, 1, 0x0, [⟨0, 1, .rw, 0x0, []⟩]⟩,
  ⟨"CH_SEAT", 0x10820, 1, 0x0, 1, 0x0, [⟨0, 8, .ro, 0x0, []⟩, ⟨8, 6, .ro, 0x0, []⟩, ⟨14, 2, .ro, 0x0, []⟩, ⟨16, 1, .ro, 0x0, []⟩, ⟨17, 1, .ro, 0x0, []⟩, ⟨32, 16, .ro, 0x0, []⟩, ⟨48, 16, .ro, 0x0, []⟩]⟩,
  ⟨"CH_TERM", 0x10828, 1, 0x0, 1, 0x0, [⟨0, 16, .ro, 0x0, []⟩, ⟨16, 16, .ro, 0x0, []⟩, ⟨32, 2, .ro, 0x0, []⟩, ⟨34, 1, .w1c, 0x0, []⟩, ⟨36, 3, .ro, 0x0, []⟩]⟩,
  ⟨"CH_TERM_CTL", 0x10830, 1, 0x0, 1, 0x0, [⟨0, 16, .wo, 0x0, []⟩, ⟨16, 8, .wo, 0x0, []⟩, ⟨24, 1, .wo, 0x0, []⟩, ⟨25, 1, .wo, 0x0, []⟩, ⟨26, 1, .wo, 0x0, []⟩, ⟨27, 1, .wo, 0x0, []⟩, ⟨32, 8, .wo, 0x0, []⟩]⟩,
  ⟨"CH_TERM_TIMEOUT", 0x10838, 1, 0x0, 1, 0x0, [⟨0, 32, .rw, 0x7A120, []⟩]⟩,
  ⟨"CH_CHART_SRC", 0x10840, 1, 0x0, 1, 0x0, [⟨6, 34, .rw, 0x0, []⟩]⟩,
  ⟨"CH_CHART_IDX", 0x10848, 1, 0x0, 1, 0x0, [⟨0, 16, .rw, 0x0, []⟩]⟩,
  ⟨"CH_CHART_ENT", 0x10850, 1, 0x0, 1, 0x0, [⟨0, 32, .ro, 0x0, []⟩, ⟨32, 16, .ro, 0x0, []⟩]⟩,
  ⟨"CH_CLK_STAT", 0x10860, 1, 0x0, 1, 0x0, [⟨0, 1, .ro, 0x0, []⟩, ⟨1, 1, .w1c, 0x0, []⟩]⟩,
  ⟨"CH_CNT_THROTTLE", 0x10868, 1, 0x0, 1, 0x0, [⟨0, 64, .ro, 0x0, []⟩]⟩,
  ⟨"CH_ID", 0x10000, 1, 0x0, 1, 0x0, [⟨0, 16, .ro, 0xE301, []⟩, ⟨16, 8, .ro, 0x10, []⟩, ⟨24, 2, .ro, 0x0, []⟩]⟩]

/-- The register table of the RPT_ block. -/
def descsRPT : List RegDesc := [
  ⟨"RPT_CONV", 0x190000, 4096, 0x40, 1, 0x0, [⟨0, 64, .ro, 0x0, []⟩]⟩,
  ⟨"RPT_OVF", 0x190008, 4096, 0x40, 1, 0x0, [⟨0, 64, .ro, 0x0, []⟩]⟩,
  ⟨"RPT_VAN", 0x190010, 4096, 0x40, 1, 0x0, [⟨0, 64, .ro, 0x0, []⟩]⟩,
  ⟨"RPT_SUB", 0x190018, 4096, 0x40, 1, 0x0, [⟨0, 64, .ro, 0x0, []⟩]⟩,
  ⟨"RPT_INEX", 0x190020, 4096, 0x40, 1, 0x0, [⟨0, 64, .ro, 0x0, []⟩]⟩,
  ⟨"RPT_RETAKE", 0x190028, 4096, 0x40, 1, 0x0, [⟨0, 64, .ro, 0x0, []⟩]⟩,
  ⟨"RPT_MAXEXP", 0x190030, 4096, 0x40, 1, 0x0, [⟨0, 16, .ro, 0x0, []⟩, ⟨16, 1, .ro, 0x0, []⟩]⟩,
  ⟨"RPT_CLR", 0x180000, 1, 0x0, 1, 0x0, [⟨0, 12, .wo, 0x0, []⟩, ⟨16, 1, .wo, 0x0, []⟩, ⟨17, 1, .wo, 0x0, []⟩]⟩,
  ⟨"RPT_SNAP_CTL", 0x180008, 1, 0x0, 1, 0x0, [⟨0, 12, .wo, 0x0, []⟩, ⟨16, 1, .wo, 0x0, []⟩]⟩,
  ⟨"RPT_SNAP", 0x180040, 7, 0x8, 1, 0x0, [⟨0, 64, .ro, 0x0, []⟩]⟩,
  ⟨"RPT_SNAP_TAG", 0x180078, 1, 0x0, 1, 0x0, [⟨0, 12, .ro, 0x0, []⟩]⟩,
  ⟨"RPT_VER", 0x180010, 1, 0x0, 1, 0x0, [⟨0, 8, .ro, 0x3, []⟩, ⟨8, 13, .ro, 0x1000, []⟩]⟩]

/-- The register table of the FS_ block. -/
def descsFS : List RegDesc := [
  ⟨"FS_VER", 0x120000, 4, 0x1000, 1, 0x0, [⟨0, 8, .ro, 0x3, []⟩]⟩,
  ⟨"FS_CNT_VE", 0x120040, 4, 0x1000, 1, 0x0, [⟨0, 64, .ro, 0x0, []⟩]⟩,
  ⟨"FS_CNT_ME", 0x120048, 4, 0x1000, 1, 0x0, [⟨0, 64, .ro, 0x0, []⟩]⟩,
  ⟨"FS_CNT_WAIT", 0x120050, 4, 0x1000, 1, 0x0, [⟨0, 64, .ro, 0x0, []⟩]⟩,
  ⟨"FS_CNT_CTL", 0x120060, 4, 0x1000, 1, 0x0, [⟨0, 1, .wo, 0x0, []⟩]⟩]

/-- The register table of the SC_ block. -/
def descsSC : List RegDesc := [
  ⟨"SC_VER", 0x140000, 4, 0x1000, 1, 0x0, [⟨0, 8, .ro, 0x3, []⟩]⟩,
  ⟨"SC_CTL", 0x140008, 4, 0x1000, 1, 0x0, [⟨0, 1, .rw, 0x0, []⟩, ⟨1, 1, .wo, 0x0, []⟩]⟩,
  ⟨"SC_BOOT", 0x140010, 4, 0x1000, 1, 0x0, [⟨2, 62, .rw, 0x0, []⟩]⟩,
  ⟨"SC_STAT", 0x140018, 4, 0x1000, 1, 0x0, [⟨0, 1, .ro, 0x0, []⟩, ⟨1, 1, .ro, 0x0, []⟩]⟩,
  ⟨"SC_WDOG", 0x140020, 4, 0x1000, 1, 0x0, [⟨0, 32, .rw, 0x0, []⟩]⟩,
  ⟨"SC_WDOG_KICK", 0x140028, 4, 0x1000, 1, 0x0, [⟨0, 1, .wo, 0x0, []⟩]⟩,
  ⟨"SC_MTIMECMP", 0x140030, 4, 0x1000, 1, 0x0, [⟨0, 64, .rw, 0xFFFFFFFFFFFFFFFF, []⟩]⟩]

/-- The register table of the SVC_ block. -/
def descsSVC : List RegDesc := [
  ⟨"SVC_STAT", 0x30000, 1, 0x0, 1, 0x0, [⟨0, 32, .ro, 0x0, []⟩, ⟨32, 1, .ro, 0x0, []⟩]⟩]

/-- The register table of the CIC_ block. -/
def descsCIC : List RegDesc := [
  ⟨"CIC_VER", 0x20000, 1, 0x0, 1, 0x0, [⟨0, 8, .ro, 0x3, []⟩, ⟨8, 10, .ro, 0x200, []⟩, ⟨18, 4, .ro, 0x6, []⟩]⟩,
  ⟨"CIC_TOKSRC", 0x20100, 16, 0x8, 1, 0x0, [⟨0, 8, .rw, 0x0, []⟩, ⟨8, 1, .rw, 0x0, []⟩, ⟨32, 32, .rw, 0x0, []⟩]⟩,
  ⟨"CIC_SWSRC_SET", 0x20200, 1, 0x0, 1, 0x0, [⟨0, 64, .w1s, 0x0, []⟩]⟩,
  ⟨"CIC_SWSRC_CLR", 0x20208, 1, 0x0, 1, 0x0, [⟨0, 64, .w1c, 0x0, []⟩]⟩,
  ⟨"CIC_TOP", 0x20400, 6, 0x40, 1, 0x0, [⟨0, 9, .ro, 0x0, []⟩, ⟨12, 4, .ro, 0x0, []⟩, ⟨16, 1, .ro, 0x0, []⟩]⟩,
  ⟨"CIC_ACK", 0x20408, 6, 0x40, 1, 0x0, [⟨0, 9, .wo, 0x0, []⟩]⟩,
  ⟨"CIC_EOI", 0x20410, 6, 0x40, 1, 0x0, [⟨0, 1, .wo, 0x0, []⟩]⟩,
  ⟨"CIC_STAT", 0x20418, 6, 0x40, 1, 0x0, [⟨0, 4, .ro, 0x0, []⟩, ⟨4, 5, .ro, 0x0, []⟩, ⟨9, 1, .ro, 0x0, []⟩, ⟨10, 1, .w1c, 0x0, []⟩]⟩,
  ⟨"CIC_SRC", 0x21000, 512, 0x8, 1, 0x0, [⟨0, 4, .rw, 0x0, []⟩, ⟨4, 3, .rw, 0x0, [(6, 7)]⟩, ⟨8, 1, .ro, 0x0, []⟩, ⟨9, 1, .ro, 0x0, []⟩]⟩]

/-- The register table of the HR_ block. -/
def descsHR : List RegDesc := [
  ⟨"HR_PSTATE", 0x0, 1, 0x0, 1, 0x0, [⟨0, 3, .wo, 0x0, []⟩, ⟨4, 3, .ro, 0x0, []⟩, ⟨7, 1, .ro, 0x0, []⟩, ⟨8, 3, .ro, 0x0, []⟩]⟩,
  ⟨"HR_IDLE_DELAY", 0x8, 1, 0x0, 1, 0x0, [⟨0, 16, .rw, 0xA, []⟩]⟩,
  ⟨"HR_WAKE", 0x100, 32, 0x8, 1, 0x0, [⟨0, 9, .rw, 0x0, []⟩, ⟨9, 1, .rw, 0x0, []⟩]⟩,
  ⟨"HR_WAKE_STAT", 0x200, 1, 0x0, 1, 0x0, [⟨0, 5, .ro, 0x0, []⟩, ⟨5, 1, .ro, 0x0, []⟩]⟩,
  ⟨"HR_CSTATE", 0x10, 1, 0x0, 1, 0x0, [⟨0, 3, .ro, 0x0, []⟩, ⟨4, 3, .ro, 0x0, []⟩, ⟨8, 4, .ro, 0x0, []⟩, ⟨12, 1, .ro, 0x0, []⟩, ⟨13, 2, .ro, 0x0, []⟩]⟩,
  ⟨"HR_BOOT_TIME", 0x40, 5, 0x8, 1, 0x0, [⟨0, 32, .ro, 0x0, []⟩]⟩,
  ⟨"HR_RC_STAT", 0x300, 1, 0x0, 1, 0x0, [⟨0, 1, .ro, 0x0, []⟩, ⟨1, 1, .ro, 0x0, []⟩, ⟨2, 1, .ro, 0x0, []⟩, ⟨3, 1, .ro, 0x0, []⟩, ⟨4, 1, .ro, 0x0, []⟩, ⟨5, 3, .ro, 0x0, []⟩, ⟨8, 9, .ro, 0x0, []⟩, ⟨17, 7, .ro, 0x0, []⟩, ⟨24, 2, .ro, 0x0, []⟩, ⟨32, 17, .ro, 0x0, []⟩]⟩,
  ⟨"HR_RC_X", 0x308, 5, 0x8, 1, 0x0, [⟨0, 64, .ro, 0x0, []⟩]⟩,
  ⟨"HR_RC_XB", 0x330, 5, 0x8, 1, 0x0, [⟨0, 64, .ro, 0x0, []⟩]⟩,
  ⟨"HR_RC_Y", 0x358, 2, 0x8, 1, 0x0, [⟨0, 64, .ro, 0x0, []⟩]⟩,
  ⟨"HR_RC_YB", 0x368, 2, 0x8, 1, 0x0, [⟨0, 64, .ro, 0x0, []⟩]⟩,
  ⟨"HR_RC_Z", 0x378, 1, 0x0, 1, 0x0, [⟨0, 4, .ro, 0x0, []⟩, ⟨4, 4, .ro, 0x0, []⟩]⟩,
  ⟨"HR_HB_STAT", 0x400, 1, 0x0, 1, 0x0, [⟨0, 6, .ro, 0x0, []⟩, ⟨6, 6, .ro, 0x0, []⟩]⟩,
  ⟨"HR_RECOV_CFG", 0x408, 1, 0x0, 1, 0x0, [⟨0, 8, .rw, 0x0, []⟩, ⟨8, 1, .rw, 0x0, []⟩]⟩,
  ⟨"HR_RECOV_STAT", 0x410, 1, 0x0, 1, 0x0, [⟨0, 18, .ro, 0x0, []⟩, ⟨18, 4, .ro, 0x0, []⟩, ⟨22, 1, .ro, 0x0, []⟩, ⟨23, 1, .ro, 0x0, []⟩, ⟨24, 1, .w1c, 0x0, []⟩, ⟨25, 1, .w1c, 0x0, []⟩, ⟨32, 18, .ro, 0x0, []⟩]⟩,
  ⟨"HR_RECOV_TERM", 0x418, 1, 0x0, 1, 0x0, [⟨0, 16, .ro, 0x0, []⟩, ⟨16, 16, .ro, 0x0, []⟩, ⟨32, 16, .ro, 0x0, []⟩]⟩,
  ⟨"HR_RECOV_CTL", 0x420, 1, 0x0, 1, 0x0, [⟨0, 1, .wo, 0x0, []⟩]⟩,
  ⟨"HR_CNT_HB_MISS", 0x440, 1, 0x0, 1, 0x0, [⟨0, 64, .ro, 0x0, []⟩]⟩,
  ⟨"HR_CNT_RECOV", 0x448, 1, 0x0, 1, 0x0, [⟨0, 64, .ro, 0x0, []⟩]⟩,
  ⟨"HR_THERM", 0x500, 1, 0x0, 1, 0x0, [⟨0, 5, .ro, 0x10, []⟩, ⟨5, 5, .ro, 0x10, []⟩, ⟨10, 1, .ro, 0x0, []⟩, ⟨11, 1, .w1c, 0x0, []⟩, ⟨16, 16, .ro, 0x0, []⟩]⟩,
  ⟨"HR_TEMP", 0x540, 26, 0x8, 1, 0x0, [⟨0, 16, .ro, 0x0, []⟩, ⟨16, 1, .ro, 0x0, []⟩]⟩,
  ⟨"HR_ENV", 0x700, 1, 0x0, 1, 0x0, [⟨0, 16, .ro, 0x0, []⟩, ⟨16, 16, .ro, 0x0, []⟩, ⟨32, 16, .ro, 0x0, []⟩, ⟨48, 16, .ro, 0x0, []⟩]⟩,
  ⟨"HR_ENV_STAT", 0x708, 1, 0x0, 1, 0x0, [⟨0, 2, .ro, 0x0, []⟩, ⟨2, 2, .ro, 0x0, []⟩, ⟨4, 2, .ro, 0x0, []⟩]⟩,
  ⟨"HR_LOG_STAT", 0x800, 1, 0x0, 1, 0x0, [⟨0, 32, .ro, 0x0, []⟩, ⟨32, 32, .rw, 0x0, []⟩]⟩,
  ⟨"HR_LOG_CFG", 0x808, 1, 0x0, 1, 0x0, [⟨0, 13, .rw, 0x800, []⟩]⟩,
  ⟨"HR_LOG_IDX", 0x810, 1, 0x0, 1, 0x0, [⟨0, 32, .rw, 0x0, []⟩, ⟨32, 1, .ro, 0x0, []⟩]⟩,
  ⟨"HR_LOG_D", 0x840, 4, 0x8, 1, 0x0, [⟨0, 64, .ro, 0x0, []⟩]⟩,
  ⟨"HR_VER", 0x18, 1, 0x0, 1, 0x0, [⟨0, 8, .ro, 0x3, []⟩, ⟨8, 6, .ro, 0x20, []⟩, ⟨14, 13, .ro, 0x1000, []⟩]⟩]

/-- The register table of the SS_ block. -/
def descsSS : List RegDesc := [
  ⟨"SS_CTL", 0x150000, 8, 0x1000, 1, 0x0, [⟨0, 3, .wo, 0x0, []⟩]⟩,
  ⟨"SS_STAT", 0x150008, 8, 0x1000, 1, 0x0, [⟨0, 3, .ro, 0x0, []⟩, ⟨3, 1, .ro, 0x0, []⟩, ⟨4, 1, .ro, 0x0, []⟩, ⟨5, 1, .w1c, 0x0, []⟩, ⟨6, 1, .w1c, 0x0, []⟩, ⟨7, 1, .ro, 0x0, []⟩, ⟨8, 3, .ro, 0x0, []⟩, ⟨12, 2, .ro, 0x0, []⟩, ⟨14, 1, .ro, 0x0, []⟩, ⟨15, 1, .ro, 0x1, []⟩, ⟨16, 7, .ro, 0x0, []⟩, ⟨24, 7, .ro, 0x0, []⟩, ⟨32, 7, .ro, 0x0, []⟩, ⟨40, 3, .ro, 0x0, []⟩]⟩,
  ⟨"SS_CFG", 0x150010, 8, 0x1000, 1, 0x0, [⟨0, 3, .rw, 0x1, [(4, 7)]⟩, ⟨3, 2, .rw, 0x0, []⟩, ⟨5, 3, .rw, 0x1, []⟩, ⟨8, 7, .rw, 0x1, []⟩, ⟨16, 8, .rw, 0x0, []⟩, ⟨24, 5, .rw, 0x0, []⟩, ⟨29, 3, .rw, 0x0, []⟩, ⟨32, 7, .rw, 0x1, []⟩, ⟨40, 6, .rw, 0x0, []⟩, ⟨48, 4, .rw, 0x0, []⟩]⟩,
  ⟨"SS_TERM", 0x150018, 8, 0x1000, 1, 0x0, [⟨0, 16, .rw, 0x0, []⟩]⟩,
  ⟨"SS_FQ", 0x150020, 8, 0x1000, 1, 0x0, [⟨6, 34, .rw, 0x0, []⟩, ⟨40, 7, .rw, 0x0, []⟩]⟩,
  ⟨"SS_BQ", 0x150028, 8, 0x1000, 1, 0x0, [⟨6, 34, .rw, 0x0, []⟩, ⟨40, 7, .rw, 0x0, []⟩]⟩,
  ⟨"SS_FDOOR_A", 0x150040, 8, 0x1000, 4, 0x10, [⟨6, 34, .rw, 0x0, []⟩, ⟨40, 7, .rw, 0x0, []⟩]⟩,
  ⟨"SS_BDOOR_A", 0x150080, 8, 0x1000, 4, 0x10, [⟨6, 34, .rw, 0x0, []⟩, ⟨40, 7, .rw, 0x0, []⟩]⟩,
  ⟨"SS_FDOOR_B", 0x150048, 8, 0x1000, 4, 0x10, [⟨0, 32, .rw, 0x0, []⟩, ⟨32, 18, .rw, 0x0, []⟩, ⟨50, 3, .rw, 0x0, []⟩, ⟨53, 3, .rw, 0x0, []⟩, ⟨56, 1, .rw, 0x0, []⟩]⟩,
  ⟨"SS_BDOOR_B", 0x150088, 8, 0x1000, 4, 0x10, [⟨0, 32, .rw, 0x0, []⟩, ⟨32, 18, .rw, 0x0, []⟩, ⟨50, 3, .rw, 0x0, []⟩, ⟨53, 3, .rw, 0x0, []⟩, ⟨56, 1, .rw, 0x0, []⟩]⟩,
  ⟨"SS_OUT_A", 0x150100, 8, 0x1000, 8, 0x10, [⟨0, 64, .rw, 0x0, []⟩]⟩,
  ⟨"SS_OUT_B", 0x150108, 8, 0x1000, 8, 0x10, [⟨0, 32, .rw, 0x0, []⟩, ⟨32, 7, .rw, 0x0, []⟩, ⟨40, 7, .ro, 0x0, []⟩, ⟨48, 6, .ro, 0x0, []⟩]⟩,
  ⟨"SS_VS_FLESSON", 0x150200, 8, 0x1000, 4, 0x20, [⟨6, 34, .rw, 0x0, []⟩]⟩,
  ⟨"SS_VS_BLESSON", 0x150208, 8, 0x1000, 4, 0x20, [⟨6, 34, .rw, 0x0, []⟩]⟩,
  ⟨"SS_VS_ELESSON", 0x150210, 8, 0x1000, 4, 0x20, [⟨6, 34, .rw, 0x0, []⟩]⟩,
  ⟨"SS_STASH", 0x150280, 8, 0x1000, 1, 0x0, [⟨6, 34, .rw, 0x0, []⟩]⟩,
  ⟨"SS_STASH_STRIDE", 0x150288, 8, 0x1000, 1, 0x0, [⟨0, 32, .rw, 0x0, []⟩]⟩,
  ⟨"SS_STAGE", 0x150290, 8, 0x1000, 1, 0x0, [⟨6, 34, .rw, 0x0, []⟩]⟩,
  ⟨"SS_STAGE_STRIDE", 0x150298, 8, 0x1000, 1, 0x0, [⟨0, 32, .rw, 0x0, []⟩]⟩,
  ⟨"SS_OFF", 0x1502A0, 8, 0x1000, 1, 0x0, [⟨0, 64, .rw, 0x0, []⟩]⟩,
  ⟨"SS_OFF_STRIDE", 0x1502A8, 8, 0x1000, 1, 0x0, [⟨0, 32, .rw, 0x0, []⟩]⟩,
  ⟨"SS_LAYER_END", 0x150300, 8, 0x1000, 16, 0x8, [⟨0, 32, .rw, 0x0, []⟩]⟩,
  ⟨"SS_CUR", 0x150380, 8, 0x1000, 8, 0x8, [⟨0, 64, .ro, 0x0, []⟩]⟩,
  ⟨"SS_CNT_FWD", 0x150400, 8, 0x1000, 1, 0x0, [⟨0, 64, .ro, 0x0, []⟩]⟩,
  ⟨"SS_CNT_BWD", 0x150408, 8, 0x1000, 1, 0x0, [⟨0, 64, .ro, 0x0, []⟩]⟩,
  ⟨"SS_CNT_STALE", 0x150410, 8, 0x1000, 1, 0x0, [⟨0, 64, .ro, 0x0, []⟩]⟩,
  ⟨"SS_CNT_OFFLOAD", 0x150418, 8, 0x1000, 1, 0x0, [⟨0, 64, .ro, 0x0, []⟩]⟩,
  ⟨"SS_CNT_CTL", 0x150440, 8, 0x1000, 1, 0x0, [⟨0, 1, .wo, 0x0, []⟩]⟩]

/-- The register table of the TT_ block. -/
def descsTT : List RegDesc := [
  ⟨"TT_VER", 0x40000, 1, 0x0, 1, 0x0, [⟨0, 8, .ro, 0x3, []⟩, ⟨8, 4, .ro, 0x8, []⟩, ⟨12, 3, .ro, 0x4, []⟩, ⟨15, 7, .ro, 0x40, []⟩]⟩]

/-- The register table of the VS_ block. -/
def descsVS : List RegDesc := [
  ⟨"VS_VER", 0x60000, 1, 0x0, 1, 0x0, [⟨0, 8, .ro, 0x3, []⟩, ⟨8, 3, .ro, 0x4, []⟩]⟩,
  ⟨"VS_CFG", 0x60100, 8, 0x80, 1, 0x0, [⟨0, 2, .rw, 0x0, [(3, 3)]⟩, ⟨2, 2, .rw, 0x3, [(0, 0)]⟩, ⟨8, 8, .rw, 0x0, []⟩, ⟨16, 1, .rw, 0x0, []⟩]⟩,
  ⟨"VS_WC", 0x60108, 8, 0x80, 1, 0x0, [⟨6, 34, .rw, 0x0, []⟩]⟩,
  ⟨"VS_WC_STRIDE", 0x60110, 8, 0x80, 1, 0x0, [⟨0, 32, .rw, 0x0, []⟩]⟩,
  ⟨"VS_PUB", 0x60118, 8, 0x80, 1, 0x0, [⟨0, 2, .wo, 0x0, []⟩, ⟨32, 32, .wo, 0x0, []⟩]⟩,
  ⟨"VS_DONE", 0x60120, 8, 0x80, 1, 0x0, [⟨0, 32, .rw, 0x0, []⟩]⟩,
  ⟨"VS_ENT_A", 0x60140, 8, 0x80, 4, 0x10, [⟨0, 1, .ro, 0x0, []⟩, ⟨1, 2, .ro, 0x0, []⟩, ⟨3, 7, .ro, 0x0, []⟩, ⟨32, 32, .ro, 0x0, []⟩]⟩,
  ⟨"VS_ENT_B", 0x60148, 8, 0x80, 4, 0x10, [⟨0, 32, .ro, 0x0, []⟩]⟩]

/-- The register table of the GB_ block. -/
def descsGB : List RegDesc := [
  ⟨"GB_VER", 0x80000, 1, 0x0, 1, 0x0, [⟨0, 8, .ro, 0x3, []⟩]⟩,
  ⟨"GB_CTL", 0x80008, 1, 0x0, 1, 0x0, [⟨0, 3, .wo, 0x0, []⟩, ⟨3, 1, .wo, 0x0, []⟩]⟩,
  ⟨"GB_E_A", 0x81000, 8, 0x800, 64, 0x20, [⟨0, 32, .ro, 0x0, []⟩, ⟨32, 16, .ro, 0x0, []⟩, ⟨48, 1, .ro, 0x0, []⟩, ⟨49, 1, .ro, 0x0, []⟩]⟩,
  ⟨"GB_E_B", 0x81008, 8, 0x800, 64, 0x20, [⟨0, 32, .ro, 0x0, []⟩, ⟨32, 32, .ro, 0x0, []⟩]⟩,
  ⟨"GB_E_SENT", 0x81010, 8, 0x800, 64, 0x20, [⟨0, 64, .ro, 0x0, []⟩]⟩,
  ⟨"GB_E_RECV", 0x81018, 8, 0x800, 64, 0x20, [⟨0, 64, .ro, 0x0, []⟩]⟩]

/-- The register table of the CS_ block. -/
def descsCS : List RegDesc := [
  ⟨"CS_VER", 0x90000, 1, 0x0, 1, 0x0, [⟨0, 8, .ro, 0x3, []⟩, ⟨8, 4, .ro, 0x6, []⟩, ⟨12, 5, .ro, 0x10, []⟩]⟩,
  ⟨"CS_CFG", 0x90008, 1, 0x0, 1, 0x0, [⟨0, 18, .rw, 0x0, []⟩, ⟨18, 2, .rw, 0x0, [(2, 3)]⟩, ⟨24, 9, .rw, 0x1FF, []⟩]⟩,
  ⟨"CS_RING", 0x90010, 1, 0x0, 1, 0x0, [⟨0, 9, .rw, 0x0, []⟩, ⟨9, 7, .rw, 0x0, []⟩, ⟨16, 1, .ro, 0x0, []⟩, ⟨17, 9, .ro, 0x0, []⟩, ⟨26, 1, .ro, 0x0, []⟩, ⟨27, 7, .ro, 0x0, []⟩, ⟨34, 1, .ro, 0x0, []⟩, ⟨35, 2, .ro, 0x0, []⟩]⟩,
  ⟨"CS_ARB", 0x90018, 1, 0x0, 1, 0x0, [⟨0, 4, .rw, 0x2, [(0, 0)]⟩, ⟨4, 4, .rw, 0x4, [(0, 0)]⟩, ⟨8, 4, .rw, 0x1, [(0, 0)]⟩]⟩,
  ⟨"CS_TO", 0x90020, 1, 0x0, 1, 0x0, [⟨0, 32, .rw, 0xC350, [(0, 999)]⟩]⟩,
  ⟨"CS_OUTST", 0x90028, 1, 0x0, 1, 0x0, [⟨0, 13, .ro, 0x0, []⟩, ⟨16, 13, .ro, 0x0, []⟩, ⟨32, 7, .ro, 0x0, []⟩]⟩,
  ⟨"CS_STAT", 0x90030, 1, 0x0, 1, 0x0, [⟨0, 1, .w1c, 0x0, []⟩, ⟨1, 1, .w1c, 0x0, []⟩, ⟨2, 1, .w1c, 0x0, []⟩]⟩,
  ⟨"CS_CNT_NOROUTE", 0x90040, 1, 0x0, 1, 0x0, [⟨0, 64, .ro, 0x0, []⟩]⟩,
  ⟨"CS_CNT_TIMEOUT", 0x90048, 1, 0x0, 1, 0x0, [⟨0, 64, .ro, 0x0, []⟩]⟩,
  ⟨"CS_CNT_LATE", 0x90050, 1, 0x0, 1, 0x0, [⟨0, 64, .ro, 0x0, []⟩]⟩,
  ⟨"CS_CNT_TC0_REFUSED", 0x90058, 1, 0x0, 1, 0x0, [⟨0, 64, .ro, 0x0, []⟩]⟩,
  ⟨"CS_CNT_UNSUP", 0x90060, 1, 0x0, 1, 0x0, [⟨0, 64, .ro, 0x0, []⟩]⟩,
  ⟨"CS_CNT_CTL", 0x90068, 1, 0x0, 1, 0x0, [⟨0, 1, .wo, 0x0, []⟩]⟩]

/-- The register table of the IV_ block. -/
def descsIV : List RegDesc := [
  ⟨"IV_VER", 0xA0000, 6, 0x1000, 1, 0x0, [⟨0, 8, .ro, 0x3, []⟩, ⟨8, 8, .ro, 0x0, []⟩, ⟨16, 8, .ro, 0x0, []⟩, ⟨24, 8, .ro, 0x0, []⟩]⟩,
  ⟨"IV_STAT", 0xA0008, 6, 0x1000, 1, 0x0, [⟨0, 3, .ro, 0x0, []⟩, ⟨4, 2, .ro, 0x0, []⟩, ⟨32, 18, .ro, 0x0, []⟩]⟩,
  ⟨"IV_CTL", 0xA0010, 6, 0x1000, 1, 0x0, [⟨0, 1, .wo, 0x0, []⟩, ⟨1, 1, .rw, 0x0, []⟩]⟩,
  ⟨"IV_LANES", 0xA0018, 6, 0x1000, 1, 0x0, [⟨0, 34, .ro, 0x0, []⟩, ⟨40, 2, .ro, 0x0, []⟩]⟩,
  ⟨"IV_RTT", 0xA0020, 6, 0x1000, 1, 0x0, [⟨0, 16, .ro, 0x0, []⟩]⟩,
  ⟨"IV_LANE_LIMIT", 0xA0028, 6, 0x1000, 1, 0x0, [⟨0, 32, .rw, 0x10000, []⟩]⟩,
  ⟨"IV_CNT_FEC_CORR", 0xA0040, 6, 0x1000, 1, 0x0, [⟨0, 64, .ro, 0x0, []⟩]⟩,
  ⟨"IV_CNT_FEC_UNCORR", 0xA0048, 6, 0x1000, 1, 0x0, [⟨0, 64, .ro, 0x0, []⟩]⟩,
  ⟨"IV_CNT_CRC", 0xA0050, 6, 0x1000, 1, 0x0, [⟨0, 64, .ro, 0x0, []⟩]⟩,
  ⟨"IV_CNT_REPLAY", 0xA0058, 6, 0x1000, 1, 0x0, [⟨0, 64, .ro, 0x0, []⟩]⟩,
  ⟨"IV_CNT_RETRAIN", 0xA0060, 6, 0x1000, 1, 0x0, [⟨0, 64, .ro, 0x0, []⟩]⟩,
  ⟨"IV_CNT_CTL", 0xA0068, 6, 0x1000, 1, 0x0, [⟨0, 1, .wo, 0x0, []⟩]⟩]

/-- The register table of the HP_ block. -/
def descsHP : List RegDesc := [
  ⟨"HP_VER", 0x0, 1, 0x0, 1, 0x0, [⟨0, 8, .ro, 0x3, []⟩, ⟨8, 4, .ro, 0x4, []⟩, ⟨12, 4, .ro, 0x4, []⟩]⟩,
  ⟨"HP_LINK", 0x8, 1, 0x0, 1, 0x0, [⟨0, 1, .ro, 0x0, []⟩, ⟨1, 1, .ro, 0x0, []⟩, ⟨2, 1, .ro, 0x0, []⟩, ⟨8, 5, .ro, 0x0, []⟩, ⟨13, 3, .ro, 0x0, []⟩, ⟨32, 32, .ro, 0x0, []⟩]⟩,
  ⟨"HP_CNT_BADACC", 0x40, 1, 0x0, 1, 0x0, [⟨0, 64, .ro, 0x0, []⟩]⟩,
  ⟨"HP_CNT_REFUSED", 0x48, 1, 0x0, 1, 0x0, [⟨0, 64, .ro, 0x0, []⟩]⟩,
  ⟨"HP_CNT_CTL", 0x60, 1, 0x0, 1, 0x0, [⟨0, 1, .wo, 0x0, []⟩]⟩]

/-- The register table of the HP_ (BAR2)_ block. -/
def descsHPD : List RegDesc := [
  ⟨"HP_DB", 0x10010000, 1, 0x0, 1, 0x0, [⟨0, 16, .wo, 0x0, []⟩]⟩,
  ⟨"HP_MB_H2D", 0x10010008, 1, 0x0, 1, 0x0, [⟨0, 13, .wo, 0x0, []⟩, ⟨16, 32, .wo, 0x0, []⟩]⟩,
  ⟨"HP_MB_D2H", 0x10010010, 1, 0x0, 1, 0x0, [⟨0, 13, .ro, 0x0, []⟩, ⟨16, 32, .ro, 0x0, []⟩]⟩,
  ⟨"HP_MB_ACK", 0x10010018, 1, 0x0, 1, 0x0, [⟨0, 1, .wo, 0x0, []⟩]⟩]

/-- The register table of the EN_ block. -/
def descsEN : List RegDesc := [
  ⟨"EN_VER", 0xE0000, 1, 0x0, 1, 0x0, [⟨0, 8, .ro, 0x3, []⟩]⟩,
  ⟨"EN_CFG", 0xE0008, 1, 0x0, 1, 0x0, [⟨0, 1, .rw, 0x0, []⟩, ⟨1, 1, .rw, 0x0, []⟩, ⟨2, 3, .rw, 0x3, []⟩, ⟨5, 6, .rw, 0x1A, []⟩, ⟨11, 1, .rw, 0x0, []⟩, ⟨12, 12, .rw, 0x0, []⟩, ⟨32, 16, .rw, 0x1F4, [(0, 0)]⟩, ⟨48, 3, .rw, 0x7, []⟩, ⟨51, 3, .rw, 0x7, []⟩]⟩,
  ⟨"EN_MAC", 0xE0010, 1, 0x0, 1, 0x0, [⟨0, 48, .rw, 0x0, []⟩]⟩,
  ⟨"EN_IP0", 0xE0018, 1, 0x0, 1, 0x0, [⟨0, 64, .rw, 0x0, []⟩]⟩,
  ⟨"EN_IP1", 0xE0020, 1, 0x0, 1, 0x0, [⟨0, 64, .rw, 0x0, []⟩]⟩,
  ⟨"EN_CC", 0xE0028, 1, 0x0, 1, 0x0, [⟨0, 8, .rw, 0x20, []⟩, ⟨8, 8, .rw, 0x1, []⟩, ⟨16, 16, .rw, 0x64, []⟩, ⟨32, 16, .rw, 0x32, []⟩, ⟨48, 8, .rw, 0x4, []⟩]⟩,
  ⟨"EN_STAT", 0xE0030, 1, 0x0, 1, 0x0, [⟨0, 1, .ro, 0x0, []⟩, ⟨1, 1, .ro, 0x0, []⟩, ⟨2, 1, .ro, 0x0, []⟩, ⟨3, 7, .ro, 0x0, []⟩]⟩,
  ⟨"EN_CNT_TX", 0xE0040, 1, 0x0, 1, 0x0, [⟨0, 64, .ro, 0x0, []⟩]⟩,
  ⟨"EN_CNT_RX", 0xE0048, 1, 0x0, 1, 0x0, [⟨0, 64, .ro, 0x0, []⟩]⟩,
  ⟨"EN_CNT_RETX", 0xE0050, 1, 0x0, 1, 0x0, [⟨0, 64, .ro, 0x0, []⟩]⟩,
  ⟨"EN_CNT_CNP", 0xE0058, 1, 0x0, 1, 0x0, [⟨0, 64, .ro, 0x0, []⟩]⟩,
  ⟨"EN_CNT_DISCARD", 0xE0060, 1, 0x0, 1, 0x0, [⟨0, 64, .ro, 0x0, []⟩]⟩,
  ⟨"EN_CNT_CTL", 0xE0068, 1, 0x0, 1, 0x0, [⟨0, 1, .wo, 0x0, []⟩]⟩,
  ⟨"EN_MR_A", 0xE0800, 64, 0x20, 1, 0x0, [⟨0, 1, .rw, 0x0, []⟩, ⟨1, 1, .rw, 0x0, []⟩, ⟨2, 1, .rw, 0x0, []⟩, ⟨8, 24, .rw, 0x0, []⟩]⟩,
  ⟨"EN_MR_B", 0xE0808, 64, 0x20, 1, 0x0, [⟨0, 40, .rw, 0x0, []⟩]⟩,
  ⟨"EN_MR_C", 0xE0810, 64, 0x20, 1, 0x0, [⟨0, 40, .rw, 0x0, []⟩]⟩,
  ⟨"EN_QP_A", 0xE1000, 64, 0x40, 1, 0x0, [⟨0, 3, .rw, 0x0, [(5, 7)]⟩, ⟨3, 3, .rw, 0x0, []⟩, ⟨8, 24, .rw, 0x0, []⟩, ⟨32, 16, .rw, 0xC000, []⟩]⟩,
  ⟨"EN_QP_B", 0xE1008, 64, 0x40, 1, 0x0, [⟨0, 48, .rw, 0x0, []⟩]⟩,
  ⟨"EN_QP_C", 0xE1010, 64, 0x40, 1, 0x0, [⟨0, 64, .rw, 0x0, []⟩]⟩,
  ⟨"EN_QP_D", 0xE1018, 64, 0x40, 1, 0x0, [⟨0, 64, .rw, 0x0, []⟩]⟩,
  ⟨"EN_QP_E", 0xE1020, 64, 0x40, 1, 0x0, [⟨0, 24, .rw, 0x0, []⟩, ⟨24, 24, .rw, 0x0, []⟩]⟩,
  ⟨"EN_QP_F", 0xE1028, 64, 0x40, 1, 0x0, [⟨6, 34, .rw, 0x0, []⟩, ⟨40, 7, .rw, 0x0, []⟩, ⟨48, 8, .rw, 0x0, []⟩, ⟨56, 1, .rw, 0x0, []⟩]⟩,
  ⟨"EN_QP_G", 0xE1030, 64, 0x40, 1, 0x0, [⟨0, 16, .rw, 0x0, []⟩, ⟨16, 16, .ro, 0x0, []⟩]⟩]

/-- The register table of the UC_ block. -/
def descsUC : List RegDesc := [
  ⟨"UC_VER", 0xD0000, 1, 0x0, 1, 0x0, [⟨0, 8, .ro, 0x11, []⟩, ⟨8, 8, .ro, 0x0, []⟩, ⟨16, 4, .ro, 0x0, []⟩]⟩,
  ⟨"UC_STAT", 0xD0008, 1, 0x0, 1, 0x0, [⟨0, 3, .ro, 0x0, []⟩, ⟨3, 2, .ro, 0x0, []⟩, ⟨5, 2, .ro, 0x0, []⟩, ⟨7, 1, .ro, 0x0, []⟩, ⟨8, 2, .ro, 0x0, []⟩]⟩,
  ⟨"UC_CTL", 0xD0010, 1, 0x0, 1, 0x0, [⟨0, 1, .wo, 0x0, []⟩]⟩,
  ⟨"UC_MAP_LOCAL", 0xD0018, 1, 0x0, 1, 0x0, [⟨0, 64, .ro, 0x0, []⟩]⟩,
  ⟨"UC_MAP_PEER", 0xD0020, 1, 0x0, 1, 0x0, [⟨0, 64, .ro, 0x0, []⟩]⟩,
  ⟨"UC_MAP_RED", 0xD0028, 1, 0x0, 1, 0x0, [⟨0, 4, .ro, 0x0, []⟩, ⟨4, 4, .ro, 0x0, []⟩]⟩,
  ⟨"UC_CNT_RETRY", 0xD0040, 1, 0x0, 1, 0x0, [⟨0, 64, .ro, 0x0, []⟩]⟩,
  ⟨"UC_CNT_RETRAIN", 0xD0048, 1, 0x0, 1, 0x0, [⟨0, 64, .ro, 0x0, []⟩]⟩,
  ⟨"UC_CNT_CTL", 0xD0060, 1, 0x0, 1, 0x0, [⟨0, 1, .wo, 0x0, []⟩]⟩]

/-- The register table of the SEC_ block. -/
def descsSEC : List RegDesc := [
  ⟨"SEC_VER", 0x10000, 1, 0x0, 1, 0x0, [⟨0, 8, .ro, 0x3, []⟩]⟩,
  ⟨"SEC_STAT", 0x10008, 1, 0x0, 1, 0x0, [⟨0, 2, .ro, 0x0, []⟩, ⟨2, 1, .ro, 0x0, []⟩, ⟨3, 1, .w1c, 0x0, []⟩, ⟨4, 2, .ro, 0x0, []⟩, ⟨6, 1, .ro, 0x0, []⟩]⟩,
  ⟨"SEC_FUSE", 0x10010, 1, 0x0, 1, 0x0, [⟨0, 7, .ro, 0x0, []⟩, ⟨8, 7, .ro, 0x0, []⟩, ⟨16, 13, .ro, 0x0, []⟩, ⟨32, 4, .ro, 0x0, []⟩, ⟨36, 4, .ro, 0x0, []⟩]⟩,
  ⟨"SEC_SERIAL", 0x10018, 1, 0x0, 1, 0x0, [⟨0, 64, .ro, 0x0, []⟩]⟩,
  ⟨"SEC_CTL", 0x10020, 1, 0x0, 1, 0x0, [⟨0, 4, .wo, 0x0, []⟩, ⟨8, 8, .wo, 0x0, []⟩]⟩,
  ⟨"SEC_RESULT", 0x10028, 1, 0x0, 1, 0x0, [⟨0, 8, .ro, 0x0, []⟩, ⟨8, 4, .ro, 0x0, []⟩, ⟨16, 14, .ro, 0x0, []⟩]⟩,
  ⟨"SEC_IDX", 0x10030, 1, 0x0, 1, 0x0, [⟨0, 40, .ro, 0x0, []⟩]⟩,
  ⟨"SEC_NONCE", 0x10040, 4, 0x8, 1, 0x0, [⟨0, 64, .ro, 0x0, []⟩]⟩]

/-- The register table of the SYL_ block. -/
def descsSYL : List RegDesc := [
  ⟨"SYL_VER", 0x20000, 1, 0x0, 1, 0x0, [⟨0, 8, .ro, 0x3, []⟩]⟩,
  ⟨"SYL_STAT", 0x20008, 1, 0x0, 1, 0x0, [⟨0, 1, .ro, 0x0, []⟩, ⟨1, 1, .ro, 0x0, []⟩, ⟨2, 1, .ro, 0x0, []⟩, ⟨3, 1, .w1c, 0x0, []⟩, ⟨8, 8, .ro, 0x0, []⟩, ⟨16, 8, .ro, 0x0, []⟩, ⟨24, 8, .ro, 0x0, []⟩]⟩,
  ⟨"SYL_CMD", 0x20010, 1, 0x0, 1, 0x0, [⟨0, 3, .wo, 0x0, []⟩, ⟨3, 1, .wo, 0x0, []⟩, ⟨4, 26, .wo, 0x0, []⟩, ⟨32, 13, .wo, 0x0, []⟩]⟩,
  ⟨"SYL_HDR", 0x20018, 1, 0x0, 1, 0x0, [⟨0, 7, .ro, 0x0, []⟩, ⟨7, 1, .ro, 0x0, []⟩, ⟨8, 3, .ro, 0x0, []⟩, ⟨32, 32, .ro, 0x0, []⟩]⟩]

/-- The register table of the MG_ block. -/
def descsMG : List RegDesc := [
  ⟨"MG_VER", 0x30000, 1, 0x0, 1, 0x0, [⟨0, 8, .ro, 0x3, []⟩, ⟨32, 32, .ro, 0x0, []⟩]⟩,
  ⟨"MG_STAT", 0x30008, 1, 0x0, 1, 0x0, [⟨0, 4, .ro, 0x0, []⟩, ⟨4, 3, .ro, 0x0, []⟩, ⟨16, 32, .ro, 0x0, []⟩]⟩,
  ⟨"MG_PWR_CTL", 0x30010, 1, 0x0, 1, 0x0, [⟨0, 2, .wo, 0x0, []⟩, ⟨2, 1, .wo, 0x0, []⟩]⟩,
  ⟨"MG_ALERT", 0x30018, 1, 0x0, 1, 0x0, [⟨0, 1, .w1c, 0x0, []⟩]⟩,
  ⟨"MG_LOG_STAT", 0x30020, 1, 0x0, 1, 0x0, [⟨0, 32, .ro, 0x0, []⟩, ⟨32, 32, .rw, 0x0, []⟩]⟩,
  ⟨"MG_LOG_IDX", 0x30028, 1, 0x0, 1, 0x0, [⟨0, 32, .rw, 0x0, []⟩, ⟨32, 1, .rw, 0x0, []⟩, ⟨33, 1, .ro, 0x0, []⟩]⟩,
  ⟨"MG_LOG_D", 0x30040, 4, 0x8, 1, 0x0, [⟨0, 64, .ro, 0x0, []⟩]⟩,
  ⟨"MG_CNT_UART", 0x30060, 1, 0x0, 1, 0x0, [⟨0, 64, .ro, 0x0, []⟩]⟩,
  ⟨"MG_CNT_SMB", 0x30068, 1, 0x0, 1, 0x0, [⟨0, 64, .ro, 0x0, []⟩]⟩,
  ⟨"MG_CNT_CTL", 0x30070, 1, 0x0, 1, 0x0, [⟨0, 1, .wo, 0x0, []⟩]⟩]

/-- The register table of the SP_ block. -/
def descsSP : List RegDesc := [
  ⟨"SP_VER", 0xC0000, 1, 0x0, 1, 0x0, [⟨0, 8, .ro, 0x3, []⟩, ⟨8, 9, .ro, 0x100, []⟩]⟩,
  ⟨"SP_ECC_CORR", 0xC0100, 1, 0x0, 1, 0x0, [⟨0, 32, .ro, 0x0, []⟩]⟩,
  ⟨"SP_ECC_LAST", 0xC0108, 1, 0x0, 1, 0x0, [⟨5, 35, .ro, 0x0, []⟩, ⟨40, 6, .ro, 0x0, []⟩, ⟨48, 1, .ro, 0x0, []⟩]⟩,
  ⟨"SP_ERASE_STAT", 0xC0110, 1, 0x0, 1, 0x0, [⟨5, 35, .ro, 0x200000000, []⟩, ⟨48, 16, .ro, 0x0, []⟩]⟩,
  ⟨"SP_ECC_CTL", 0xC0118, 1, 0x0, 1, 0x0, [⟨0, 1, .wo, 0x0, []⟩]⟩,
  ⟨"SP_IRQ", 0xC0120, 1, 0x0, 1, 0x0, [⟨0, 1, .w1c, 0x0, []⟩, ⟨1, 1, .w1c, 0x0, []⟩, ⟨2, 1, .w1c, 0x0, []⟩, ⟨3, 1, .w1c, 0x0, []⟩]⟩]

/-- Is key `off` an instance of the register `d`? -/
def RegDesc.has (d : RegDesc) (off : Nat) : Bool :=
  d.base ≤ off &&
  (let r := off - d.base
   if d.n2 = 1 then
     if d.n1 = 1 then r == 0 else r % d.s1 == 0 && r / d.s1 < d.n1
   else
     r / d.s1 < d.n1 && (r % d.s1) % d.s2 == 0 && (r % d.s1) / d.s2 < d.n2)

/-- The reset value of a whole register. -/
def RegDesc.resetVal (d : RegDesc) : Nat :=
  d.fields.foldl (fun v f => v + f.reset * 2 ^ f.lo) 0

/-- The block of the channel register window that holds offset `off`, with its table (Table 22-1); the empty table
where the offset is unassigned. -/
def chanDescs (off : Nat) : List RegDesc :=
  if 0x0 ≤ off ∧ off < 0x10000 then descsHR
  else if 0x10000 ≤ off ∧ off < 0x20000 then descsCH
  else if 0x20000 ≤ off ∧ off < 0x30000 then descsCIC
  else if 0x30000 ≤ off ∧ off < 0x40000 then descsSVC
  else if 0x40000 ≤ off ∧ off < 0x50000 then descsTT
  else if 0x50000 ≤ off ∧ off < 0x60000 then descsUU
  else if 0x60000 ≤ off ∧ off < 0x70000 then descsVS
  else if 0x70000 ≤ off ∧ off < 0x80000 then descsCE
  else if 0x80000 ≤ off ∧ off < 0x90000 then descsGB
  else if 0x90000 ≤ off ∧ off < 0xA0000 then descsCS
  else if 0xA0000 ≤ off ∧ off < 0xA6000 then descsIV
  else if 0xB0000 ≤ off ∧ off < 0xC0000 then descsHBM
  else if 0xC0000 ≤ off ∧ off < 0xD0000 then descsSP
  else if 0xD0000 ≤ off ∧ off < 0xE0000 then descsUC
  else if 0xE0000 ≤ off ∧ off < 0xF0000 then descsEN
  else if 0x100000 ≤ off ∧ off < 0x110000 then descsME
  else if 0x110000 ≤ off ∧ off < 0x114000 then descsVE
  else if 0x120000 ≤ off ∧ off < 0x124000 then descsFS
  else if 0x130000 ≤ off ∧ off < 0x138000 then descsTE
  else if 0x140000 ≤ off ∧ off < 0x144000 then descsSC
  else if 0x150000 ≤ off ∧ off < 0x158000 then descsSS
  else if 0x180000 ≤ off ∧ off < 0x200000 then descsRPT
  else if 0x10000000 ≤ off ∧ off < 0x10001000 then descsHPC
  else if 0x10010000 ≤ off ∧ off < 0x10010020 then descsHPD
  else []

/-- Table 22-2: the blocks of the host-port die. -/
def hpdDescs (off : Nat) : List RegDesc :=
  if off < 0x1000 then descsHP
  else if 0x10000 ≤ off ∧ off < 0x20000 then descsSEC
  else if 0x20000 ≤ off ∧ off < 0x30000 then descsSYL
  else if 0x30000 ≤ off ∧ off < 0x40000 then descsMG
  else []

/-- The register at key `off` of a channel, where one is defined. -/
def chanDesc (off : Nat) : Option RegDesc := (chanDescs off).find? (·.has off)

/-- The register at BAR0 offset `off` of the host-port die, where one is defined. -/
def hpdDesc (off : Nat) : Option RegDesc := (hpdDescs off).find? (·.has off)

/-- The reset value of the register at key `off` of channel `n`; CH_ID.CHANNEL reads the channel's number (R562). -/
def regReset (n : Nat) (off : Nat) : BitVec 64 :=
  match chanDesc off with
  | some d => BitVec.ofNat 64 (d.resetVal + (if off = 0x10000 then n * 2 ^ 24 else 0))
  | none => 0

/-- The reset value of the register at BAR0 offset `off` of the host-port die. -/
def hpdReset (off : Nat) : BitVec 64 :=
  match hpdDesc off with
  | some d => BitVec.ofNat 64 d.resetVal
  | none => 0

/-- Is `off` inside the range of a block of Table 22-1, at an instance that exists (R560)?  IV_ page 6 and the like are
as unassigned offsets are. -/
def chanAssigned (off : Nat) : Bool :=
  off < 0x0A0000 || (0x0A0000 ≤ off && off < 0x0A6000) || (0x0B0000 ≤ off && off < 0x0F0000) ||
  (0x100000 ≤ off && off < 0x110000) || (0x110000 ≤ off && off < 0x114000) || (0x120000 ≤ off && off < 0x124000) ||
  (0x130000 ≤ off && off < 0x138000) || (0x140000 ≤ off && off < 0x144000) || (0x150000 ≤ off && off < 0x158000) ||
  (0x180000 ≤ off && off < 0x200000)

/-- Is `off` inside the range of a block of the host-port die (Table 22-2)? -/
def hpdAssigned (off : Nat) : Bool := off < 0x40000

end Sys2Proof.Machine
end

