-- ==== Sys2Proof/Machine/Shake.lean ====
section
/-!
DEFINITION. SHAKE256 of FIPS 202, the digest of every signed object (R508).  The manual names the standard; its content is
PRESUMED (notes/assumptions/7.md).
-/
namespace Sys2Proof.Machine

/-- The state of Keccak is one number of 1,600 bits: lane (x, y) is bits [64 (x + 5y) + 63 : 64 (x + 5y)], and a plane is five
lanes of one y.  `keccakPlanes` repeats a plane's 320 bits in every plane. -/
def keccakPlanes (p : Nat) : Nat := p * (1 + 2 ^ 320 + 2 ^ 640 + 2 ^ 960 + 2 ^ 1280)

/-- Every lane takes the value of the next lane of its plane. -/
def keccakNext (a : Nat) : Nat :=
  ((a >>> 64) &&& keccakPlanes (2 ^ 256 - 1)) ||| ((a <<< 256) &&& keccakPlanes (2 ^ 320 - 2 ^ 256))

/-- The five lanes of a plane are each rotated left by one. -/
def keccakRol1 (p : Nat) : Nat :=
  let one := 1 + 2 ^ 64 + 2 ^ 128 + 2 ^ 192 + 2 ^ 256
  ((p <<< 1) &&& (one * (2 ^ 64 - 2))) ||| ((p >>> 63) &&& one)

/-- θ: every lane is summed with the columns beside it. -/
def keccakTheta (a : Nat) : Nat :=
  let c := (a ^^^ (a >>> 320) ^^^ (a >>> 640) ^^^ (a >>> 960) ^^^ (a >>> 1280)) % 2 ^ 320
  a ^^^ keccakPlanes ((((c <<< 64) ||| (c >>> 256)) % 2 ^ 320) ^^^ keccakRol1 (((c >>> 64) ||| (c <<< 256)) % 2 ^ 320))

/-- For each lane in turn the lane that π takes it from and the rotation of that lane by ρ. -/
def keccakMoves : List (Nat × Nat) :=
  [(0, 0), (6, 44), (12, 43), (18, 21), (24, 14), (3, 28), (9, 20), (10, 3), (16, 45), (22, 61), (1, 1), (7, 6), (13, 25)] ++
  [(19, 8), (20, 18), (4, 27), (5, 36), (11, 10), (17, 15), (23, 56), (2, 62), (8, 55), (14, 39), (15, 41), (21, 2)]

/-- ρ and π. -/
def keccakRhoPi (a : Nat) : Nat :=
  keccakMoves.foldr (fun e b => (b <<< 64) ||| rotl64 ((a >>> (64 * e.1)) % 2 ^ 64) e.2) 0

/-- χ: every lane is summed with the product of the two after it in its plane, the first of them negated. -/
def keccakChi (b : Nat) : Nat :=
  let n := keccakNext b
  b ^^^ ((2 ^ 1600 - 1 - n) &&& keccakNext n)

/-- Round constants of ι. -/
def keccakRc : List Nat :=
  [0x0000000000000001, 0x0000000000008082, 0x800000000000808A, 0x8000000080008000, 0x000000000000808B, 0x0000000080000001,
   0x8000000080008081, 0x8000000000008009, 0x000000000000008A, 0x0000000000000088, 0x0000000080008009, 0x000000008000000A] ++
  [0x000000008000808B, 0x800000000000008B, 0x8000000000008089, 0x8000000000008003, 0x8000000000008002, 0x8000000000000080,
   0x000000000000800A, 0x800000008000000A, 0x8000000080008081, 0x8000000000008080, 0x0000000080000001, 0x8000000080008008]

/-- Keccak-f[1600]. -/
def keccakF (a : Nat) : Nat := keccakRc.foldl (fun a rc => keccakChi (keccakRhoPi (keccakTheta a)) ^^^ rc) a

/-- The rate of SHAKE256: 136 bytes. -/
def shakeRate : Nat := 136

/-- Whole blocks are absorbed, then the last one with its padding (0x1F after the message, and the last bit of the block); `fuel`
bounds the number of blocks. -/
def shakeIn : Nat → Nat → List Byte → Nat
  | 0, a, _ => a
  | fuel + 1, a, m =>
    if shakeRate ≤ m.length then shakeIn fuel (keccakF (a ^^^ ofLe (m.take shakeRate))) (m.drop shakeRate)
    else keccakF (a ^^^ ofLe (m ++ [0x1F]) ^^^ 2 ^ (8 * shakeRate - 1))

/-- The first 32 bytes of output, which no digest of the manual exceeds. -/
def shake256 (m : List Byte) : List Byte := leBytes 32 (shakeIn (m.length / shakeRate + 1) 0 m)

end Sys2Proof.Machine
end

