-- ==== Sys2Proof/Machine/Xmss.lean ====
section
/-!
DEFINITION. Verification of XMSS signatures, parameter set XMSS-SHAKE256_20_256, and signing with the module's XMSS^MT key,
parameter set XMSSMT-SHAKE256_40/4_256 (R508).  The manual names NIST SP 800-208 and RFC 8391 for both; the steps below are
PRESUMED from them (notes/assumptions/9.md).
-/
namespace Sys2Proof.Machine

/-- The `n` big-endian bytes of a number. -/
def beBytes (n v : Nat) : List Byte := (leBytes n v).reverse

/-- The number that big-endian bytes spell. -/
def ofBe (bs : List Byte) : Nat := ofLe bs.reverse

/-- The keyed hash functions: 0 F, 1 H, 2 H_msg, 3 PRF, 4 PRF_keygen. -/
def xHash (k : Nat) (key m : List Byte) : List Byte := shake256 (beBytes 32 k ++ key ++ m)

def xorBytes (a b : List Byte) : List Byte := List.zipWith (· ^^^ ·) a b

/-- The layer and tree that begin a hash address. -/
def xTop (layer tree : Nat) : List Byte := beBytes 4 layer ++ beBytes 8 tree

/-- A hash address: layer and tree, type and its four last words. -/
def xAddr (top : List Byte) (ty a b c d : Nat) : List Byte :=
  top ++ beBytes 4 ty ++ beBytes 4 a ++ beBytes 4 b ++ beBytes 4 c ++ beBytes 4 d

/-- Steps `j` to `j + n − 1` of chain `i` of the one-time key at leaf `leaf`. -/
def xChain (top seed : List Byte) (leaf i : Nat) : Nat → Nat → List Byte → List Byte
  | 0, _, x => x
  | n + 1, j, x =>
    let key := xHash 3 seed (xAddr top 0 leaf i j 0)
    let mask := xHash 3 seed (xAddr top 0 leaf i j 1)
    xChain top seed leaf i n (j + 1) (xHash 0 key (xorBytes x mask))

/-- Two nodes hashed into one, at an address of type `ty` (1 L-tree, 2 hash tree). -/
def xPair (top seed : List Byte) (ty a h i : Nat) (l r : List Byte) : List Byte :=
  let prf (m : Nat) := xHash 3 seed (xAddr top ty a h i m)
  xHash 1 (prf 0) (xorBytes l (prf 1) ++ xorBytes r (prf 2))

/-- One level of a tree of type `ty`: nodes `i`, `i + 1`, … of the level above. -/
def xLevel (top seed : List Byte) (ty a h : Nat) : Nat → List (List Byte) → List (List Byte)
  | i, l :: r :: t => xPair top seed ty a h i l r :: xLevel top seed ty a h (i + 1) t
  | _, t => t

/-- The L-tree: 67 nodes into one, in at most seven levels. -/
def xLtree (top seed : List Byte) (leaf : Nat) : Nat → Nat → List (List Byte) → List Byte
  | 0, _, ns => ns.headD []
  | n + 1, h, ns => if ns.length ≤ 1 then ns.headD [] else xLtree top seed leaf n (h + 1) (xLevel top seed 1 leaf h 0 ns)

/-- The 67 digits of a 32-byte message: 64 of its own and 3 of the checksum. -/
def xDigits (m : List Byte) : List Nat :=
  let ds := m.flatMap (fun b => [b.toNat / 16, b.toNat % 16])
  let sum := ds.foldl (fun s d => s + (15 - d)) 0
  ds ++ [sum / 256 % 16, sum / 16 % 16, sum % 16]

/-- From a leaf's node up to the root along the authentication path. -/
def xClimb (top seed : List Byte) : List (List Byte) → Nat → Nat → List Byte → List Byte
  | [], _, _, x => x
  | a :: r, k, i, x =>
    xClimb top seed r (k + 1) (i / 2) (if i % 2 = 0 then xPair top seed 2 0 k (i / 2) x a else xPair top seed 2 0 k (i / 2) a x)

/-- `n` pieces of 32 bytes. -/
def pieces32 : Nat → List Byte → List (List Byte)
  | 0, _ => []
  | n + 1, bs => bs.take 32 :: pieces32 n (bs.drop 32)

/-- Does the 2,820-byte signature of a message verify against a 68-byte public key? -/
def xmssVerify (pk msg sig : List Byte) : Bool :=
  let idx := ofBe (sig.take 4)
  let r := (sig.drop 4).take 32
  let root := (pk.drop 4).take 32
  let seed := (pk.drop 36).take 32
  let top := xTop 0 0
  let m := xHash 2 (r ++ root ++ beBytes 32 idx) msg
  let ots := (xDigits m).zip ((pieces32 67 (sig.drop 36)).zipIdx)
  let ends := ots.map (fun e => xChain top seed idx e.2.2 (15 - e.1) e.1 e.2.1)
  let leaf := xLtree top seed idx 7 0 ends
  pk.length == 68 && ofBe (pk.take 4) == 0x12 && sig.length == 2820 && decide (idx < 2 ^ 20) &&
  xClimb top seed (pieces32 20 (sig.drop 2180)) 0 idx leaf == root

/-- A key digest: of the 68-byte public key (R508). -/
def keyDigest (pk : List Byte) : List Byte := shake256 pk

/-! ### The slot 0 key (R508, R533)

Every XMSS key is what a leaf of it shows: the ends of the leaf's chains, hashed into the leaf, and the path to the root. -/

/-- 32 bytes of a free value. -/
def bytes32 (v : BitVec 256) : List Byte := leBytes 32 v.toNat

def slot0Idx : Nat := Config.slot0Leaf.toNat
def slot0Seed : List Byte := bytes32 Config.slot0Seed
def slot0Path : List (List Byte) := (List.range 20).map (fun i => bytes32 (Config.slot0Path i))

/-- Chain `i` of the leaf after `n` steps. -/
def slot0Chain (i n : Nat) : List Byte := xChain (xTop 0 0) slot0Seed slot0Idx i n 0 (bytes32 (Config.slot0Start i))

/-- The root of Nolerda's tree. -/
def slot0Root : List Byte :=
  xClimb (xTop 0 0) slot0Seed slot0Path 0 slot0Idx
    (xLtree (xTop 0 0) slot0Seed slot0Idx 7 0 ((List.range 67).map (fun i => slot0Chain i 15)))

/-- The public key of slot 0, Nolerda's verification key. -/
def nolerdaKey : List Byte := beBytes 4 0x12 ++ slot0Root ++ slot0Seed

/-- The 2,820-byte signature of a message with the leaf of the identity certificate. -/
def slot0Sign (msg : List Byte) : List Byte :=
  let r := bytes32 Config.slot0R
  let m := xHash 2 (r ++ slot0Root ++ beBytes 32 slot0Idx) msg
  beBytes 4 slot0Idx ++ r ++ (xDigits m).zipIdx.flatMap (fun e => slot0Chain e.2 e.1) ++ slot0Path.flatten

/-! ### Signing (R508, R533) -/

/-- The private seeds of the key store, SK_SEED and SK_PRF, and the public SEED. -/
def skSeed (k : BitVec 768) : List Byte := leBytes 32 (k.toNat % 2 ^ 256)
def skPrf (k : BitVec 768) : List Byte := leBytes 32 (k.toNat / 2 ^ 256 % 2 ^ 256)
def pubSeed (k : BitVec 768) : List Byte := leBytes 32 (k.toNat / 2 ^ 512)

/-- The private start of chain `i` of the one-time key at a leaf. -/
def xSecret (k : BitVec 768) (top : List Byte) (leaf i : Nat) : List Byte :=
  xHash 4 (skSeed k) (pubSeed k ++ xAddr top 0 leaf i 0 0)

/-- The node of a leaf: its 67 chains run to their ends, and the L-tree over them. -/
def xLeaf (k : BitVec 768) (top : List Byte) (leaf : Nat) : List Byte :=
  xLtree top (pubSeed k) leaf 7 0 ((List.range 67).map (fun i => xChain top (pubSeed k) leaf i 15 0 (xSecret k top leaf i)))

/-- The root over the nodes of height `h`, `n` levels below it, and the authentication path of node `i`. -/
def xPath (seed top : List Byte) : Nat → Nat → Nat → List (List Byte) → List Byte × List (List Byte)
  | 0, _, _, ns => (ns.headD [], [])
  | n + 1, h, i, ns =>
    let (root, path) := xPath seed top n (h + 1) (i / 2) (xLevel top seed 2 0 h 0 ns)
    (root, ns.getD (i ^^^ 1) [] :: path)

/-- One tree of 1,024 leaves: its root, and the one-time signature of a 32-byte message at a leaf with its path. -/
def xSignTree (k : BitVec 768) (layer tree leaf : Nat) (m : List Byte) : List Byte × List Byte :=
  let top := xTop layer tree
  let (root, path) := xPath (pubSeed k) top 10 0 leaf ((List.range 1024).map (xLeaf k top))
  let ots := (xDigits m).zipIdx.flatMap (fun e => xChain top (pubSeed k) leaf e.2 e.1 0 (xSecret k top leaf e.2))
  (root, ots ++ path.flatten)

/-- The root of the top tree of a key. -/
def xRoot (k : BitVec 768) : List Byte := (xSignTree k 3 0 0 (leBytes 32 0)).1

/-- The module's public key: OID, root and SEED. -/
def identityKey : List Byte := beBytes 4 0x2C ++ xRoot Config.identitySeeds ++ pubSeed Config.identitySeeds

/-- The digest of the module's identity that is fused at manufacture (R509). -/
def identityFuse : List Byte := keyDigest identityKey

/-- The layers of a signature from `layer` up: each tree signs the root of the one below it. -/
def xSignLayers (k : BitVec 768) : Nat → Nat → Nat → List Byte → List Byte
  | 0, _, _, _ => []
  | n + 1, layer, i, m =>
    let (root, sig) := xSignTree k layer (i / 1024) (i % 1024) m
    sig ++ xSignLayers k n (layer + 1) (i / 1024) root

/-- The 9,893-byte signature of a message with the seeds `k` and index `idx`: index, r and four layers. -/
def xmssmtSign (k : BitVec 768) (idx : Nat) (msg : List Byte) : List Byte :=
  let r := xHash 3 (skPrf k) (beBytes 32 idx)
  let m := xHash 2 (r ++ xRoot k ++ beBytes 32 idx) msg
  beBytes 5 idx ++ r ++ xSignLayers k 4 0 idx m

end Sys2Proof.Machine
end

