-- ==== Sys2Proof/Machine/State.lean ====
section
/-!
DEFINITION. The state of the module: four channels, the host-port die and the queue of waiting commands.

Registers stand in one sparse table per die (see Machine/RegTable.lean): an unlisted register holds its reset value.
Memory is a sparse table of bytes: an unlisted byte reads 0 (DESIGN CHOICE, notes/assumptions/1.md).  The structures
below hold what the manual gives the blocks beside their registers.
-/
namespace Sys2Proof.Machine

/-! ### Event records (R541) -/

/-- An event record: Table 21-1.  `detail` holds record bytes [31:16] as one little-endian number. -/
structure EvRec where
  time : Nat
  block : Nat
  code : Nat
  sev : Nat
  chan : Nat
  detail : Nat
  /-- The HCLK cycle of the log's die in which it was raised; no part of the record (R542). -/
  cyc : Nat
  deriving DecidableEq, Repr

/-! ### Engine queues (R61 to R92) -/

/-- Table 3-2. -/
inductive QState where
  | idle | running | draining | halted
  deriving DecidableEq, Repr

/-- An entry of a queue's ring.  The command's bytes lie in the ring's memory (R62). -/
structure Ent where
  /-- The entry's place in the order of appends since reset. -/
  seq : Nat
  slot : Nat
  /-- Slots occupied: 1, or 4 for a 256-byte command. -/
  n : Nat
  /-- The timetable launch that appended it, for a LESSON_CALL of a launch. -/
  launch : Option Nat
  started : Bool
  consumed : Bool
  deriving DecidableEq, Repr

/-- A running lesson segment (R76). -/
structure Seg where
  /-- `seq` and ring slot of its LESSON_CALL. -/
  ent : Nat
  slot : Nat
  addr : Nat
  count : Nat
  /-- Fields of the LESSON_CALL: stage slot, phase, micro-batch, version, token window base and bias. -/
  ss : Nat
  phase : Nat
  mb : Nat
  ver : Nat
  twin : Nat
  tbias : Nat
  bases : List Nat
  launch : Option Nat
  callSigs : List (Nat × Nat)
  callEvt : Bool
  callTag : Nat
  /-- The next slot of the segment to evaluate. -/
  pos : Nat
  ret : Bool
  deriving DecidableEq, Repr

/-- A started command is running, done (its signals wait for earlier commands, R71) or failed (R82). -/
inductive RunSt where
  | running | done | failed
  deriving DecidableEq, Repr

/-- A started command of a queue. -/
structure Started where
  seq : Nat
  raw : List Byte
  slot : Nat
  inSeg : Bool
  /-- `seq` of its ring entry, when it is not in a segment. -/
  ent : Nat
  sigs : List (Nat × Nat)
  /-- Its signals go to the token log of a retake region (R144). -/
  logged : Bool
  st : RunSt
  /-- The earliest tick at which it may complete, where the manual states a duration. -/
  ready : Nat
  /-- Events still outstanding: responses, rows, blocks. -/
  out : Nat
  /-- Progress of a command that works in parts. -/
  pos : Nat
  /-- It runs again after a failure (R82). -/
  redone : Bool := false
  deriving DecidableEq, Repr

/-- Membership of a queue in an open retake region: the region, the replay pointer (an entry's `seq` in the ring, or a
slot of the segment) and the engine's own mark (R137, R172). -/
structure RtkMark where
  region : Nat
  inSeg : Bool
  replay : Nat
  mark : Nat
  deriving DecidableEq, Repr

/-- The state of a queue beside its registers. -/
structure Queue where
  st : QState := .idle
  ents : List Ent := []
  nseq : Nat := 0
  tail : Nat := 0
  seg : Option Seg := none
  started : List Started := []
  sseq : Nat := 0
  /-- A HALT waits for started commands to complete. -/
  halting : Bool := false
  fenced : Bool := false
  /-- The head's wait on tokens: identity of the head, unsatisfied counter, tick since which it waits (R73), its waits. -/
  wait : Option (Nat × Nat × Nat × List (Nat × Nat)) := none
  rtk : Option RtkMark := none
  arrived : Bool := false
  deriving DecidableEq, Repr

/-- A producer's command that found too few free slots (R63): queue, bytes and, for a LESSON_CALL, its launch. -/
structure Waiting where
  q : Nat
  raw : List Byte
  launch : Option Nat
  /-- The core that waits in CMD.PUSH, or none. -/
  core : Option Nat
  /-- The HQ_FORWARD of the host queue that waits (R432), or none. -/
  fwd : Option Nat
  deriving DecidableEq, Repr

/-! ### The fabric (R346 to R377) -/

/-- A packet header with its data (Table 13-6). -/
structure Pkt where
  ptype : Nat
  hops : Nat
  dirs : Nat
  err : Nat
  dst : Nat
  src : Nat
  tid : Nat
  len : Nat
  aux : Nat
  addr : Nat
  aux2 : Nat
  data : List Byte
  deriving DecidableEq, Repr

/-- A virtual channel's receive buffer: the packet being assembled and the whole packets, oldest first, each with the
flit places it takes (R351). -/
structure VcRx where
  asm : List Byte := []
  asmFlits : Nat := 0
  pkts : List (List Byte × Nat) := []
  deriving DecidableEq, Repr

/-- A packet waiting to leave by a port: its bytes, the flits already sent, and the input port and virtual channel whose
places it holds when it is forwarded. -/
structure TxEnt where
  bytes : List Byte
  sent : Nat
  src : Option (Nat × Nat)
  deriving DecidableEq, Repr

/-- Link-control messages that a port has sent.  The manual gives their content but no layout within the flit, except
CAP's. -/
inductive Ctl where
  | nak (lseq : Nat)
  | laneSwap (lane spare : Nat)
  | cap (bytes : List Byte)
  | retrain
  deriving DecidableEq, Repr

/-- A flit in the replay buffer (R350): LSEQ, virtual channel, kind, payload and the passes it returns. -/
structure Kept where
  lseq : Nat
  vc : Nat
  kind : Nat
  payload : List Byte
  cr : Option (Nat × Nat)
  deriving DecidableEq, Repr

/-- One Ivell port. -/
structure Port where
  rx : Tbl VcRx := []
  tx : Tbl (List TxEnt) := []
  /-- Hall passes held for each virtual channel of the far end. -/
  passes : Tbl Nat := []
  /-- Passes to return to the far end. -/
  crPend : Tbl Nat := []
  /-- Next LSEQ to send, next LSEQ expected. -/
  lseq : Nat := 0
  rexp : Nat := 0
  /-- Discarding until the expected LSEQ arrives (R350). -/
  discard : Bool := false
  ackDue : Bool := false
  /-- Replay buffer: every unacknowledged flit. -/
  replay : List Kept := []
  /-- Link-control messages that wait for room in the replay buffer, oldest first (R350). -/
  ctlQ : List Ctl := []
  nakSeq : Nat := 0
  nakCount : Nat := 0
  /-- Weighted round robin: credits left for TC1, TC2, TC3 and the last virtual channel served in each class. -/
  wrr : Nat × Nat × Nat := (0, 0, 0)
  lastVc : Tbl Nat := []
  /-- Flits sent, oldest first, and link-control messages sent. -/
  wire : List (List Byte) := []
  ctl : List Ctl := []
  /-- Tick at which the training in progress began, retrains failed in succession, and whether any training has
  completed since reset. -/
  trainAt : Nat := 0
  fails : Nat := 0
  trained : Bool := false
  /-- Hall passes have been granted since the link last went DOWN. -/
  granted : Bool := false
  /-- The peer's CAP of the present training has arrived; ours has been sent; the training is a retrain (R353). -/
  capSeen : Bool := false
  capSent : Bool := false
  retraining : Bool := false
  /-- The lanes that spares have replaced since the training, the lanes in use (R348), and the corrected symbols of each lane
  in the present second. -/
  spared : List Nat := []
  lanes : List Nat := []
  corr : Tbl (Nat × Nat) := []
  /-- The port sends nothing before this tick (a lane exchange). -/
  quietUntil : Nat := 0
  /-- The LSEQ from which a NAK that came in a lane exchange has the flits sent again (R348, R350). -/
  again : Option Nat := none
  /-- BREAK and MEND bells that wait for the training to end (R361): kind, link, and whether the switch originates them. -/
  news : List (Nat × Nat × Bool) := []
  deriving DecidableEq, Repr

/-- What the completion of a remote operation does at the requester. -/
inductive OpCont where
  /-- A write or DELIVER: nothing more to do. -/
  | ack
  /-- Read data go to local memory at an address. -/
  | toMem (a : Nat)
  /-- Read data are written on to a global address. -/
  | toGlobal (g : Nat)
  /-- Read data that a command gathers from elsewhere: their place, from `sideAt` on for what stands beside the payload. -/
  | gather (off : Nat)
  /-- The old value of an atomic goes to a global address. -/
  | result (g : Nat)
  /-- A core's load or atomic: core, destination register, bytes, sign extension, floating point. -/
  | core (h rd size : Nat) (signed isFp : Bool)
  /-- A core's store. -/
  | coreStore (h : Nat)
  /-- An operation of a unit without a queue: 1 CE chunk, 2 buddy copy, 3 off-load copy, 4 fetch of the homeroom or the
  service core, 5 RDMA staging; and two numbers of that unit's own. -/
  | unit (u a b : Nat)
  deriving DecidableEq, Repr

/-- A remote operation (R364): transaction id; kind 0 read or atomic, 1 write or DELIVER, 2 CE_PARTIAL; whether it goes to
host memory; the queue (0xFF for none) and started command it belongs to; its request, whose data are dropped once it is
sent; the tick of transmission; what its completion does; and whether its command has failed and no longer waits for it. -/
structure Op where
  tid : Nat
  kind : Nat
  host : Bool
  q : Nat
  cmd : Nat
  pkt : Pkt
  sent : Nat
  cont : OpCont
  dead : Bool := false
  deriving DecidableEq, Repr


/-! ### Retake regions (R136 to R148) -/

/-- A retake region beside its registers: the token log (counter, sum of increments), the overflows of the attempt (queue,
started command, tag) and whether an ABORT is in progress. -/
structure Retake where
  log : List (Nat × Nat) := []
  ovfs : List (Nat × Nat × Nat) := []
  aborting : Bool := false
  deriving DecidableEq, Repr

/-- The LESSON_CALLs of a timetable launch: not yet started, and not yet ended (R76, R250). -/
structure Calls where
  unstarted : Nat := 0
  unended : Nat := 0
  deriving DecidableEq, Repr

/-! ### Matrix engines (R93 to R118) -/

/-- A started ME_PASS: its queue number, parameters, the buffer's metadata as they stood when it started (R100), and how far
it has come. -/
structure MePass where
  seq : Nat
  rows : Nat
  accRow : Nat
  fmt : Nat
  wbuf : Nat
  init : Bool
  src : Nat
  stride : Nat
  scale : Nat
  tag : Nat
  /-- K′, the formats of the two column halves and their valid bits. -/
  kk : Nat
  wfmt : Nat × Nat
  valid : Bool × Bool
  started : Nat
  admitted : Nat
  inexact : Bool
  /-- The element and scale codes of the weight buffers as they stood before the next load into the pass's buffer began its
  transfer, while rows of the pass are still in the array (R99). -/
  tile : Option (Tbl Nat × Tbl Nat) := none
  deriving DecidableEq, Repr

/-- A row in the feeder (R101): pass, row number, its element codes and scale codes.  It lies in queue `idx mod 256`. -/
structure FeedRow where
  pass : Nat
  idx : Nat
  elems : List Nat
  scales : List Nat
  deriving DecidableEq, Repr

/-- A row in the array: pass, row number, the ACLK cycle of its admission, its element and scale codes, and the columns
already written (bit n). -/
structure MeRow where
  pass : Nat
  idx : Nat
  at_ : Nat
  elems : List Nat
  scales : List Nat
  cols : Nat
  deriving DecidableEq, Repr

/-- A load at the loader (R99): buffer, the cycle its lead began, whether its transfer has begun, and where its scales lie. -/
structure MeLoad where
  seq : Nat
  buf : Nat
  lead : Nat
  moving : Bool
  scale : Nat := 0
  deriving DecidableEq, Repr

/-- A command at the drain port (R109): kind (0x12, 0x13 or 0x14), row range, whether and when it began, the rows done, and
the vectors it read when it started (R129). -/
structure MePort where
  seq : Nat
  kind : Nat
  accRow : Nat
  rows : Nat
  began : Option Nat
  pos : Nat
  grants : List Nat
  colscale : List Nat
  bias : List Nat
  deriving DecidableEq, Repr

/-- One matrix engine beside its registers. -/
structure Me where
  /-- Element codes of the weight buffers, by buffer × 2^20 + k × 256 + n, and scale codes by buffer × 2^20 + n × 16 + block.-/
  wElem : Tbl Nat := []
  wScale : Tbl Nat := []
  /-- Format of each column half of each buffer (buffer × 2 + half), and the half the last HALF_N load filled. -/
  halfFmt : Tbl Nat := []
  lastHalf : Tbl (Option Nat) := []
  /-- Accumulator pairs (s, e) by row × 256 + column. -/
  acc : Tbl (Nat × Nat) := []
  passes : List MePass := []
  /-- The feeder's rows (R101), in the order in which they arrived. -/
  feeder : List FeedRow := []
  rows : List MeRow := []
  loads : List MeLoad := []
  port : List MePort := []
  /-- ACLK cycle of the last admission, and of the last admission of a pass on each buffer; the cycle at which each
  buffer's last load completed. -/
  lastAdmit : Option Nat := none
  lastOn : Tbl Nat := []
  loadDone : Tbl Nat := []
  /-- 0 GATED, 1 RAMP_UP, 3 RAMP_DOWN, with the cycle at which it began; a ramp-up older than its length is ACTIVE. -/
  array : Nat := 0
  arrayAt : Nat := 0
  deriving DecidableEq, Repr

/-! ### Vector engines and function stages (R161 to R189) -/

/-- The data phase of a started command of a vector engine or of the update unit (R183, R284, R481): chunks (cycles of elements)
still to be taken, each in an open cycle and, where `grants` is set, with a function-stage grant; cycles that its bytes need at
the port; its fixed latency; the cycle at which the phase began, once the one before it has ended; and the cycle after its last
chunk. -/
structure Phase where
  seq : Nat
  grants : Bool
  chunks : Nat
  bytes : Nat
  lat : Nat
  start : Option Nat
  edge : Nat := 0
  deriving DecidableEq, Repr

/-- A vector engine beside its registers: summaries to write when their commands complete (command, register, word without
SEQ). -/
structure Ve where
  sums : List (Nat × Nat × Nat) := []
  deriving DecidableEq, Repr

/-- A function stage: the requester granted last, the cycle at which the grant ends, and since when each requester has
waited (R182). -/
structure Fs where
  last : Nat := 4
  busy : Nat := 0
  since : Tbl Nat := []
  deriving DecidableEq, Repr

/-! ### Stage slots (R232 to R260) -/

/-- An entry of a slot's forward or backward queue: its place in the ring, the door slot its DELIVER filled (door, slot),
its arrival stamp, whether a launch has taken it, and whether it has been released (R240). -/
structure DescEnt where
  idx : Nat
  door : Nat
  dslot : Nat
  stamp : Nat
  taken : Bool
  released : Bool
  deriving DecidableEq, Repr

/-- A door slot that is not free: 1 FILLING, 2 FULL, 3 released but not yet returned; its sender, the DELIVER's length, the
bytes written and the descriptor held. -/
structure DoorSlot where
  st : Nat := 0
  src : Nat := 0
  total : Nat := 0
  got : Nat := 0
  desc : Option (List Byte) := none
  deriving DecidableEq, Repr

/-- An in-flight record (R243), with its staging buffer plus one (0 none) and where its off-loadable part is: 0 in the
buffer, 1 being copied out, 2 out, 3 being fetched; whether a fetch is due, its place in forward-launch order, and
whether its backward launch has begun. -/
structure Rec where
  i : Nat
  mb : Nat
  step : Nat
  term : Nat
  vst : Nat
  ver : Nat
  stage : Nat
  off : Nat
  want : Bool
  pos : Nat
  bwd : Bool
  deriving DecidableEq, Repr

/-- A launch (R249): its number, phase 0 forward, 1 backward, 2 end lesson, stash index, queue entry (ring place, backward
queue), virtual stage, micro-batch, version, LAST flag and current registers; `pos` is its record's place in forward-launch
order. -/
structure Launch where
  id : Nat
  phase : Nat
  i : Nat
  pos : Nat
  idx : Nat
  bwd : Bool
  vst : Nat
  mb : Nat
  ver : Nat
  last : Bool
  bases : List Nat
  deriving DecidableEq, Repr

/-- An off-load or fetch copy (R252): its number, its record (stash index and place in forward-launch order), staging buffer and
direction. -/
structure OffCopy where
  id : Nat
  i : Nat
  pos : Nat
  buf : Nat
  fetch : Bool
  deriving DecidableEq, Repr

/-- A slot beside its registers. -/
structure Slot where
  fq : List DescEnt := []
  bq : List DescEnt := []
  ftail : Nat := 0
  btail : Nat := 0
  stamp : Nat := 0
  /-- Door slots by (queue × 4 + door) × 64 + slot, and the next slot that each door returns. -/
  doors : Tbl DoorSlot := []
  ret : Tbl Nat := []
  /-- Records in forward-launch order, and the forward launches so far. -/
  recs : List Rec := []
  nfwd : Nat := 0
  launches : List Launch := []
  copies : List OffCopy := []
  /-- Backward launches with LAST whose end lesson is still to be launched. -/
  ends : List Launch := []
  /-- Launches of each lesson image since BIND (R75). -/
  count : Tbl Nat := []
  deriving DecidableEq, Repr


/-! ### The update unit (R267 to R285) -/

/-- A block of the running UU_UPDATE: 0 not begun, 1 its gradient or state being read, 2 arrived, 3 the inactive slot being
written, 4 written and visible, 5 committed or skipped; the gradient and active slot read so far, and the inactive slot's
new contents. -/
structure UuBlk where
  j : Nat
  st : Nat
  grad : List Byte
  slot : List Byte
  new : List Byte
  deriving DecidableEq, Repr

/-- The running UU_UPDATE: its command, the block table and parameter record it read when it started, where its gradients lie
(in the command itself, or from an address on), and its per-step
constants k, lr, DK, OMB1, OMB2, IBC1, IBC2. -/
structure UuRun where
  seq : Nat
  table : List Byte
  parm : List Byte
  grad : Nat
  inl : Option (List Byte)
  term : Nat
  step : Nat
  consts : List Nat
  blks : List UuBlk
  deriving DecidableEq, Repr

/-- A buddy copy on its way (R282): block, address, the slot's image address, step, whether the journal word has been sent,
the pieces unacknowledged and the journal word. -/
structure Buddy where
  blk : Nat
  addr : Nat
  step : Nat
  sentWord : Bool
  left : Nat
  word : List Byte
  deriving DecidableEq, Repr


/-! ### The collective engine (R289 to R320) -/

/-- A reduction partial (Table 11-2): chunk, phase, flags, attendance bitmap and payload. -/
structure CeMsg where
  chunk : Nat
  phase : Nat
  flags : Nat
  attend : Nat
  data : List Byte
  deriving DecidableEq, Repr

/-- No partial. -/
def ceMsg0 : CeMsg := { chunk := 0, phase := 0, flags := 0, attend := 0, data := [] }

/-- A bucket open at this member: context, term, step, bucket; its command with opcode, byte [35], COUNT, SRC and DST; the
deadline timer's start, whether an attendance bell was received, whether the member is undecided (0), present (1) or absent
(2); its contribution; partials held, being assembled and accepted; chunks whose EMPTY header an absent member passed on
before it knew their agreed codes, and those of them whose second header came (R303); phases whose own first chunk has been
sent; agreed codes, results and norm pairs by chunk; packets not yet sent, unacknowledged and lost, the bytes that the gradebook
records when the last packet of a partial leaves (R318); and whether its members issued it differently (R572).  A partial being
assembled is held as the pieces that have come, by offset. -/
structure Bkt where
  id : Nat
  g : Nat
  term : Nat
  step : Nat
  bkt : Nat
  cmd : Option Nat := none
  op : Nat := 0
  par : Nat := 0
  count : Nat := 0
  src : Nat := 0
  dst : Nat := 0
  timer : Option Nat := none
  bell : Bool := false
  mode : Nat := 0
  contrib : List Nat := []
  carried : Bool := false
  tardy : Bool := false
  held : List CeMsg := []
  asm : Tbl (Tbl (List Byte)) := []
  seen : List (Nat × Nat) := []
  early : List Nat := []
  again : List Nat := []
  begun : List Nat := []
  codes : Tbl (List Nat) := []
  res : Tbl CeMsg := []
  norms : Tbl (Nat × Nat) := []
  wide : Nat := 0
  toSend : List (Nat × Pkt) := []
  unacked : List (Nat × Pkt) := []
  lost : List Nat := []
  nsend : Nat := 0
  digests : Tbl (List Byte) := []
  odd : Bool := false
  deriving DecidableEq, Repr

/-- A 4 KiB unit of a context's staging area in use: the context and unit, the bucket, phase and chunk whose packet lies in
it, and the member that sent the packet (R295). -/
structure CeUnit where
  g : Nat
  unit : Nat
  id : Nat
  phase : Nat
  chunk : Nat
  src : Nat
  deriving DecidableEq, Repr

/-! ### Terms (R326 to R345) -/

/-- A term switch in its drain phase (Table 12-4): the new term, the contexts selected, the chart image taken when it was
checked, the counter to signal and the tick of its START. -/
structure TermSw where
  new : Nat
  groups : Nat
  image : Option (List Byte)
  tok : Option Nat
  began : Nat
  deriving DecidableEq, Repr

/-! ### Start-up (R378 to R400) -/

/-- The neighbour exchange of one port: the tick at which it last came up, whether a NEIGHBOUR bell has been sent and what
bell has arrived since then, and whether the checks have been made. -/
structure Nbr where
  upAt : Option Nat := none
  sent : Bool := false
  bell : Option (List Byte) := none
  checked : Bool := false
  /-- The checks have failed and disabled the port. -/
  bad : Bool := false
  deriving DecidableEq, Repr

/-- Roll call on one axis: the lowest HEAD seen, whether this member's own lap has started, and the bells held, each with
whether this member has already marked it. -/
structure Lap where
  low : Option Nat := none
  started : Bool := false
  held : List (List Byte × Bool) := []
  deriving DecidableEq, Repr

/-- Start-up: the sections in the boot store (place in the section table, type, bytes), whether the base-die events and the
environment check of P1 are complete, whether the compute die is powered, when P2 ended, the neighbours, the laps by axis
(0 X, 1 Y, 2 Z), the REPORTs that a leader holds (ring y × 4 + z, NPRES, NBYP), and whether it has sent ALL_PRESENT. -/
structure Boot where
  loaded : Bool := false
  base : Bool := false
  compute : Bool := false
  p2 : Option Nat := none
  nbrs : Tbl Nbr := []
  laps : Tbl Lap := []
  reports : List (Nat × Nat × Nat) := []
  sentAll : Bool := false
  /-- The axes that have closed, and whether an ALL_PRESENT has arrived, since the channel reset; the HR_RC_ registers keep
  their contents over it (R7, R392, R395). -/
  closed : List Nat := []
  gotAll : Bool := false
  /-- The sections were missing or failed their digest since module power good (R385, R523); a quantity of the environment, or
  T_base, forbade at the reset that the compute die be powered (R482, R501). -/
  secBad : Bool := false
  envBad : Bool := false
  /-- The service core has run the job bootstrap since the channel entered READY (R528). -/
  strapped : Bool := false
  deriving DecidableEq, Repr

/-! ### Failures and recovery (R401 to R420) -/

/-- What the homeroom knows of the neighbour on a port: a heartbeat since the last tick, misses in succession, the state
last reported. -/
structure Hb where
  heard : Bool := false
  misses : Nat := 0
  state : Nat := 0
  deriving DecidableEq, Repr

/-- A copy of a bell that spreads over the hall (Table 14-7): the port it leaves by, or 6 for a SEED copy routed to `node`. -/
structure SpreadCopy where
  port : Nat
  kind : Nat
  node : Nat
  data : List Byte
  deriving DecidableEq, Repr

/-- A search for a substitute by the coordinator or the alternate (R407, R409, R411): seat, failed position, cause, job and
the term of the seat's failure; candidates not yet called; the candidate called and when; the substitute that accepted;
0 calling, 1 accepted, 2 its image being written, 3 CHART sent, 4 waiting to send RECOVER again; OLD_TERM and GEN of the
RECOVER sent; writes of the image outstanding. -/
structure Search where
  seat : Nat
  failed : Nat
  cause : Nat
  job : Nat
  term : Nat
  cands : List Nat
  called : Option (Nat × Nat)
  sub : Nat
  stage : Nat
  old : Nat
  gen : Nat
  left : Nat
  deriving DecidableEq, Repr

/-- An alternate's wait for a RECOVER (R406). -/
structure AltWait where
  seat : Nat
  failed : Nat
  cause : Nat
  job : Nat
  term : Nat
  since : Nat
  deriving DecidableEq, Repr

/-- A spare's claim (R408): job, seat, caller, the tick of its ACCEPT and whether it has sent UP. -/
structure Claim where
  job : Nat
  seat : Nat
  caller : Nat
  term : Nat
  since : Nat
  up : Bool
  deriving DecidableEq, Repr

/-- A job bootstrap (R528): 1 fetching by RoCE, 2 waiting for BOOT_LOAD, 3 waiting to retry; attempts left, the tick of the
last failure and the bytes still to read. -/
structure Bootstrap where
  stage : Nat
  retries : Nat
  since : Nat
  left : Nat
  deriving DecidableEq, Repr


/-! ### Cores (R190 to R212) -/

/-- A core: 0 to 3 SC0 to SC3, 4 the service core.  Integer and floating-point registers by number, control and status
registers by number, tightly-coupled memory by offset, cached lines by line number (address / 64) with the dirty mark, the
reservation of LR (address, bytes), whether it has started since reset, whether it waits in TOK.WAIT or CMD.PUSH, whether a
remote access is outstanding, and the start of its watchdog period with whether that has expired once. -/
structure Core where
  x : Tbl (BitVec 64) := []
  f : Tbl (BitVec 32) := []
  pc : BitVec 64 := 0
  user : Bool := false
  csr : Tbl (BitVec 64) := []
  tcm : Tbl Byte := []
  dcache : Tbl (Bool × List Byte) := []
  icache : Tbl (List Byte) := []
  resv : Option (Nat × Nat) := none
  began : Bool := false
  waiting : Bool := false
  busy : Bool := false
  kick : Nat := 0
  expired : Bool := false
  /-- The monitor holds the service core (R546). -/
  held : Bool := false
  deriving DecidableEq, Repr

/-! ### Power states (R222 to R230) -/

/-- A transition of the power state: entry or exit, the state it leads to or comes from, its beginning, whether an exit
follows at once, and the cause of the exit (0 request, 1 wake set) with the wake entry. -/
structure PTrans where
  exit : Bool
  old : Nat
  new : Nat
  began : Nat
  andBack : Option (Nat × Nat)
  cause : Nat
  entry : Nat
  deriving DecidableEq, Repr

/-! ### Ethernet (R452 to R467) -/

/-- A message of a queue pair as requester: its transfer engine queue and command, the kind (0 READ, 1 WRITE, 2 SEND), the
first PSN and the packets, the peer address, key, local address, inline data (R95), the length, and the bytes or packets
already done. -/
structure EnMsg where
  te : Nat
  cmd : Nat
  op : Nat
  psn : Nat
  pkts : Nat
  va : Nat
  key : Nat
  lcl : Nat
  inl : Option (List Byte) := none
  len : Nat
  got : Nat
  deriving DecidableEq, Repr

/-- A queue pair beside its registers: messages in flight, oldest first, retransmissions and RNR NAKs in succession, the tick
of the last progress, the send rate in Gb/s (R463 is exact: numerator and denominator), the tick
of the last decrease and of the last change, and the tick of the last CNP sent. -/
structure Qp where
  msgs : List EnMsg := []
  retries : Nat := 0
  rnr : Nat := 0
  since : Nat := 0
  rateNum : Nat := 400
  rateDen : Nat := 1
  fell : Option Nat := none
  changed : Nat := 0
  cnpAt : Option Nat := none
  /-- SENDs delivered, of which EN_QPq_G.PROD holds the low 16 bits (R462). -/
  sends : Nat := 0
  deriving DecidableEq, Repr

/-- What a RoCEv2 packet carries. -/
inductive Roce where
  | cnp
  /-- A packet of a WRITE; the first carries address, key and length. -/
  | write (psn : Nat) (reth : Option (Nat × Nat × Nat)) (data : List Byte)
  | send (psn : Nat) (data : List Byte)
  | readReq (psn va key len : Nat)
  | readResp (psn : Nat) (data : List Byte)
  | ack (psn : Nat)
  /-- Syndrome 0 sequence, 2 remote access, 3 invalid request. -/
  | nak (psn syn : Nat)
  /-- A receiver-not-ready NAK and the time that it advertises, in µs. -/
  | rnr (psn us : Nat)
  deriving DecidableEq, Repr

/-- Ethernet addresses and the VLAN tag of a frame. -/
structure Eth where
  dst : Nat
  src : Nat
  vlan : Option Nat
  deriving DecidableEq, Repr

/-- The headers of a RoCEv2 packet (R453, Table 17-1): IP version, addresses, DSCP and ECN, UDP ports, and the peer's queue
pair. -/
structure RoceHdr where
  eth : Eth
  v6 : Bool
  sip : Nat
  dip : Nat
  dscp : Nat
  ecn : Nat
  sport : Nat
  dport : Nat
  dqpn : Nat
  deriving DecidableEq, Repr

/-- Frames that the port has sent: answers to address resolution with the address that asked, priority flow control with its
priority and pause time, and RoCEv2 packets of a queue pair. -/
inductive Frame where
  | arpReply (eth : Eth) (sip dip : Nat)
  | ndAdvert (eth : Eth) (sip dip : Nat)
  | pfc (src prio quanta : Nat)
  | roce (hdr : RoceHdr) (q : Nat) (pkt : Roce)
  deriving DecidableEq, Repr

/-- The Ethernet port beside its registers. -/
structure En where
  qps : Tbl Qp := []
  frames : List Frame := []
  /-- Bytes in the receive buffer, the tick of the last XOFF, and the tick until which the peer holds our priority. -/
  fill : Nat := 0
  xoffAt : Nat := 0
  pausedTo : Option Nat := none
  /-- Frames of the lossless priority that wait while the peer holds it or the link is down, oldest first. -/
  held : List Frame := []
  deriving DecidableEq, Repr

/-! ### The UCIe link and the environment -/

/-- The UCIe link of a channel, base-die side: its bad-lane record, the last map tested, the step of the training (0 none,
1 CAP awaited, 4 MAP awaited, 5 SEL awaited, 6 training, 7 safe width), the tick of that step, the rate found and the
exchange that failed last. -/
structure Uc where
  bad : Nat := 0
  tested : Nat := 2 ^ 68 - 1
  step : Nat := 0
  since : Nat := 0
  fast : Bool := false
  last : Nat := 0
  deriving DecidableEq, Repr

/-- One quantity of the environment (R500): the band of the last samples, how many successive samples lay in it, and how many
lay in a better band than the present one. -/
structure Band where
  seen : Nat := 0
  run : Nat := 0
  better : Nat := 0
  deriving DecidableEq, Repr


/-- What a channel hands to the host-port die at the end of a command: host-bound writes and reads, interrupt messages,
the alert of a severe event record, and a change of its power. -/
inductive HpdMsg where
  | alert
  | msix (vec : Nat)
  | hostWrite (tid addr : Nat) (bytes : List Byte) (block unit : Nat)
  | hostRead (tid addr len : Nat)
  | power (on : Bool)
  /-- A record of the host-port die about the channel, whose own log is out of reach (R544), with its time. -/
  | record (time block code sev detail : Nat)
  deriving DecidableEq, Repr

/-- One channel: its number (z coordinate, R15), the present tick of its clock, the tick of its last channel reset, its
memory, registers and what its blocks hold beside them. -/
structure Chan where
  num : Nat := 0
  now : Nat := 0
  t0 : Nat := 0
  /-- The tick of the last reset of the host-port die, whose records stand in the channel's log too (R541, R544). -/
  hpdT0 : Nat := 0
  /-- The model's own counter: the next free value (notes/assumptions/2.md). -/
  fresh : Nat := 0
  /-- The agents that wrote registers in the present MCLK cycle, by key: the cycle and the agent's place in the order of R561. -/
  wrs : Tbl (Nat × Nat) := []
  /-- Entries of the version store (slot, entry) that retire at the end of the present MCLK cycle (R265). -/
  retiring : List (Nat × Nat) := []
  mem : Tbl Byte := []
  regs : Tbl Reg := []
  /-- Upset symbols of memory codewords, by codeword number (address / 32): symbol and the bits that differ from what was
  written.  `mem` holds the data as written; the check bytes follow from them (R36). -/
  flaws : Tbl (List (Nat × Byte)) := []
  /-- The ticks at which the erasers of HBM and of the scratchpad began their present passes (R39). -/
  erase : Nat × Nat := (0, 0)
  log : Tbl EvRec := []
  /-- Per-second counts: limiter to (second, count) (R566). -/
  rate : Tbl (Nat × Nat) := []
  queues : Tbl Queue := []
  waiting : List Waiting := []
  ports : Tbl Port := []
  /-- Packets of the channel addressed to itself with the low member of their pair, oldest first (R28). -/
  loop : List (Nat × List Byte) := []
  /-- Remote operations outstanding, and those that wait for room, oldest first (R49, R364). -/
  ops : List Op := []
  opq : List Op := []
  nextTid : Nat := 0
  /-- Broken links known on each axis (R361). -/
  breaks : Tbl (List Nat) := []
  /-- TC0 messages held by the shaper, at most 64, those of units that wait for a place in it, oldest first, and the tick from
  which the next may leave (R370). -/
  tc0 : List (List Byte) := []
  tc0Wait : List (List Byte) := []
  tc0Next : Nat := 0
  /-- A fence asked for by a unit, with its cause; the service core performs it (R38, R404). -/
  fenceReq : Option Nat := none
  /-- Messages for the host-port die. -/
  out : List HpdMsg := []
  /-- Increments of the present MCLK cycle, by register: cycle, value before them, and what they add (R70, R152). -/
  cyc : Tbl (Nat × Nat × Nat) := []
  retakes : Tbl Retake := []
  /-- LESSON_CALLs outstanding, by launch. -/
  calls : Tbl Calls := []
  mes : Tbl Me := []
  /-- Data phases of the started commands of a queue, oldest first. -/
  phases : Tbl (List Phase) := []
  ves : Tbl Ve := []
  fss : Tbl Fs := []
  /-- Payload and descriptor bytes that a DELIVER has fetched so far: queue, command, offset, bytes. -/
  gathered : List (Nat × Nat × Nat × List Byte) := []
  slots : Tbl Slot := []
  /-- The next launch number, and the slot that the timetable served last (R251). -/
  nextLaunch : Nat := 0
  ttLast : Nat := 7
  uu : Option UuRun := none
  buddies : List Buddy := []
  bkts : List Bkt := []
  nextBkt : Nat := 0
  /-- Hall passes that each context holds for NEXT's staging area (R295). -/
  cePass : Tbl Nat := []
  /-- The units of the staging areas in use (R295). -/
  ceStage : List CeUnit := []
  /-- The installed chart's image (R331), and a term switch in its drain. -/
  chart : List Byte := []
  termSw : Option TermSw := none
  /-- Sections in the homeroom's boot store (R227, R518): place in the section table, type, bytes. -/
  sections : List (Nat × Nat × List Byte) := []
  boot : Boot := {}
  hbs : Tbl Hb := []
  hbSeq : Nat := 0
  hbSent : Nat := 0
  hbTick : Nat := 0
  /-- Seats and terms on which this channel has acted as coordinator, searches, and waits as alternate. -/
  acted : List (Nat × Nat × Nat) := []
  searches : List Search := []
  altWaits : List AltWait := []
  /-- The seats, with job and term, of which this alternate has had a first NOTICE or SUSPECT (R406). -/
  altHeard : List (Nat × Nat × Nat) := []
  /-- Bells that spread over the hall, each as its copies not yet sent (R395, R409). -/
  spread : List (List SpreadCopy) := []
  claim : Option Claim := none
  /-- RECOVER bells held with their arrival, those already forwarded, the one a spare holds and the one being applied. -/
  recovers : List (List Byte × Nat) := []
  recSeen : List (Nat × Nat × Nat) := []
  subRecover : Option (List Byte) := none
  applying : Option (List Byte) := none
  /-- When a fence reached order 4, until its order 5 (R405). -/
  fencedAt : Option Nat := none
  bootstrap : Option Bootstrap := none
  /-- The device-to-host messages that wait for the mailbox, oldest first (R440). -/
  mbOut : List (List Byte) := []
  mbWait : Bool := false
  cores : Tbl Core := []
  /-- The running-priority stacks by target, top first: source and priority (R215). -/
  prios : Tbl (List (Nat × Nat)) := []
  /-- The source last presented to target 5, and whether its message is still to be sent (R219). -/
  pres5 : Option Nat := none
  due5 : Bool := false
  ptrans : Option PTrans := none
  /-- Since when every engine queue has been idle (R223). -/
  quietSince : Option Nat := some 0
  /-- The compute die has no power. -/
  noCompute : Bool := false
  en : En := {}
  uc : Uc := {}
  bands : Tbl Band := []
  /-- The last control step (ms), sample of the environment (10 ms) and sample of the sensors (100 µs) of local time, from 1 on
  (R479, R480, R500), and the sensors that the last sample found invalid (bit n). -/
  thermTick : Nat := 0
  envTick : Nat := 0
  sampTick : Nat := 0
  sensBad : Nat := 0
  /-- The reference is lost or the root PLL is out of lock (R478). -/
  refLost : Bool := false
  /-- Host log entries held in the host-port die while the UCIe link is down (R443). -/
  hlogHeld : List (List Byte) := []
  /-- The host-port die's generation, as its last CAP gave it (R474). -/
  hpdGen : Nat := 0
  /-- HP_LINK.UP as the channel's CIC sees it (R450). -/
  hostUp : Bool := false
  /-- Host log: HLOG_OVERFLOW has been raised since the log was last not full (R443). -/
  hlogFull : Bool := false
  /-- A bit of HP_CHc_IRQ was set under HP_CHc_IRQ_EN (R426). -/
  irqWas : Bool := false
  deriving DecidableEq, Repr

/-! ### The host-port die -/

/-- A host-bound write on its way (R437): channel, transaction id (none once its last part is accepted), sequence number,
address, bytes, writer's block and unit. -/
structure HostWr where
  chan : Nat
  tid : Nat
  addr : Nat
  bytes : List Byte
  block : Nat
  unit : Nat
  seq : Nat
  deriving DecidableEq, Repr

/-- A host-bound read outstanding. -/
structure HostRd where
  chan : Nat
  tid : Nat
  addr : Nat
  len : Nat
  deriving DecidableEq, Repr

/-- A HDM decoder (R427). -/
structure Hdm where
  base : Nat := 0
  size : Nat := 0
  ways : Nat := 1
  commit : Bool := false
  lock : Bool := false
  deriving DecidableEq, Repr

/-- What the host last got back from the device, beside window reads: bytes of a register or of BAR2, a CXL.mem completion
without data, a return code and payload of the memory-device mailbox (Table 16-1). -/
inductive HostAns where
  | bytes (bs : List Byte)
  | cmp
  | mbox (code : Nat) (payload : List Byte)
  deriving DecidableEq, Repr

/-- A flash operation under way (R521). -/
structure FlashOp where
  op : Nat
  copy : Nat
  addr : Nat
  len : Nat
  began : Nat
  deriving DecidableEq, Repr

/-- The host-port die. -/
structure Hpd where
  now : Nat := 0
  t0 : Nat := 0
  fresh : Nat := 0
  regs : Tbl Reg := []
  /-- Its event log of 1,024 records and the non-volatile store of 64, with the records ever written to the store. -/
  log : Tbl EvRec := []
  nv : Tbl EvRec := []
  nvCount : Nat := 0
  rate : Tbl (Nat × Nat) := []
  /-- The syllabus flash; an unlisted byte is erased. -/
  flash : Tbl Byte := []
  secBuf : Tbl Byte := []
  sylBuf : Tbl Byte := []
  /-- The booted copy's header and section table, kept from P0 (R518), when P0 has ended well. -/
  header : Option (List Byte) := none
  /-- P0 has ended, well or not (R517). -/
  p0 : Bool := false
  /-- The public keys enrolled in slots 1 to 4; the fused digests of the keys of slots 0 to 4 and of the module's identity (R509). -/
  keys : Tbl (List Byte) := []
  keyFuses : Tbl (List Byte) := [(0, keyDigest nolerdaKey)]
  idFuse : List Byte := identityFuse
  /-- The key store: the identity key's seeds, until they are erased (R509, R537). -/
  seeds : Option (BitVec 768) := some Config.identitySeeds
  /-- A self-test has failed since module power good (R532). -/
  secFailed : Bool := false
  /-- A nonce that no UNLOCK or REVOKE has consumed is in force (R535). -/
  nonce : Bool := false
  /-- The operation of the security module under way (R538). -/
  secOp : Option Nat := none
  sylOp : Option FlashOp := none
  /-- MOD_PWRGD has risen, and the converters are on (R495, R497). -/
  good : Bool := false
  conv : Bool := true
  /-- Host-bound writes handed over by the channels, by channel; the channel served last; writes accepted and not yet
  acknowledged by the host's data link layer, oldest first (R423, R437, R442). -/
  inq : Tbl (List HostWr) := []
  lastIn : Nat := 3
  outb : List HostWr := []
  reads : List HostRd := []
  /-- What the last read through a window returned: poison and data (R428). -/
  winRd : Option (Bool × List Byte) := none
  /-- The PERM bits of the POLICY section in force (R525). -/
  perm : Nat := 0
  mps : Nat := 128
  /-- Mailbox areas: host to device by channel × 4096 + byte, and device to host (R440). -/
  h2d : Tbl Byte := []
  d2h : Tbl Byte := []
  /-- SEQ and LEN of the host's last message, by channel. -/
  h2dMsg : Tbl (Nat × Nat) := []
  hdm : Tbl Hdm := []
  /-- CXL.mem is enabled (R427); Max Read Request Size; D3hot; the AER status bits (Table 16-1). -/
  cxlMem : Bool := false
  mrrs : Nat := 512
  d3 : Bool := false
  aer : Nat := 0
  hostAns : Option HostAns := none
  /-- MSI-X table (address, data), masks (bit set: masked), pending bits, vectors sent, oldest first (R426). -/
  msix : Tbl (Nat × Nat) := []
  mask : Nat := 2 ^ 64 - 1
  pba : Nat := 0
  sent : List Nat := []
  /-- The lines that the management UART has answered, as ASCII characters without CR LF (R546). -/
  uart : List (List Byte) := []
  /-- MCTP endpoint id, and the answers sent over SMBus. -/
  eid : Nat := 0
  mctp : List (List Byte) := []
  /-- The die's own sensors: temperature, input voltage, current and power. -/
  sens : List Int := []
  /-- Bad-lane record of each channel's UCIe link, host-port die side (R470). -/
  bad : Tbl Nat := []
  deriving DecidableEq, Repr
/-- The state of the module. -/
structure State where
  ch : Vector Chan 4
  hpd : Hpd
  /-- Commands waiting, first in, first out. -/
  pending : List Instr
  deriving DecidableEq, Repr

/-- Faults of the model: none of its meanings ends in one. -/
inductive Fault where
  /-- Raised by nothing; kept so that the type is not empty.  Safe. -/
  | unused
  deriving DecidableEq, Repr

/-- Refusals. -/
inductive Refusal where
  /-- A command that has no meaning yet; raised by its arm in Machine/Dispatch.lean alone.  Safe. -/
  | notModelled (mnemonic : String)
  deriving DecidableEq, Repr

/-- Channel `n` after reset. -/
def resetChan (n : Nat) : Chan := { num := n, noCompute := true }

/-- The module right after reset: every register at its reset value, every queue and buffer empty, no time passed. -/
def State.reset : State :=
  { ch := #v[resetChan 0, resetChan 1, resetChan 2, resetChan 3], hpd := {}, pending := [] }

/-! ### One field set -/

def Chan.withNow (c : Chan) (x : Nat) : Chan := { c with now := x }
def Chan.withFresh (c : Chan) (x : Nat) : Chan := { c with fresh := x }
def Chan.withHpdT0 (c : Chan) (x : Nat) : Chan := { c with hpdT0 := x }
def Chan.withWrs (c : Chan) (x : Tbl (Nat × Nat)) : Chan := { c with wrs := x }
def Chan.withRetiring (c : Chan) (x : List (Nat × Nat)) : Chan := { c with retiring := x }
def Chan.withMem (c : Chan) (x : Tbl Byte) : Chan := { c with mem := x }
def Chan.withRegs (c : Chan) (x : Tbl Reg) : Chan := { c with regs := x }
def Chan.withFlaws (c : Chan) (x : Tbl (List (Nat × Byte))) : Chan := { c with flaws := x }
def Chan.withErase (c : Chan) (x : Nat × Nat) : Chan := { c with erase := x }
def Chan.withLog (c : Chan) (x : Tbl EvRec) : Chan := { c with log := x }
def Chan.withRate (c : Chan) (x : Tbl (Nat × Nat)) : Chan := { c with rate := x }
def Chan.withQueues (c : Chan) (x : Tbl Queue) : Chan := { c with queues := x }
def Chan.withWaiting (c : Chan) (x : List Waiting) : Chan := { c with waiting := x }
def Chan.withPorts (c : Chan) (x : Tbl Port) : Chan := { c with ports := x }
def Chan.withLoop (c : Chan) (x : List (Nat × List Byte)) : Chan := { c with loop := x }
def Chan.withOps (c : Chan) (x : List Op) : Chan := { c with ops := x }
def Chan.withOpq (c : Chan) (x : List Op) : Chan := { c with opq := x }
def Chan.withNextTid (c : Chan) (x : Nat) : Chan := { c with nextTid := x }
def Chan.withBreaks (c : Chan) (x : Tbl (List Nat)) : Chan := { c with breaks := x }
def Chan.withTc0 (c : Chan) (x : List (List Byte)) : Chan := { c with tc0 := x }
def Chan.withTc0Wait (c : Chan) (x : List (List Byte)) : Chan := { c with tc0Wait := x }
def Chan.withTc0Next (c : Chan) (x : Nat) : Chan := { c with tc0Next := x }
def Chan.withFenceReq (c : Chan) (x : Option Nat) : Chan := { c with fenceReq := x }
def Chan.withOut (c : Chan) (x : List HpdMsg) : Chan := { c with out := x }
def Chan.withCyc (c : Chan) (x : Tbl (Nat × Nat × Nat)) : Chan := { c with cyc := x }
def Chan.withRetakes (c : Chan) (x : Tbl Retake) : Chan := { c with retakes := x }
def Chan.withCalls (c : Chan) (x : Tbl Calls) : Chan := { c with calls := x }
def Chan.withMes (c : Chan) (x : Tbl Me) : Chan := { c with mes := x }
def Chan.withPhases (c : Chan) (x : Tbl (List Phase)) : Chan := { c with phases := x }
def Chan.withVes (c : Chan) (x : Tbl Ve) : Chan := { c with ves := x }
def Chan.withFss (c : Chan) (x : Tbl Fs) : Chan := { c with fss := x }
def Chan.withGathered (c : Chan) (x : List (Nat × Nat × Nat × List Byte)) : Chan := { c with gathered := x }
def Chan.withSlots (c : Chan) (x : Tbl Slot) : Chan := { c with slots := x }
def Chan.withNextLaunch (c : Chan) (x : Nat) : Chan := { c with nextLaunch := x }
def Chan.withTtLast (c : Chan) (x : Nat) : Chan := { c with ttLast := x }
def Chan.withUu (c : Chan) (x : Option UuRun) : Chan := { c with uu := x }
def Chan.withBuddies (c : Chan) (x : List Buddy) : Chan := { c with buddies := x }
def Chan.withBkts (c : Chan) (x : List Bkt) : Chan := { c with bkts := x }
def Chan.withNextBkt (c : Chan) (x : Nat) : Chan := { c with nextBkt := x }
def Chan.withCePass (c : Chan) (x : Tbl Nat) : Chan := { c with cePass := x }
def Chan.withCeStage (c : Chan) (x : List CeUnit) : Chan := { c with ceStage := x }
def Chan.withChart (c : Chan) (x : List Byte) : Chan := { c with chart := x }
def Chan.withTermSw (c : Chan) (x : Option TermSw) : Chan := { c with termSw := x }
def Chan.withSections (c : Chan) (x : List (Nat × Nat × List Byte)) : Chan := { c with sections := x }
def Chan.withBoot (c : Chan) (x : Boot) : Chan := { c with boot := x }
def Chan.withHbs (c : Chan) (x : Tbl Hb) : Chan := { c with hbs := x }
def Chan.withHbSeq (c : Chan) (x : Nat) : Chan := { c with hbSeq := x }
def Chan.withHbSent (c : Chan) (x : Nat) : Chan := { c with hbSent := x }
def Chan.withHbTick (c : Chan) (x : Nat) : Chan := { c with hbTick := x }
def Chan.withActed (c : Chan) (x : List (Nat × Nat × Nat)) : Chan := { c with acted := x }
def Chan.withSearches (c : Chan) (x : List Search) : Chan := { c with searches := x }
def Chan.withAltWaits (c : Chan) (x : List AltWait) : Chan := { c with altWaits := x }
def Chan.withAltHeard (c : Chan) (x : List (Nat × Nat × Nat)) : Chan := { c with altHeard := x }
def Chan.withSpread (c : Chan) (x : List (List SpreadCopy)) : Chan := { c with spread := x }
def Chan.withClaim (c : Chan) (x : Option Claim) : Chan := { c with claim := x }
def Chan.withRecovers (c : Chan) (x : List (List Byte × Nat)) : Chan := { c with recovers := x }
def Chan.withRecSeen (c : Chan) (x : List (Nat × Nat × Nat)) : Chan := { c with recSeen := x }
def Chan.withSubRecover (c : Chan) (x : Option (List Byte)) : Chan := { c with subRecover := x }
def Chan.withApplying (c : Chan) (x : Option (List Byte)) : Chan := { c with applying := x }
def Chan.withFencedAt (c : Chan) (x : Option Nat) : Chan := { c with fencedAt := x }
def Chan.withBootstrap (c : Chan) (x : Option Bootstrap) : Chan := { c with bootstrap := x }
def Chan.withMbOut (c : Chan) (x : List (List Byte)) : Chan := { c with mbOut := x }
def Chan.withMbWait (c : Chan) (x : Bool) : Chan := { c with mbWait := x }
def Chan.withCores (c : Chan) (x : Tbl Core) : Chan := { c with cores := x }
def Chan.withPrios (c : Chan) (x : Tbl (List (Nat × Nat))) : Chan := { c with prios := x }
def Chan.withPres5 (c : Chan) (x : Option Nat) : Chan := { c with pres5 := x }
def Chan.withDue5 (c : Chan) (x : Bool) : Chan := { c with due5 := x }
def Chan.withPtrans (c : Chan) (x : Option PTrans) : Chan := { c with ptrans := x }
def Chan.withQuietSince (c : Chan) (x : Option Nat) : Chan := { c with quietSince := x }
def Chan.withNoCompute (c : Chan) (x : Bool) : Chan := { c with noCompute := x }
def Chan.withEn (c : Chan) (x : En) : Chan := { c with en := x }
def Chan.withUc (c : Chan) (x : Uc) : Chan := { c with uc := x }
def Chan.withBands (c : Chan) (x : Tbl Band) : Chan := { c with bands := x }
def Chan.withThermTick (c : Chan) (x : Nat) : Chan := { c with thermTick := x }
def Chan.withEnvTick (c : Chan) (x : Nat) : Chan := { c with envTick := x }
def Chan.withSampTick (c : Chan) (x : Nat) : Chan := { c with sampTick := x }
def Chan.withSensBad (c : Chan) (x : Nat) : Chan := { c with sensBad := x }
def Chan.withHpdGen (c : Chan) (x : Nat) : Chan := { c with hpdGen := x }
def Chan.withRefLost (c : Chan) (x : Bool) : Chan := { c with refLost := x }
def Chan.withHlogHeld (c : Chan) (x : List (List Byte)) : Chan := { c with hlogHeld := x }
def Chan.withHostUp (c : Chan) (x : Bool) : Chan := { c with hostUp := x }
def Chan.withHlogFull (c : Chan) (x : Bool) : Chan := { c with hlogFull := x }
def Chan.withIrqWas (c : Chan) (x : Bool) : Chan := { c with irqWas := x }
def Hpd.withNow (h : Hpd) (x : Nat) : Hpd := { h with now := x }
def Hpd.withFresh (h : Hpd) (x : Nat) : Hpd := { h with fresh := x }
def Hpd.withRegs (h : Hpd) (x : Tbl Reg) : Hpd := { h with regs := x }
def Hpd.withLog (h : Hpd) (x : Tbl EvRec) : Hpd := { h with log := x }
def Hpd.withNv (h : Hpd) (x : Tbl EvRec) : Hpd := { h with nv := x }
def Hpd.withNvCount (h : Hpd) (x : Nat) : Hpd := { h with nvCount := x }
def Hpd.withRate (h : Hpd) (x : Tbl (Nat × Nat)) : Hpd := { h with rate := x }
def Hpd.withFlash (h : Hpd) (x : Tbl Byte) : Hpd := { h with flash := x }
def Hpd.withSecBuf (h : Hpd) (x : Tbl Byte) : Hpd := { h with secBuf := x }
def Hpd.withSylBuf (h : Hpd) (x : Tbl Byte) : Hpd := { h with sylBuf := x }
def Hpd.withHeader (h : Hpd) (x : Option (List Byte)) : Hpd := { h with header := x }
def Hpd.withP0 (h : Hpd) (x : Bool) : Hpd := { h with p0 := x }
def Hpd.withKeyFuses (h : Hpd) (x : Tbl (List Byte)) : Hpd := { h with keyFuses := x }
def Hpd.withKeys (h : Hpd) (x : Tbl (List Byte)) : Hpd := { h with keys := x }
def Hpd.withIdFuse (h : Hpd) (x : List Byte) : Hpd := { h with idFuse := x }
def Hpd.withSeeds (h : Hpd) (x : Option (BitVec 768)) : Hpd := { h with seeds := x }
def Hpd.withSecFailed (h : Hpd) (x : Bool) : Hpd := { h with secFailed := x }
def Hpd.withNonce (h : Hpd) (x : Bool) : Hpd := { h with nonce := x }
def Hpd.withSecOp (h : Hpd) (x : Option Nat) : Hpd := { h with secOp := x }
def Hpd.withSylOp (h : Hpd) (x : Option FlashOp) : Hpd := { h with sylOp := x }
def Hpd.withGood (h : Hpd) (x : Bool) : Hpd := { h with good := x }
def Hpd.withConv (h : Hpd) (x : Bool) : Hpd := { h with conv := x }
def Hpd.withInq (h : Hpd) (x : Tbl (List HostWr)) : Hpd := { h with inq := x }
def Hpd.withLastIn (h : Hpd) (x : Nat) : Hpd := { h with lastIn := x }
def Hpd.withOutb (h : Hpd) (x : List HostWr) : Hpd := { h with outb := x }
def Hpd.withReads (h : Hpd) (x : List HostRd) : Hpd := { h with reads := x }
def Hpd.withWinRd (h : Hpd) (x : Option (Bool × List Byte)) : Hpd := { h with winRd := x }
def Hpd.withPerm (h : Hpd) (x : Nat) : Hpd := { h with perm := x }
def Hpd.withMps (h : Hpd) (x : Nat) : Hpd := { h with mps := x }
def Hpd.withH2d (h : Hpd) (x : Tbl Byte) : Hpd := { h with h2d := x }
def Hpd.withD2h (h : Hpd) (x : Tbl Byte) : Hpd := { h with d2h := x }
def Hpd.withH2dMsg (h : Hpd) (x : Tbl (Nat × Nat)) : Hpd := { h with h2dMsg := x }
def Hpd.withHdm (h : Hpd) (x : Tbl Hdm) : Hpd := { h with hdm := x }
def Hpd.withCxlMem (h : Hpd) (x : Bool) : Hpd := { h with cxlMem := x }
def Hpd.withMrrs (h : Hpd) (x : Nat) : Hpd := { h with mrrs := x }
def Hpd.withD3 (h : Hpd) (x : Bool) : Hpd := { h with d3 := x }
def Hpd.withAer (h : Hpd) (x : Nat) : Hpd := { h with aer := x }
def Hpd.withHostAns (h : Hpd) (x : Option HostAns) : Hpd := { h with hostAns := x }
def Hpd.withMsix (h : Hpd) (x : Tbl (Nat × Nat)) : Hpd := { h with msix := x }
def Hpd.withMask (h : Hpd) (x : Nat) : Hpd := { h with mask := x }
def Hpd.withPba (h : Hpd) (x : Nat) : Hpd := { h with pba := x }
def Hpd.withSent (h : Hpd) (x : List Nat) : Hpd := { h with sent := x }
def Hpd.withUart (h : Hpd) (x : List (List Byte)) : Hpd := { h with uart := x }
def Hpd.withEid (h : Hpd) (x : Nat) : Hpd := { h with eid := x }
def Hpd.withMctp (h : Hpd) (x : List (List Byte)) : Hpd := { h with mctp := x }
def Hpd.withSens (h : Hpd) (x : List Int) : Hpd := { h with sens := x }
def Hpd.withBad (h : Hpd) (x : Tbl Nat) : Hpd := { h with bad := x }

end Sys2Proof.Machine
end

