-- ==== Sys2Proof/Machine/Ops.lean ====
section
/-!
DEFINITION. The named operations over registers, time, event records, memory and tokens.
-/
namespace Sys2Proof.Machine

/-! ### Registers of a channel -/

/-- The contents of the register at key `off`. -/
def Chan.rd (c : Chan) (off : Nat) : Nat := (tget (regReset c.num) c.regs off).toNat

/-- The register at key `off` set to `v`. -/
def Chan.wr (c : Chan) (off v : Nat) : Chan :=
  (c.withRegs (tput (regReset c.num) c.regs off (BitVec.ofNat 64 v)))

/-- A field of a register. -/
def Chan.gf (c : Chan) (f : Fld) : Nat := bits (c.rd f.off) f.lo f.w

/-- A field of a register set to the low bits of `v`; its other fields keep their values. -/
def Chan.sf (c : Chan) (f : Fld) (v : Nat) : Chan := c.wr f.off (setBits (c.rd f.off) f.lo f.w v)

/-- A one-bit field as a truth value. -/
def Chan.flag (c : Chan) (f : Fld) : Bool := c.gf f != 0

/-- A counter that wraps to zero, increased by `n`. -/
def Chan.count (c : Chan) (f : Fld) (n : Nat) : Chan := c.sf f (c.gf f + n)

/-- The registers whose keys lie in `[lo, hi)` back at their reset values. -/
def Chan.resetRange (c : Chan) (lo hi : Nat) : Chan := (c.withRegs (teraseRange lo hi c.regs))

/-! ### Registers of the host-port die -/

def Hpd.rd (h : Hpd) (off : Nat) : Nat := (tget hpdReset h.regs off).toNat
def Hpd.wr (h : Hpd) (off v : Nat) : Hpd := (h.withRegs (tput hpdReset h.regs off (BitVec.ofNat 64 v)))
def Hpd.gf (h : Hpd) (f : Fld) : Nat := bits (h.rd f.off) f.lo f.w
def Hpd.sf (h : Hpd) (f : Fld) (v : Nat) : Hpd := h.wr f.off (setBits (h.rd f.off) f.lo f.w v)
def Hpd.flag (h : Hpd) (f : Fld) : Bool := h.gf f != 0
def Hpd.count (h : Hpd) (f : Fld) (n : Nat) : Hpd := h.sf f (h.gf f + n)

/-! ### Access codes -/

/-- Is `v` reserved for the field (R8)? -/
def FieldDesc.isRsvd (f : FieldDesc) (v : Nat) : Bool := f.rsvd.any (fun r => r.1 ≤ v && v ≤ r.2)

/-- The effect of a register write on one field (Table 0-2, R8); WO fields act elsewhere and hold nothing. -/
def FieldDesc.write (f : FieldDesc) (old val : Nat) : Nat :=
  let x := bits val f.lo f.w
  let o := bits old f.lo f.w
  match f.acc with
  | .ro | .wo => old
  | .rw => if f.isRsvd x then old else setBits old f.lo f.w x
  | .w1c => setBits old f.lo f.w (o - (o &&& x))
  | .w1s => setBits old f.lo f.w (o ||| x)

/-- The effect of a register write on all its fields at once (R5, R8, R9). -/
def RegDesc.write (d : RegDesc) (old val : Nat) : Nat := d.fields.foldl (fun v f => f.write v val) old

/-- A write under the access codes alone, to a register of a channel. -/
def Chan.wrFields (c : Chan) (off val : Nat) : Chan :=
  match chanDesc off with
  | some d => c.wr off (d.write (c.rd off) val)
  | none => c

/-- A write under the access codes alone, to a register of the host-port die. -/
def Hpd.wrFields (h : Hpd) (off val : Nat) : Hpd :=
  match hpdDesc off with
  | some d => h.wr off (d.write (h.rd off) val)
  | none => h

/-! ### Time (R475, R477, R566) -/

/-- Root-clock ticks of one microsecond, one millisecond and one second. -/
def tUs : Nat := 4800
def tMs : Nat := 4800000
def tSec : Nat := 4800000000

/-- Local time of the channel in ns: it counts HCLK cycles of 40 ns since channel reset (R477). -/
def Chan.localNs (c : Chan) : Nat := (c.now - c.t0) / 192 * 40

/-- Local time in µs. -/
def Chan.localUs (c : Chan) : Nat := c.localNs / 1000

/-- Whole seconds of local time (R566). -/
def Chan.localSec (c : Chan) : Nat := (c.now - c.t0) / tSec

/-- The count of limiter `key` in the present second. -/
def Chan.rateCount (c : Chan) (key : Nat) : Nat :=
  let r := tget (fun _ => (0, 0)) c.rate key
  if r.1 = c.localSec then r.2 else 0

/-- One more of limiter `key` in the present second. -/
def Chan.rateBump (c : Chan) (key n : Nat) : Chan :=
  (c.withRate (tput (fun _ => (0, 0)) c.rate key (c.localSec, c.rateCount key + n)))

/-! ### Event records (R541, R542, R552) -/

/-- Detail bytes: (first byte, byte count, value), packed as record bytes [31:16]. -/
def det (l : List (Nat × Nat × Nat)) : Nat :=
  l.foldl (fun d e => d + e.2.2 % 256 ^ e.2.1 * 256 ^ (e.1 - 16)) 0

/-- R542: record `r` enters a log of `size` slots that holds `n` records so far: behind the records of earlier HCLK cycles, and
among those of its own cycle in ascending block id. -/
def logPut (size : Nat) (r : EvRec) : Nat → Nat → Tbl EvRec → Tbl EvRec
  | 0, n, l => tins (n % size) r (terase (n % size) l)
  | fuel + 1, n, l =>
    let p := (n + size - 1) % size
    match tget? p l with
    | some x =>
      if x.cyc = r.cyc ∧ r.block < x.block then logPut size r fuel p (tins (n % size) x (terase (n % size) l))
      else tins (n % size) r (terase (n % size) l)
    | none => tins (n % size) r (terase (n % size) l)

/-- A record with its time enters the channel's log (R542); one of severity 2 or 3 raises the alert (R552). -/
def Chan.evAt (c : Chan) (time block code sev detail : Nat) : Chan :=
  let n := c.gf HR_LOG_STAT.WCNT
  let r : EvRec :=
    { time := time, block := block, code := code, sev := sev, chan := c.num, detail := detail, cyc := (c.now - c.t0) / 192 }
  let c := c.withLog (logPut 4096 r 4095 n c.log)
  let c := c.sf HR_LOG_STAT.WCNT (n + 1)
  if sev ≥ 2 then (c.withOut (c.out ++ [.alert])) else c

/-- A record of the channel itself. -/
def Chan.ev (c : Chan) (block code sev detail : Nat) : Chan := c.evAt c.localNs block code sev detail

/-- Local time of the host-port die in ns (R541). -/
def Chan.hpdNs (c : Chan) : Nat := (c.now - c.hpdT0) / 192 * 40

/-- The UCIe link carries traffic: UP, or the safe width. -/
def Chan.ucUp (c : Chan) : Bool := c.gf UC_STAT.STATE == 2 || c.gf UC_STAT.STATE == 3

/-- A record of the host-port die about the channel: in the channel's log, or held for `handRest` while the link carries nothing
(R544). -/
def Chan.hpdEv (c : Chan) (block code sev detail : Nat) : Chan :=
  if c.ucUp then c.evAt c.hpdNs block code sev detail else (c.withOut (c.out ++ [.record c.hpdNs block code sev detail]))

/-- Records that the host-port die held while the link trained enter the channel's log. -/
def Chan.takeRecords (c : Chan) : Chan :=
  if c.ucUp then
    c.out.foldl (fun c m => match m with | .record t b code sev d => c.evAt t b code sev d | _ => c)
      (c.withOut (c.out.filter (fun m => match m with | .record .. => false | _ => true)))
  else c

/-- A record that at most `limit` per second may raise (limiter `key`). -/
def Chan.evLim (c : Chan) (key limit block code sev detail : Nat) : Chan :=
  let k := c.rateCount key
  let c := c.rateBump key 1
  if k < limit then c.ev block code sev detail else c

/-- The 32 bytes of a record (Table 21-1). -/
def EvRec.bytes (r : EvRec) : List Byte :=
  leBytes 8 r.time ++ leBytes 2 r.block ++ leBytes 2 r.code ++ leBytes 1 r.sev ++ leBytes 1 r.chan ++ leBytes 2 0 ++
  leBytes 16 r.detail

/-! ### The channel-local map (R30, Table 2-3) -/

def hbmSize : Nat := 0x4000000000
def spBase : Nat := 0x4000000000
def spSize : Nat := 0x20000000
def regBase : Nat := 0x6000000000
def regSize : Nat := 0x4000000

/-- The extent of `n` bytes at `a` lies in HBM. -/
def inHbm (a n : Nat) : Bool := a < hbmSize && a + n ≤ hbmSize

/-- The extent lies in the scratchpad. -/
def inSp (a n : Nat) : Bool := spBase ≤ a && a < spBase + spSize && a + n ≤ spBase + spSize

/-- The extent lies wholly in HBM or wholly in the scratchpad. -/
def inMem (a n : Nat) : Bool := inHbm a n || inSp a n

/-- The extent lies in the channel register window. -/
def inRegs (a n : Nat) : Bool := regBase ≤ a && a + n ≤ regBase + regSize

/-- R33: the place of HBM address `a`: stack, channel of the stack, pseudo-channel and byte offset within it. -/
def hbmPlace (a : Nat) : Nat × Nat × Nat × Nat :=
  let pc := (bits a 8 6) ^^^ (bits a 14 6) ^^^ (bits a 20 6) ^^^ (bits a 26 6) ^^^ (bits a 32 6)
  (bits pc 5 1, bits pc 1 4, bits pc 0 1, bits a 14 24 * 256 + bits a 0 8)

/-- R35: the bank of scratchpad offset `s` and the byte offset within it. -/
def spPlace (s : Nat) : Nat × Nat :=
  ((bits s 6 8) ^^^ (bits s 14 8), bits s 14 15 * 64 + bits s 0 6)

/-! ### Memory contents -/

/-- What a byte of memory that nothing has written reads as. -/
def memDefault : Nat → Byte := fun _ => 0

/-- The byte at channel-local address `a`. -/
def Chan.byte (c : Chan) (a : Nat) : Byte := tget memDefault c.mem a

/-- `n` bytes from `a`. -/
def Chan.peek (c : Chan) (a n : Nat) : List Byte := (List.range n).map (fun i => c.byte (a + i))

/-- A little-endian number of `n` bytes at `a`. -/
def Chan.peekLe (c : Chan) (a n : Nat) : Nat := ofLe (c.peek a n)

/-- Bytes written from address `a` on. -/
def pokeMem (m : Tbl Byte) : Nat → List Byte → Tbl Byte
  | _, [] => m
  | a, b :: r => pokeMem (tput memDefault m a b) (a + 1) r

def Chan.poke (c : Chan) (a : Nat) (bs : List Byte) : Chan := (c.withMem (pokeMem c.mem a bs))

/-- The canonical form of memory: addresses strictly rising, no entry equal to an unwritten byte. -/
def Memory.wf (m : Tbl Byte) : Bool := twf memDefault m

/-! ### The symbol code (R34, R36 to R38, R45, R46) -/

/-- Register base and block id of the memory that holds address `a`. -/
def memBlk (a : Nat) : Nat × Nat := if a < spBase then (0xB0000, 0x0A) else (0xC0000, 0x0B)

/-- Limiters: corrections of HBM and of the scratchpad. -/
def limEcc (a : Nat) : Nat := if a < spBase then 1 else 2

/-- A bit of the block's IRQ register is latched (R46). -/
def Chan.memIrq (c : Chan) (a b : Nat) : Chan := c.sf ⟨(memBlk a).1 + 0x120, b, 1⟩ 1

/-- R37, R45: one symbol of the codeword at `a` is corrected; `src` is 0 for an access, 1 for the eraser. -/
def Chan.correct (c : Chan) (src a sym : Nat) : Chan :=
  let (base, blk) := memBlk a
  let n := c.gf ⟨base + 0x100, 0, 32⟩
  let c := c.sf ⟨base + 0x100, 0, 32⟩ (if n = 0xFFFFFFFF then n else n + 1)
  let c := c.wr (base + 0x108) (a / 32 * 32 + sym * 2 ^ 40 + src * 2 ^ 48)
  let c := c.memIrq a 0
  let c := (c.withFlaws (terase (a / 32) c.flaws))
  let k := c.rateCount (limEcc a)
  let c := c.rateBump (limEcc a) 1
  let d := det [(16, 5, a), (21, 1, sym), (22, 1, src)]
  if k < 1000 then c.ev blk 0x0001 1 d
  else if k = 1000 then (c.ev blk 0x0004 1 d).memIrq a 3
  else c

/-- R38: an uncorrectable codeword: event, IRQ bit, and the service core fences the channel with cause
MEM_UNCORRECTABLE. -/
def Chan.uncorrectable (c : Chan) (src a : Nat) : Chan :=
  let c := c.ev (memBlk a).2 0x0002 3 (det [(16, 5, a), (21, 1, 0xFF), (22, 1, src)])
  let c := c.memIrq a 1
  (c.withFenceReq (if c.fenceReq.isSome then c.fenceReq else some 2))

/-- The 36 symbols that the memory holds for a codeword: data and check bytes as written, with the upsets `errs`. -/
def Chan.codeword (c : Chan) (cw : Nat) (errs : List (Nat × Byte)) : List Byte :=
  rsUpset (rsEncode (c.peek (cw * 32) 32)) errs

/-- A read of one codeword whose symbols have been upset by `errs`: true when it is uncorrectable.  The corrected data are the
data as written.  For four or more bad symbols the code gives no guarantee (R36; free value). -/
def Chan.readCodeword (c : Chan) (src cw : Nat) (errs : List (Nat × Byte)) : Bool × Chan :=
  if errs.length < 4 then
    match rsDecode (c.codeword cw errs) with
    | .clean => (false, c)
    | .one sym _ => (false, c.correct src (cw * 32) sym)
    | .bad => (true, c.uncorrectable src (cw * 32))
  else
    let w := c.codeword cw errs
    if Config.eccMiss w then
      (false, (c.poke (cw * 32) ((List.range 32).map (Config.eccByte w))).withFlaws (terase cw c.flaws))
    else (true, c.uncorrectable src (cw * 32))

/-- The codewords of `[a, a + n)` that have bad symbols. -/
def Chan.flawsIn (c : Chan) (a n : Nat) : Tbl (List (Nat × Byte)) :=
  if n = 0 then [] else c.flaws.filter (fun f => a / 32 ≤ f.1 && f.1 ≤ (a + n - 1) / 32)

/-- A read access to `[a, a + n)`: true when a codeword of it is uncorrectable. -/
def Chan.access (c : Chan) (src a n : Nat) : Bool × Chan :=
  (c.flawsIn a n).foldl (fun r f =>
    let (bad, c) := r.2.readCodeword src f.1 f.2
    (r.1 || bad, c)) (false, c)

/-- A checked read: `none` when a codeword is uncorrectable. -/
def Chan.load (c : Chan) (a n : Nat) : Option (List Byte) × Chan :=
  let (bad, c) := c.access 0 a n
  (if bad then none else some (c.peek a n), c)

/-- R34: the part of a write that falls into one codeword.  A whole codeword is written afresh; a part is merged, which
reads the codeword first and is discarded when that finds it uncorrectable. -/
def Chan.storeCw (c : Chan) (a : Nat) (bs : List Byte) : Bool × Chan :=
  let cw := a / 32
  match tget? cw c.flaws with
  | none => (false, c.poke a bs)
  | some syms =>
    if bs.length = 32 then (false, ((c.poke a bs).withFlaws (terase cw c.flaws)))
    else
      let (bad, c) := c.readCodeword 0 cw syms
      if bad then (true, c) else (false, c.poke a bs)

/-- A write cut at codeword boundaries; `fuel` bounds the number of pieces. -/
def Chan.storeAux : Nat → Chan → Nat → List Byte → Bool × Chan
  | 0, c, _, _ => (false, c)
  | fuel + 1, c, a, bs =>
    if bs.isEmpty then (false, c)
    else
      let k := 32 - a % 32
      let (bad, c) := c.storeCw a (bs.take k)
      let (bad', c) := Chan.storeAux fuel c (a + k) (bs.drop k)
      (bad || bad', c)

/-- A checked write: true when a partial codeword was uncorrectable and so not written. -/
def Chan.store (c : Chan) (a : Nat) (bs : List Byte) : Bool × Chan :=
  if (c.flawsIn a bs.length).isEmpty then (false, c.poke a bs)
  else Chan.storeAux (bs.length / 32 + 2) c a bs

/-! ### Global addresses (R25 to R31) -/

/-- What a 64-bit global address names. -/
inductive Loc where
  | lcl (a : Nat)
  | fab (node a : Nat)
  | host (pa : Nat)
  | bad
  deriving DecidableEq, Repr

/-- R25, R26: the form of a global address; reserved spaces and non-zero reserved bits are refused (R27). -/
def locOf (g : Nat) : Loc :=
  match bits g 62 2 with
  | 0 => if bits g 40 22 = 0 then .lcl (bits g 0 40) else .bad
  | 1 => if bits g 40 4 = 0 then .fab (bits g 44 18) (bits g 0 40) else .bad
  | 2 => if bits g 52 10 = 0 then .host (bits g 0 52) else .bad
  | _ => .bad

/-- R27, R30, R31: may an engine name the extent of `n` bytes at global address `g`? -/
def extentOk (g n : Nat) : Bool :=
  match locOf g with
  | .lcl a => inMem a n
  | .fab _ a => inMem a n
  | .host pa => pa + n ≤ 2 ^ 52
  | .bad => false

/-- The global address of a place in another channel (R25). -/
def fabAddr (node a : Nat) : Nat := 2 ^ 62 + node * 2 ^ 44 + a

/-- Node ids: x[17:9], y[8:2], z[1:0] (R25). -/
def nodeX (n : Nat) : Nat := bits n 9 9
def nodeY (n : Nat) : Nat := bits n 2 7
def nodeZ (n : Nat) : Nat := bits n 0 2
def mkNode (x y z : Nat) : Nat := x * 512 + y * 4 + z

/-- The channel's own node id (R372). -/
def Chan.node (c : Chan) : Nat := c.gf CS_CFG.NODE

/-! ### Tokens (R68 to R70) -/

/-- A token counter. -/
def Chan.tok (c : Chan) (i : Nat) : Nat := c.gf (CH_TOK.VALUE (i % 256))

/-- The value of a register before the increments of the present MCLK cycle, and their sum. -/
def Chan.cycOf (c : Chan) (off : Nat) : Nat × Nat :=
  match tget? off c.cyc with
  | some (k, old, sum) => if k = c.now / 4 then (old, sum) else (c.rd off, 0)
  | none => (c.rd off, 0)

/-- The increments of the present cycle noted for a register. -/
def Chan.noteCyc (c : Chan) (off old sum : Nat) : Chan :=
  (c.withCyc (tins off (c.now / 4, old, sum) (terase off c.cyc)))

/-- The hardware has written the register with precedence over the register writes of the present cycle (R266, R337). -/
def Chan.claimReg (c : Chan) (off : Nat) : Chan := c.noteCyc off 0 1
def Chan.claimed (c : Chan) (off : Nat) : Bool := (c.cycOf off).2 != 0

/-- A token counter as a wait sees it: without the increments of the present cycle, of which more may come (R70). -/
def Chan.tokSeen (c : Chan) (i : Nat) : Nat := (c.cycOf (CH_TOK.off (i % 256))).1

/-- R69: the wait (i, t) is satisfied. -/
def Chan.tokOk (c : Chan) (i t : Nat) : Bool := notEarlier 32 (c.tokSeen i) t

/-- R70: a signal adds its increment modulo 2^32. -/
def Chan.signal (c : Chan) (i n : Nat) : Chan :=
  let off := CH_TOK.off (i % 256)
  let (old, sum) := c.cycOf off
  (c.noteCyc off old (sum + n)).count (CH_TOK.VALUE (i % 256)) n

/-- R70: a register write to a counter is applied before the increments of its own cycle. -/
def Chan.tokWrite (c : Chan) (i v : Nat) : Chan :=
  let off := CH_TOK.off (i % 256)
  let (_, sum) := c.cycOf off
  (c.noteCyc off (v % 2 ^ 32) sum).sf (CH_TOK.VALUE (i % 256)) (v + sum)

/-! ### The next free value -/

/-- The number of the next free value, with the counter advanced. -/
def Chan.free (c : Chan) : Nat × Chan := (c.fresh, (c.withFresh (c.fresh + 1)))

/-! ### The module -/

/-- One channel of the module. -/
def State.chan (s : State) (n : Fin 4) : Chan := s.ch[n]

/-- One channel replaced. -/
def State.setChan (s : State) (n : Fin 4) (c : Chan) : State := { s with ch := s.ch.set n c }

/-- One channel changed. -/
def State.onChan (s : State) (n : Fin 4) (f : Chan → Chan) : State := s.setChan n (f (s.chan n))

/-- The host-port die changed. -/
def State.onHpd (s : State) (f : Hpd → Hpd) : State := { s with hpd := f s.hpd }

end Sys2Proof.Machine
end

