-- ==== Sys2Proof/Machine/Packet.lean ====
section
/-!
DEFINITION. Flits and packets as bytes (R349, R354): Tables 13-2, 13-3, 13-6 and 13-7.
-/
namespace Sys2Proof.Machine

/-! ### The flit CRC (R349) -/

/-- Eight steps of the reflected CRC of IEEE 802.3. -/
def crcBits : Nat → Nat → Nat
  | 0, r => r
  | n + 1, r => crcBits n (if r % 2 = 1 then (r / 2) ^^^ 0xEDB88320 else r / 2)

/-- The running remainder over bytes. -/
def crcRun : List Byte → Nat → Nat
  | [], r => r
  | b :: t, r => crcRun t (crcBits 8 (r ^^^ b.toNat))

/-- The frame check sequence of a byte string. -/
def crc32 (bs : List Byte) : Nat := crcRun bs 0xFFFFFFFF ^^^ 0xFFFFFFFF

/-! ### Flits -/

/-- A flit's fields (Table 13-2). -/
structure Flit where
  lseq : Nat
  vc : Nat
  kind : Nat
  plen : Nat
  ackSeq : Nat
  crVc : Nat
  crEn : Bool
  crCnt : Nat
  payload : List Byte
  deriving DecidableEq, Repr

/-- Exactly `n` bytes: a byte string cut or filled up with zeros. -/
def padTo : Nat → List Byte → List Byte
  | 0, _ => []
  | n + 1, [] => 0 :: padTo n []
  | n + 1, b :: r => b :: padTo n r

/-- The 252 bytes that the CRC covers. -/
def Flit.body (f : Flit) : List Byte :=
  leBytes 2 f.lseq ++ leBytes 1 (f.vc % 16 + f.kind % 8 * 16) ++ leBytes 1 f.plen ++ leBytes 2 f.ackSeq ++
  leBytes 1 (f.crVc % 16 + b2n f.crEn * 16) ++ leBytes 1 f.crCnt ++ leBytes 4 0 ++ padTo 240 f.payload

/-- The 256 bytes of a flit. -/
def Flit.bytes (f : Flit) : List Byte := f.body ++ leBytes 4 (crc32 f.body)

/-- Do 256 bytes carry a good CRC? -/
def flitOk (bs : List Byte) : Bool := bs.length == 256 && leAt bs 252 4 == crc32 (bs.take 252)

/-- The fields of a flit's bytes; the payload is cut to PLEN. -/
def parseFlit (bs : List Byte) : Flit :=
  { lseq := leAt bs 0 2, vc := leAt bs 2 1 % 16, kind := bits (leAt bs 2 1) 4 3, plen := leAt bs 3 1
    ackSeq := leAt bs 4 2, crVc := leAt bs 6 1 % 16, crEn := bit (leAt bs 6 1) 4, crCnt := leAt bs 7 1
    payload := (bs.drop 12).take (min 240 (leAt bs 3 1)) }

/-! ### Packets -/

/-- The bytes of a packet (Table 13-6). -/
def Pkt.bytes (p : Pkt) : List Byte :=
  leBytes 1 p.ptype ++ leBytes 1 p.hops ++ leBytes 1 p.dirs ++ leBytes 1 p.err ++ leBytes 3 p.dst ++ leBytes 3 p.src ++
  leBytes 2 p.tid ++ leBytes 2 p.len ++ leBytes 2 p.aux ++ leBytes 8 p.addr ++ leBytes 8 p.aux2 ++ p.data

/-- The packet that bytes spell. -/
def parsePkt (bs : List Byte) : Pkt :=
  { ptype := leAt bs 0 1, hops := leAt bs 1 1, dirs := leAt bs 2 1, err := leAt bs 3 1
    dst := leAt bs 4 3 % 2 ^ 18, src := leAt bs 7 3 % 2 ^ 18, tid := leAt bs 10 2 % 2 ^ 13, len := leAt bs 12 2
    aux := leAt bs 14 2, addr := leAt bs 16 8, aux2 := leAt bs 24 8, data := bs.drop 32 }

/-- Flits that a packet of `n` bytes occupies (R354). -/
def flitsOf (n : Nat) : Nat := (n + 239) / 240

/-- A packet with nothing in it. -/
def pkt0 : Pkt :=
  { ptype := 0, hops := 0, dirs := 0, err := 0, dst := 0, src := 0, tid := 0, len := 0, aux := 0, addr := 0, aux2 := 0,
    data := [] }

/-- Packet types (Table 13-7). -/
def pREAD : Nat := 0x01
def pWRITE : Nat := 0x02
def pATOMIC : Nat := 0x03
def pDELIVER_DATA : Nat := 0x08
def pDELIVER_DESC : Nat := 0x09
def pDELIVER_X : Nat := 0x0A
def pPASS : Nat := 0x0B
def pCE_PARTIAL : Nat := 0x10
def pBELL : Nat := 0x20
def pREAD_DATA : Nat := 0x40
def pWRITE_ACK : Nat := 0x41
def pATOMIC_DATA : Nat := 0x42
def pERROR_RESP : Nat := 0x43

def ptypeKnown (t : Nat) : Bool :=
  [pREAD, pWRITE, pATOMIC, pDELIVER_DATA, pDELIVER_DESC, pDELIVER_X, pPASS, pCE_PARTIAL, pBELL, pREAD_DATA, pWRITE_ACK,
   pATOMIC_DATA, pERROR_RESP].contains t

/-- Is the packet answered by a response (R355)? -/
def Pkt.isRequest (p : Pkt) : Bool :=
  [pREAD, pWRITE, pATOMIC, pDELIVER_DATA, pDELIVER_DESC, pDELIVER_X, pCE_PARTIAL].contains p.ptype

/-- Bell kinds (Table 13-9). -/
def bellKind (p : Pkt) : Nat := p.aux % 256

def bellKnown (k : Nat) : Bool := 1 ≤ k && k ≤ 8

/-- A bell. -/
def bell (kind src dst : Nat) (data : List Byte) : Pkt :=
  { pkt0 with ptype := pBELL, src := src, dst := dst, aux := kind, len := data.length, data := data }

/-- The low member of the pair of virtual channels that carries a packet type (Table 13-10); CE_PARTIAL and the PASS of a
context name their own pair. -/
def lowVc (ptype : Nat) : Nat :=
  if ptype = pBELL then 0
  else if [pDELIVER_DATA, pDELIVER_DESC, pDELIVER_X, pPASS].contains ptype then 2
  else if ptype = pCE_PARTIAL then 4
  else if [pREAD, pWRITE, pATOMIC].contains ptype then 12
  else 14

/-- The class of a virtual channel: 0 to 3, and 4 for the response pair. -/
def classOf (vc : Nat) : Nat :=
  if vc < 2 then 0 else if vc < 4 then 1 else if vc < 12 then 2 else if vc < 14 then 3 else 4

/-- The flits of a packet's bytes from byte 0 on: kind and payload. -/
def flitAt (bs : List Byte) (i : Nat) : Nat × List Byte :=
  let n := flitsOf bs.length
  (if n ≤ 1 then 1 else if i = 0 then 2 else if i + 1 = n then 4 else 3, (bs.drop (240 * i)).take 240)

end Sys2Proof.Machine
end

