-- ==== Sys2Proof/Machine/Operands.lean ====
section
/-!
DEFINITION. The fields and operands of commands (R65, R66): header, waits and signals, based and inline operands, and
the address step of R78.
-/
namespace Sys2Proof.Machine

/-- Bytes [hi:lo] of a command as a number. -/
def fieldOf (raw : List Byte) (lo hi : Nat) : Nat := leAt raw lo (hi + 1 - lo)

/-- Header fields (Table 3-3). -/
def opcodeOf (raw : List Byte) : Nat := fieldOf raw 0 0
def extOf (raw : List Byte) : Bool := bit (fieldOf raw 1 1) 0
def serialOf (raw : List Byte) : Bool := bit (fieldOf raw 1 1) 1
def evtOf (raw : List Byte) : Bool := bit (fieldOf raw 1 1) 2
def tagOf (raw : List Byte) : Nat := bits (fieldOf raw 2 3) 0 12
def tokenOf (raw : List Byte) : Nat := fieldOf raw 20 20
def ilenOf (raw : List Byte) : Nat := fieldOf raw 21 21

/-- A command with any REL bit set. -/
def relOf (raw : List Byte) : Bool := bits (tokenOf raw) 4 4 != 0

/-- The enabled waits of a command (index, threshold), relocated by the segment where REL is set (R69). -/
def waitsOf (seg : Option Seg) (raw : List Byte) : List (Nat × Nat) :=
  (List.range 2).filterMap (fun k =>
    if bit (tokenOf raw) k then
      let i := fieldOf raw (4 + k) (4 + k)
      let t := fieldOf raw (8 + 4 * k) (11 + 4 * k)
      match seg with
      | some sg => if bit (tokenOf raw) (4 + k) then some ((sg.twin + i) % 256, (sg.tbias + t) % 2 ^ 32) else some (i, t)
      | none => some (i, t)
    else none)

/-- The enabled signals of a command (index, increment), relocated where REL is set (R70). -/
def sigsOf (seg : Option Seg) (raw : List Byte) : List (Nat × Nat) :=
  (List.range 2).filterMap (fun k =>
    if bit (tokenOf raw) (2 + k) then
      let i := fieldOf raw (6 + k) (6 + k)
      let n := fieldOf raw (16 + 2 * k) (17 + 2 * k)
      match seg with
      | some sg => if bit (tokenOf raw) (6 + k) then some ((sg.twin + i) % 256, n) else some (i, n)
      | none => some (i, n)
    else none)

/-- The byte offset, in the command, of the index field of each enabled signal: 6 or 7. -/
def sigFieldsOf (raw : List Byte) : List Nat :=
  (List.range 2).filterMap (fun k => if bit (tokenOf raw) (2 + k) then some (6 + k) else none)

/-- An address field resolved (R66). -/
inductive Opd where
  /-- Inline payload from byte `pos` of the command. -/
  | inl (pos : Nat)
  /-- A global address. -/
  | addr (g : Nat)
  /-- A based operand outside a lesson segment (row 1 of Table 3-8). -/
  | noBase
  /-- A form that the field may not have: FIELD_INVALID. -/
  | bad
  deriving DecidableEq, Repr

/-- R66: the address field at byte `off` of a command, as a source or a destination of `n` bytes. -/
def operand (seg : Option Seg) (raw : List Byte) (off : Nat) (src : Bool) (n : Nat) : Opd :=
  let v := fieldOf raw off (off + 7)
  if bits v 62 2 ≠ 3 then .addr v
  else if bits v 48 8 ≠ 0 ∨ bits v 60 2 ≠ 0 then .bad
  else if bit v 59 then
    if bits v 56 3 ≠ 0 ∨ bits v 8 40 ≠ 0 ∨ src = false then .bad
    else if bits v 0 8 + n ≤ 8 * ilenOf raw then .inl (64 + bits v 0 8)
    else .bad
  else
    match seg with
    | none => .noBase
    | some sg => .addr (ofSigned 64 (((nth 0 sg.bases (bits v 56 3) : Nat) : Int) + toSigned 48 v))

/-- The field step of R78 for an address field: its byte offset where the form is wrong. -/
def opdField (seg : Option Seg) (raw : List Byte) (off : Nat) (src : Bool) (n : Nat) : List Nat :=
  if operand seg raw off src n = .bad then [off] else []

/-- The address step of R78 for an address field of `n` bytes: its byte offset where it is refused (R27, R30, R31). -/
def opdAddr (seg : Option Seg) (raw : List Byte) (off : Nat) (src : Bool) (n : Nat) : List Nat :=
  match operand seg raw off src n with
  | .addr g => if extentOk g n then [] else [off]
  | _ => []

/-- The extent of rows of `len` bytes whose starts lie `stride` apart. -/
def rowsExtent (rows len stride : Nat) : Nat := if rows = 0 then 0 else (rows - 1) * stride + len

/-- Does the operand need a lesson's base registers, outside a lesson? -/
def opdNoBase (seg : Option Seg) (raw : List Byte) (off : Nat) : Bool :=
  operand seg raw off true 0 = .noBase

/-- Bytes [hi:lo] that must be zero: their offset where they are not. -/
def zeroField (raw : List Byte) (lo hi : Nat) : List Nat := if fieldOf raw lo hi = 0 then [] else [lo]

/-- A field that must satisfy a condition: its offset where it does not. -/
def mustBe (off : Nat) (ok : Bool) : List Nat := if ok then [] else [off]

/-- The header checks of R67 (Table 3-3): FLAGS, TAG, ILEN and bytes [23:22]. -/
def headerFields (raw : List Byte) : List Nat :=
  mustBe 1 (bits (fieldOf raw 1 1) 3 5 = 0) ++ mustBe 2 (bits (fieldOf raw 2 3) 12 4 = 0) ++
  mustBe 21 (if extOf raw then ilenOf raw ≤ 24 else ilenOf raw = 0) ++ zeroField raw 22 23

/-- The block id of the unit that owns a queue (Table 1-4). -/
def blockOfQ (q : Nat) : Nat :=
  if q < 0x10 then 0x01 else if q < 0x14 then 0x02 else if q = 0x14 then 0x04
  else if q < 0x20 then 0x05 else if q = 0x20 then 0x06 else 0x20

/-- Kinds of queue. -/
def isMe (q : Nat) : Bool := q < 0x10
def isVe (q : Nat) : Bool := 0x10 ≤ q && q < 0x14
def isUu (q : Nat) : Bool := q == 0x14
def isTe (q : Nat) : Bool := 0x18 ≤ q && q < 0x20
def isCe (q : Nat) : Bool := q == 0x20

/-- The queue ids of Table 3-1. -/
def qidOk (q : Nat) : Bool := isMe q || isVe q || isUu q || isTe q || isCe q

/-- All queue ids, ascending. -/
def allQueues : List Nat := (List.range 0x21).filter qidOk

/-- R66, Tables 3-4, 3-5 and 16-5: the opcodes defined for a queue. -/
def opDefined (op q : Nat) : Bool :=
  (op ≤ 0x01) || (op == 0x02 || op == 0x03) && q != 0x80 || (0x60 ≤ op && op ≤ 0x64) && q == 0x80 ||
  (op == 0x04 || op == 0x05) && (isMe q || isVe q || isUu q) ||
  (op == 0x06 || (0x20 ≤ op && op ≤ 0x26)) && isTe q ||
  (0x10 ≤ op && op ≤ 0x14) && isMe q ||
  (0x30 ≤ op && op ≤ 0x34) && isVe q ||
  (op == 0x40 || op == 0x41) && isUu q ||
  (0x50 ≤ op && op ≤ 0x52) && isCe q

/-- Issue windows: started commands of a queue that run at once (R71; ME 4, VE 2, UU 1, TE 8, CE 16). -/
def windowOf (q : Nat) : Nat :=
  if isMe q then 4 else if isVe q then 2 else if isTe q then 8 else if isCe q then 16 else 1

end Sys2Proof.Machine
end

