-- ==== Sys2Proof/Machine/Queue.lean ====
section
/-!
DEFINITION. Engine queues (R61 to R92): rings and appends, the head, waits, checks, start, completion, signals, halts and
queue actions.  The units' chapters supply, for each opcode, its checks and what its start does (`CmdSpec`).
-/
namespace Sys2Proof.Machine

/-- The queue with id `q`. -/
def Chan.queue (c : Chan) (q : Nat) : Queue := tget (fun _ => {}) c.queues q

/-- The queue with id `q` replaced. -/
def Chan.setQueue (c : Chan) (q : Nat) (x : Queue) : Chan :=
  (c.withQueues (tput (fun _ => {}) c.queues q x))

/-- The queue with id `q` changed. -/
def Chan.onQueue (c : Chan) (q : Nat) (f : Queue → Queue) : Chan := c.setQueue q (f (c.queue q))

/-- The QID byte of an event: 0x80 + c for the host queue (R433). -/
def Chan.qidByte (c : Chan) (q : Nat) : Nat := if q = 0x80 then 0x80 + c.num else q

/-- A record of a queue's executor (Table 3-11): the host queue's is the host-port die's (R433, R544). -/
def Chan.qEv (c : Chan) (q code sev detail : Nat) : Chan :=
  if q = 0x80 then c.hpdEv (blockOfQ q) code sev detail else c.ev (blockOfQ q) code sev detail

def Chan.qBase (c : Chan) (q : Nat) : Nat := c.gf (Q_BASE.ADDR q) * 64
def Chan.qDepth (c : Chan) (q : Nat) : Nat := c.gf (Q_DEPTH.DEPTH q)

/-- Occupied slots of a ring. -/
def Queue.fill (x : Queue) : Nat := x.ents.foldl (fun n e => n + e.n) 0

/-- Started commands that have neither completed nor failed. -/
def Queue.busy (x : Queue) : Nat := (x.started.filter (fun h => h.st = .running)).length

/-- The oldest started command that has failed: it is the head again (R82). -/
def Queue.failed? (x : Queue) : Option Started := x.started.find? (fun h => h.st = .failed)

/-- The first ring entry not yet started. -/
def Queue.next? (x : Queue) : Option Ent := x.ents.find? (fun e => !e.started && !e.consumed)

/-! ### Rings (R62, R63) -/

/-- The bytes of `n` slots from slot `i`, wrapping from the last slot to slot 0. -/
def ringAddr (base depth slot : Nat) : Nat := base + 64 * (slot % depth)

/-- Slots written into the ring, one after another. -/
def Chan.ringPut (c : Chan) (base depth : Nat) : Nat → Nat → List Byte → Chan
  | 0, _, _ => c
  | n + 1, slot, raw =>
    Chan.ringPut (c.store (ringAddr base depth slot) (raw.take 64)).2 base depth n (slot + 1) (raw.drop 64)

/-- Slots read from the ring: `none` when a codeword is uncorrectable. -/
def Chan.ringGet (c : Chan) (base depth : Nat) : Nat → Nat → Option (List Byte) × Chan
  | 0, _ => (some [], c)
  | n + 1, slot =>
    match c.load (ringAddr base depth slot) 64 with
    | (none, c) => (none, c)
    | (some b, c) =>
      match Chan.ringGet c base depth n (slot + 1) with
      | (some r, c) => (some (b ++ r), c)
      | (none, c) => (none, c)

/-- Slots that a command takes. -/
def slotsOf (raw : List Byte) : Nat := if extOf raw then 4 else 1

/-- Are there free slots for the command in the bound queue `q`? -/
def Chan.canAppend (c : Chan) (q : Nat) (raw : List Byte) : Bool :=
  c.qDepth q != 0 && (c.queue q).fill + slotsOf raw ≤ c.qDepth q

/-- An append at the tail (R63); an idle bound queue starts running (Table 3-2), and the channel leaves IDLE (R223). -/
def Chan.append (c : Chan) (q : Nat) (raw : List Byte) (launch : Option Nat) : Chan :=
  let x := c.queue q
  let n := slotsOf raw
  let d := c.qDepth q
  let raw := (raw ++ leBytes 256 0).take (64 * n)
  let c := c.ringPut (c.qBase q) d n x.tail raw
  let c := if q ≠ 0x80 ∧ c.gf HR_PSTATE.CUR = 1 then c.sf HR_PSTATE.CUR 0 else c
  c.setQueue q { x with
    ents := x.ents ++ [{ seq := x.nseq, slot := x.tail, n := n, launch := launch, started := false, consumed := false }]
    nseq := x.nseq + 1
    tail := (x.tail + n) % d
    st := if x.st = .idle then .running else x.st }

/-- A producer appends, or waits for free slots; nothing is dropped (R63). -/
def Chan.push (c : Chan) (q : Nat) (raw : List Byte) (launch core fwd : Option Nat) : Chan :=
  if c.canAppend q raw then c.append q raw launch
  else (c.withWaiting (c.waiting ++ [{ q := q, raw := raw, launch := launch, core := core, fwd := fwd }]))

/-- Consumed entries leave the front of the ring; the slots of an open retake region are held (R138). -/
def purgeEnts (hold : Option Nat) : List Ent → List Ent
  | [] => []
  | e :: r =>
    if e.consumed && (match hold with | some p => e.seq < p | none => true) then purgeEnts hold r else e :: r

/-- The replay pointer of an open region that lies in the ring. -/
def Queue.hold (x : Queue) : Option Nat :=
  match x.rtk with
  | some m => if m.inSeg then none else some m.replay
  | none => none

def Queue.purge (x : Queue) : Queue := { x with ents := purgeEnts x.hold x.ents }

/-! ### Slot counts of the host queue (R431)

For the host queue, `Queue.tail` is the count of the next slot that the executor has not yet reached; `ents` holds at most
the entry it has reached. -/

/-- W: the largest multiple of DEPTH that fits in 16 bits. -/
def Chan.hqW (c : Chan) : Nat := if c.qDepth 0x80 = 0 then 0 else c.qDepth 0x80 * (65536 / c.qDepth 0x80)

/-- Slots handed over and not yet reached. -/
def Chan.hqRest (c : Chan) : Nat :=
  if c.hqW = 0 then 0 else (c.gf HPC_HQ_CNT.TAIL_CNT + c.hqW - (c.queue 0x80).tail % c.hqW) % c.hqW

/-- HEAD_CNT: the next slot count to execute; a failed command is next again. -/
def Chan.hqHead (c : Chan) : Nat :=
  let x := c.queue 0x80
  let fails := (x.started.filter (fun h => h.st = .failed)).map (·.ent)
  let back := (x.ents.filter (fun e => !e.started || fails.contains e.seq)).foldl (fun n e => n + e.n) 0
  if c.hqW = 0 then 0 else (x.tail + c.hqW - back) % c.hqW

/-- Occupied slots of a queue's ring. -/
def Chan.qFill (c : Chan) (q : Nat) : Nat := (c.queue q).fill + (if q = 0x80 then c.hqRest else 0)

/-- The executor reaches the next entry: one slot, or four when its EXT bit is set and all four have been handed over. -/
def Chan.hqFetch (c : Chan) : Chan :=
  let x := c.queue 0x80
  if x.ents ≠ [] ∨ c.hqRest = 0 then c
  else
    let n := if extOf (c.peek (ringAddr (c.qBase 0x80) (c.qDepth 0x80) x.tail) 2) then 4 else 1
    if c.hqRest < n then c
    else
      c.setQueue 0x80 { x with
        ents := [{ seq := x.nseq, slot := x.tail % c.qDepth 0x80, n := n, launch := none, started := false, consumed := false }]
        nseq := x.nseq + 1
        tail := (x.tail + n) % c.hqW }

/-- The executor of an IDLE or RUNNING host queue reaches its next entry, and runs. -/
def Chan.hqSettle (c : Chan) : Chan :=
  let x := c.queue 0x80
  if x.st ≠ .idle ∧ x.st ≠ .running then c
  else
    let c := c.hqFetch
    if (c.queue 0x80).next?.isSome then c.onQueue 0x80 (fun x => { x with st := .running }) else c

/-! ### The head (R76, R82) -/

/-- The command that a queue would evaluate next. -/
structure Head where
  inSeg : Bool
  slot : Nat
  ent : Nat
  raw : List Byte
  /-- The failed start that this command repeats. -/
  redo : Option Nat
  launch : Option Nat
  deriving DecidableEq, Repr

/-- The outcome of looking for the head. -/
inductive HeadRes where
  | none
  /-- The segment has no slot left and no LESSON_RET was met. -/
  | exhausted
  /-- The command cannot be read: the codeword is uncorrectable (R38). -/
  | unreadable (slot : Nat) (inSeg : Bool)
  | cmd (h : Head)
  deriving DecidableEq, Repr

/-- The head of queue `q`; reading it from memory may meet the symbol code.  A 256-byte command whose four slots run past the
segment's last slot exhausts the segment (DESIGN CHOICE, notes/assumptions/140.md). -/
def Chan.head (c : Chan) (q : Nat) : HeadRes × Chan :=
  let x := c.queue q
  match x.failed? with
  | some h => (.cmd { inSeg := h.inSeg, slot := h.slot, ent := h.ent, raw := h.raw, redo := some h.seq, launch := none }, c)
  | none =>
    match x.seg with
    | some sg =>
      if sg.ret then (.none, c)
      else if sg.count ≤ sg.pos then (.exhausted, c)
      else
        match c.load (sg.addr + 64 * sg.pos) 64 with
        | (none, c) => (.unreadable sg.pos true, c)
        | (some raw, c) =>
          if extOf raw then
            if sg.count < sg.pos + 4 then (.exhausted, c)
            else
              match c.load (sg.addr + 64 * sg.pos) 256 with
              | (none, c) => (.unreadable sg.pos true, c)
              | (some raw, c) =>
                (.cmd { inSeg := true, slot := sg.pos, ent := sg.ent, raw := raw, redo := none, launch := sg.launch }, c)
          else (.cmd { inSeg := true, slot := sg.pos, ent := sg.ent, raw := raw, redo := none, launch := sg.launch }, c)
    | none =>
      match x.next? with
      | none => (.none, c)
      | some e =>
        match c.ringGet (c.qBase q) (c.qDepth q) e.n e.slot with
        | (none, c) => (.unreadable e.slot false, c)
        | (some raw, c) =>
          (.cmd { inSeg := false, slot := e.slot, ent := e.seq, raw := raw, redo := none, launch := e.launch }, c)

/-- The slot that Q_ERR.SLOT names for a halt without a command, and whether it lies in a segment (R89). -/
def Queue.loc (x : Queue) : Nat × Bool :=
  match x.failed? with
  | some h => (h.slot, h.inSeg)
  | none =>
    match x.seg with
    | some sg => (sg.pos, true)
    | none => match x.next? with | some e => (e.slot, false) | none => (x.tail, false)

/-! ### Halts (R79, R85, R89) -/

def haltHALT_REQUESTED : Nat := 0x0A
def haltDRAINED : Nat := 0x0B
def haltFENCED : Nat := 0x0C
def haltSTATE : Nat := 0x01
def haltOPCODE : Nat := 0x02
def haltFIELD : Nat := 0x03
def haltADDR : Nat := 0x04
def haltMEM : Nat := 0x05
def haltHOST : Nat := 0x06
def haltREMOTE : Nat := 0x07
def haltTIMEOUT : Nat := 0x08
def haltNUMERIC : Nat := 0x09
def haltLESSON : Nat := 0x0D
def haltRDMA : Nat := 0x0E

/-- A queue halts: state, Q_ERR and event QUEUE_HALT.  A halt of the host queue also sets HP_CHc_IRQ.HQ_HALT (R448). -/
def Chan.halt (c : Chan) (q code opcode detail slot : Nat) (inSeg : Bool) : Chan :=
  let c := c.onQueue q (fun x => { x with st := .halted, halting := false, wait := none })
  let slot := if q = 0x80 ∧ c.qDepth q ≠ 0 then slot % c.qDepth q else slot
  let c := c.wr (Q_ERR.off q) (code + opcode * 2 ^ 8 + slot % 2 ^ 12 * 2 ^ 16 + b2n inSeg * 2 ^ 28 + detail % 2 ^ 32 * 2 ^ 32)
  let sev := if code = haltHALT_REQUESTED ∨ code = haltDRAINED then 0 else 2
  let c := if q = 0x80 then c.sf HPC_IRQ.HQ_HALT 1 else c
  c.qEv q 0x0010 sev
    (det [(16, 1, c.qidByte q), (17, 1, code), (18, 1, opcode), (19, 2, slot % 2 ^ 12), (21, 4, detail)])

/-- A halt that has no halted command (R89). -/
def Chan.haltQuiet (c : Chan) (q code : Nat) : Chan :=
  let l := (c.queue q).loc
  c.halt q code 0 0 l.1 l.2

/-! ### Completion and signals (R51, R71, R82) -/

/-- One signal of a member's command enters its region's token log (R144). -/
def logAdd : List (Nat × Nat) → Nat → Nat → List (Nat × Nat)
  | [], i, n => [(i, n)]
  | (j, m) :: r, i, n => if i = j then (j, m + n) :: r else (j, m) :: logAdd r i n

def Chan.retake (c : Chan) (n : Nat) : Retake := tget (fun _ => {}) c.retakes n
def Chan.setRetake (c : Chan) (n : Nat) (x : Retake) : Chan :=
  (c.withRetakes (tput (fun _ => {}) c.retakes n x))

def Chan.logSig (c : Chan) (region i n : Nat) : Chan :=
  let r := c.retake region
  let l := logAdd r.log i n
  (c.setRetake region { r with log := l }).sf (CH_RTK_STAT.LOG_USED region) l.length

/-- A command's signals are applied, and logged when it belongs to an open region. -/
def Chan.applySigs (c : Chan) (region : Option Nat) : List (Nat × Nat) → Chan
  | [] => c
  | (i, n) :: r =>
    let c := c.signal i n
    let c := match region with | some g => c.logSig g i n | none => c
    Chan.applySigs c region r

/-- Event CMD_DONE (Table 3-11). -/
def Chan.cmdDone (c : Chan) (q opcode tag : Nat) : Chan :=
  c.qEv q 0x0012 0 (det [(16, 1, c.qidByte q), (17, 1, opcode), (18, 2, tag)])

/-- A launch hears that one of its LESSON_CALLs has started or ended (R250). -/
def Chan.callStarted (c : Chan) (l : Nat) : Chan :=
  let k := tget (fun _ => {}) c.calls l
  (c.withCalls (tput (fun _ => {}) c.calls l { k with unstarted := k.unstarted - 1 }))
def Chan.callEnded (c : Chan) (l : Nat) : Chan :=
  let k := tget (fun _ => {}) c.calls l
  (c.withCalls (tput (fun _ => {}) c.calls l { k with unended := k.unended - 1 }))

def markConsumed (seq : Nat) (es : List Ent) : List Ent :=
  es.map (fun e => if e.seq = seq then { e with consumed := true } else e)
def markStarted (seq : Nat) (es : List Ent) : List Ent :=
  es.map (fun e => if e.seq = seq then { e with started := true } else e)

/-- R76 steps 4 and 5: the segment ends; its LESSON_CALL's signals have been applied with the LESSON_RET's. -/
def Chan.leaveSeg (c : Chan) (q : Nat) (sg : Seg) : Chan :=
  let c := c.onQueue q (fun x => ({ x with seg := none, ents := markConsumed sg.ent x.ents } : Queue).purge)
  let c := if sg.callEvt then c.cmdDone q 0x02 sg.callTag else c
  match sg.launch with
  | some l => c.callEnded l
  | none => c

/-- The signals of completed commands are applied in queue order, each after every earlier command's (R71); `fuel` bounds
the number of commands. -/
def Chan.applyDone : Nat → Chan → Nat → Chan
  | 0, c, _ => c
  | fuel + 1, c, q =>
    let x := c.queue q
    match x.started with
    | [] => c
    | h :: r =>
      if h.st ≠ .done then c
      else
        let region := if h.logged then x.rtk.map (·.region) else none
        let c := c.onQueue q (fun x => ({ x with
          started := r, ents := if h.inSeg then x.ents else markConsumed h.ent x.ents } : Queue).purge)
        let c := c.applySigs region h.sigs
        let c :=
          if h.inSeg && opcodeOf h.raw == 0x03 then
            match x.seg with
            | some sg => c.leaveSeg q sg
            | none => c
          else c
        Chan.applyDone fuel c q

/-- Once nothing runs, a pending HALT or DRAIN ends in HALTED, and a queue without entries is IDLE (Tables 3-2, 3-9). A
segment without slots left halts with LESSON_FAULT (R76), with OPCODE 0, as no command halted (DESIGN CHOICE,
notes/assumptions/140.md). -/
def Chan.settleQ (c : Chan) (q : Nat) : Chan :=
  let x := c.queue q
  if x.st = .running ∧ x.halting ∧ x.busy = 0 then c.haltQuiet q haltHALT_REQUESTED
  else if x.st = .draining ∧ x.busy = 0 then
    c.haltQuiet q (if x.halting then haltHALT_REQUESTED else haltDRAINED)
  else if x.st = .running ∧ x.failed?.isNone then
    match x.seg with
    | some sg => if ¬ sg.ret ∧ sg.count ≤ sg.pos then c.halt q haltLESSON 0 0 (sg.count - 1) true else c
    | none => if x.started.isEmpty ∧ x.next?.isNone ∧ (q = 0x80 → c.hqRest = 0) then c.onQueue q (fun x => { x with st := .idle }) else c
  else c

/-- A started command found by its number. -/
def Queue.cmd? (x : Queue) (seq : Nat) : Option Started := x.started.find? (fun h => h.seq = seq)

/-- A started command changed. -/
def Chan.onCmd (c : Chan) (q seq : Nat) (f : Started → Started) : Chan :=
  c.onQueue q (fun x => { x with started := x.started.map (fun h => if h.seq = seq then f h else h) })

/-- A started command completes (R51, R71). -/
def Chan.complete (c : Chan) (q seq : Nat) : Chan :=
  match (c.queue q).cmd? seq with
  | none => c
  | some h =>
    if h.st ≠ .running then c
    else
      let c := c.onCmd q seq (fun h => { h with st := .done })
      let c := if evtOf h.raw then c.cmdDone q (opcodeOf h.raw) (tagOf h.raw) else c
      let c := Chan.applyDone ((c.queue q).started.length) c q
      c.settleQ q

/-- The remote operations of a command that has ended by a failure run on for nobody, though a FENCE still waits for its
writes; those not yet sent are dropped. -/
def Chan.detach (c : Chan) (q seq : Nat) : Chan :=
  (((c.withOpq (c.opq.filter (fun o => !(o.q == q && o.cmd == seq)))).withOps (c.ops.map (fun o => if o.q == q && o.cmd == seq then { o with cont := .ack, dead := true } else o))).withGathered (c.gathered.filter (fun e => !(e.1 == q && e.2.1 == seq))))

/-- A started command fails during execution: it is not consumed, its signals are not applied and its queue halts (R82). -/
def Chan.fail (c : Chan) (q seq code detail : Nat) : Chan :=
  match (c.queue q).cmd? seq with
  | none => c
  | some h =>
    if h.st ≠ .running then c
    else
      let c := (c.onCmd q seq (fun h => { h with st := .failed, out := 0 })).detach q seq
      if (c.queue q).st = .halted then c else c.halt q code (opcodeOf h.raw) detail h.slot h.inSeg

/-- An outstanding part of a started command is done. -/
def Chan.part (c : Chan) (q seq n : Nat) : Chan := c.onCmd q seq (fun h => { h with out := h.out - n })

/-! ### Starting (R67, R71 to R73, R76, R78 to R80) -/

/-- What a unit gives for one of its opcodes: the field step, the address step and the state step of R78, the credit of
R72 and the effect of the start. -/
structure CmdSpec where
  fields : Chan → Nat → Option Seg → List Byte → List Nat := fun _ _ _ _ => []
  addrs : Chan → Nat → Option Seg → List Byte → List Nat := fun _ _ _ _ => []
  /-- The halt code of the address step. -/
  addrCode : Nat := haltADDR
  /-- Rows of Table 3-8 that the command meets, beside the rel row. -/
  rows : Chan → Nat → Option Seg → List Byte → List Nat := fun _ _ _ _ => []
  credit : Chan → Nat → Option Seg → List Byte → Bool := fun _ _ _ _ => true
  /-- The reads of memory that the checks need; true where one meets an uncorrectable codeword. -/
  look : Chan → Nat → Option Seg → List Byte → Bool × Chan := fun c _ _ _ => (false, c)
  /-- A head that is taken note of but not started (RETAKE_END before its region resolves). -/
  park : Chan → Nat → Option Chan := fun _ _ => none
  /-- The effect, given the queue and the number of the started command. -/
  start : Chan → Nat → Nat → Chan := fun c _ _ => c
  /-- Completes with its start. -/
  atOnce : Bool := false

/-- The least number of a list. -/
def least : List Nat → Option Nat
  | [] => none
  | a :: r => match least r with | none => some a | some b => some (min a b)

/-- The counters of a region's token log, with those that started commands of its members are still to signal. -/
def Chan.logCounters (c : Chan) (region : Nat) : List Nat :=
  let later := allQueues.flatMap (fun q =>
    if (c.queue q).rtk.any (·.region == region) then ((c.queue q).started.filter (·.logged)).flatMap (fun h => h.sigs.map (·.1)) else [])
  ((c.retake region).log.map (·.1) ++ later).eraseDups

/-- R144: the index fields of signals that a token log of 16 counters has no place for. -/
def logFull (c : Chan) (x : Queue) (raw : List Byte) : List Nat :=
  match x.rtk with
  | none => []
  | some m =>
    let log := c.logCounters m.region
    let go := (sigsOf x.seg raw).zip (sigFieldsOf raw)
    (go.foldl (fun (acc : List Nat × List Nat) e =>
      if acc.1.contains e.1.1 then acc
      else if acc.1.length < 16 then (acc.1 ++ [e.1.1], acc.2)
      else (acc.1, acc.2 ++ [e.2])) (log, [])).2

/-- The checks of R78 in their order: opcode and fields, address, state.  The answer is the halt code and DETAIL. -/
def Chan.checks (c : Chan) (q : Nat) (spec : CmdSpec) (raw : List Byte) : Option (Nat × Nat) :=
  let x := c.queue q
  let op := opcodeOf raw
  if !opDefined op q then some (haltOPCODE, 0)
  else
    match least (headerFields raw ++ spec.fields c q x.seg raw ++
        (if op = 0x04 ∨ op = 0x05 then [] else logFull c x raw)) with
    | some d => some (haltFIELD, d)
    | none =>
      match least (spec.addrs c q x.seg raw) with
      | some d => some (spec.addrCode, d)
      | none =>
        match least ((if x.seg.isNone && relOf raw then [1] else []) ++ spec.rows c q x.seg raw) with
        | some r => some (haltSTATE, r)
        | none => none

/-- The checks, behind the reads of memory that they need (R37, R38). -/
def Chan.checked (c : Chan) (q : Nat) (spec : CmdSpec) (raw : List Byte) : Option (Nat × Nat) × Chan :=
  let r := if opDefined (opcodeOf raw) q ∧ headerFields raw = [] then spec.look c q (c.queue q).seg raw else (false, c)
  (if r.1 then some (haltMEM, 0) else r.2.checks q spec raw, r.2)

/-- The first unsatisfied wait. -/
def Chan.unsat (c : Chan) (ws : List (Nat × Nat)) : Option Nat := (ws.find? (fun w => !c.tokOk w.1 w.2)).map (·.1)

/-- R73: the head waits on a counter; the time runs from the first evaluation that finds its waits unsatisfied. -/
def Chan.arm (c : Chan) (q key i : Nat) (ws : List (Nat × Nat)) : Chan :=
  c.onQueue q (fun x => { x with wait :=
    match x.wait with
    | some (k, _, t, _) => some (key, i, if k = key then t else c.now, ws)
    | none => some (key, i, c.now, ws) })

/-- R73: the time of a head whose waits are satisfied at this moment starts anew. -/
def Chan.rewait (c : Chan) : Chan :=
  if c.queues.any (fun e => e.2.wait.isSome) then
    c.withQueues (c.queues.map (fun e =>
      match e.2.wait with
      | some (k, i, _, ws) => if (c.unsat ws).isNone then (e.1, { e.2 with wait := some (k, i, c.now, ws) }) else e
      | none => e))
  else c

/-- The identity of a head for R73: ring entry or segment slot. -/
def Head.key (h : Head) : Nat := h.ent * 8192 + (if h.inSeg then h.slot + 1 else 0)

/-- SERIAL: every earlier command of the queue has completed and applied its signals (R65, R71). -/
def Queue.serialOk (x : Queue) (h : Head) : Bool :=
  match x.started with
  | [] => true
  | a :: _ => h.redo = some a.seq

/-- The started command that a head becomes. -/
def Chan.addStarted (c : Chan) (q : Nat) (h : Head) : Nat × Chan :=
  let x := c.queue q
  let seq := match h.redo with | some k => k | none => x.sseq
  let s : Started :=
    { seq := seq, raw := h.raw, slot := h.slot, inSeg := h.inSeg, ent := h.ent, sigs := sigsOf x.seg h.raw,
      logged := x.rtk.isSome && opcodeOf h.raw != 0x05, st := .running, ready := c.now, out := 0, pos := 0,
      redone := h.redo.isSome }
  let started :=
    match h.redo with
    | some k => x.started.map (fun a => if a.seq = k then s else a)
    | none => x.started ++ [s]
  let seg := x.seg.map (fun sg => if h.inSeg && h.redo.isNone then { sg with pos := sg.pos + slotsOf h.raw } else sg)
  (seq, c.setQueue q { x with
    started := started
    sseq := if h.redo.isSome then x.sseq else x.sseq + 1
    seg := seg
    ents := if h.inSeg then x.ents else markStarted h.ent x.ents
    wait := none })

/-- The evaluation of the head of queue `q` for a command with opcode `op` (R71, R72, R78).  A command with a REL bit outside a
lesson is checked at once, before waits, SERIAL and issue window.  Nothing happens when the head
is another command, when its waits are not satisfied, or when it waits for credit; a reserved or undefined opcode at the
head halts the queue, whichever command is evaluated (notes/assumptions/5.md).  A head that cannot be read halts its queue with OPCODE
and DETAIL 0 (DESIGN CHOICE, notes/assumptions/141.md). -/
def Chan.tryStart (c : Chan) (q op : Nat) (spec : CmdSpec) : Chan :=
  let x := c.queue q
  if x.st ≠ .running ∨ x.halting ∨ x.fenced then c
  else
    match c.head q with
    | (.none, c) => c
    | (.exhausted, c) => c.halt q haltLESSON 0 0 ((x.seg.map (·.count)).getD 1 - 1) true
    | (.unreadable slot inSeg, c) => c.halt q haltMEM 0 0 slot inSeg
    | (.cmd h, c) =>
      if opDefined (opcodeOf h.raw) q ∧ opcodeOf h.raw ≠ op then c
      else
        let rel := x.seg.isNone && relOf h.raw
        let ws := if rel then [] else waitsOf x.seg h.raw
        match c.unsat ws with
        | some i => c.arm q h.key i ws
        | none =>
          let c := c.onQueue q (fun x => { x with wait := none })
          if !rel && ((serialOf h.raw && !x.serialOk h) || windowOf q ≤ x.busy) then c
          else
            match c.checked q spec h.raw with
            | (some (code, d), c) => c.halt q code (opcodeOf h.raw) d h.slot h.inSeg
            | (none, c) =>
              match spec.park c q with
              | some c => c
              | none =>
              if !spec.credit c q x.seg h.raw then c
              else
                let (seq, c) := c.addStarted q h
                let c := spec.start c q seq
                if spec.atOnce then c.complete q seq else c.settleQ q

/-- R73: the wait limit of a head command passes.  Where both waits are unsatisfied the manual does not say whose counter DETAIL
names; the model gives that of wait 0, as relocated (DESIGN CHOICE, notes/assumptions/121.md). -/
def Chan.tokenTimeout (c : Chan) (q : Nat) : Chan :=
  let x := c.queue q
  let lim := c.gf (Q_WAIT_LIMIT.LIMIT_US q)
  match x.wait with
  | none => c
  | some (key, _, t, _) =>
    if x.st ≠ .running ∨ x.halting ∨ lim = 0 ∨ c.now < t + lim * tUs then c
    else
      match c.head q with
      | (.cmd h, c) =>
        if h.key ≠ key then c
        else
          match c.unsat (waitsOf x.seg h.raw) with
          | none => c
          | some j => c.halt q haltTIMEOUT (opcodeOf h.raw) j h.slot h.inSeg
      | (_, c) => c

/-! ### Queue actions (R81 to R84, Table 3-9) -/

/-- Table 3-2 as a number. -/
def QState.num : QState → Nat
  | .idle => 0 | .running => 1 | .draining => 2 | .halted => 3

/-- Is the action allowed in the state (Table 3-9)?  0 HALT, 1 RESUME, 2 DRAIN, 3 FLUSH. -/
def actionLegal (act : Nat) (st : QState) : Bool :=
  match act, st with
  | 0, _ => true
  | 1, .draining => false
  | 1, _ => true
  | 2, _ => true
  | 3, .halted => true
  | _, _ => false

/-- Does the queue hold anything to run? -/
def Queue.work (x : Queue) : Bool := !x.started.isEmpty || x.seg.isSome || x.next?.isSome

/-- HALT. -/
def Chan.actHalt (c : Chan) (q : Nat) : Chan :=
  match (c.queue q).st with
  | .idle => c.haltQuiet q haltHALT_REQUESTED
  | .running | .draining => (c.onQueue q (fun x => { x with halting := true })).settleQ q
  | .halted => c

/-- RESUME: a halted queue runs again if entries remain, else it is idle; after a fence it is ignored (R84). -/
def Chan.actResume (c : Chan) (q : Nat) : Chan :=
  let x := c.queue q
  if x.st ≠ .halted ∨ x.fenced then c
  else c.setQueue q { x with st := if x.work || (q == 0x80 && c.hqRest != 0) then .running else .idle, wait := none }

/-- DRAIN. -/
def Chan.actDrain (c : Chan) (q : Nat) : Chan :=
  match (c.queue q).st with
  | .idle => c.haltQuiet q haltDRAINED
  | .running => (c.onQueue q (fun x => { x with st := .draining })).settleQ q
  | _ => c

/-- A member whose RETAKE_END goes by FLUSH or SKIP no longer waits there (R143, R150). -/
def Chan.unarrive (c : Chan) (q : Nat) : Chan :=
  let x := c.queue q
  match x.rtk with
  | some m =>
    if x.arrived then (c.setQueue q { x with arrived := false }).sf ⟨CH_RTK_STAT.off m.region, 8 + q, 1⟩ 0 else c
  | none => c

/-- The signals of a started LESSON_RET without those of its discarded LESSON_CALL (R76). -/
def Started.ownSigs (h : Started) (sg : Option Seg) : Started :=
  match sg with
  | some sg =>
    if h.inSeg && opcodeOf h.raw == 0x03 then { h with sigs := h.sigs.take (h.sigs.length - sg.callSigs.length) } else h
  | none => h

/-- The launches whose LESSON_CALLs a FLUSH discards before they start. -/
def Chan.endCalls (c : Chan) : List Nat → Chan
  | [] => c
  | l :: r => Chan.endCalls ((c.callStarted l).callEnded l) r

/-- FLUSH of a halted queue: every unstarted entry goes, with a halted head; inside a segment also its rest and its
LESSON_CALL; the held signals of commands that had started then apply (R76, R82).  TAIL stays: the slots of the entries
discarded are free once no started entry stands before them (DESIGN CHOICE, notes/assumptions/120.md).  A member of an open
region stays one, and keeps the slots behind its replay pointer (DESIGN CHOICE, notes/assumptions/148.md). -/
def Chan.actFlush (c : Chan) (q : Nat) : Chan :=
  let x := c.queue q
  if x.st ≠ .halted then c
  else
    let c := c.unarrive q
    let x := c.queue q
    let fails := (x.started.filter (fun h => h.st = .failed ∧ ¬ h.inSeg)).map (·.ent)
    let gone := x.ents.filter (fun e => !e.consumed && !e.started)
    let ents := x.ents.map (fun e =>
      if !e.started || fails.contains e.seq || (match x.seg with | some sg => sg.ent == e.seq | none => false) then
        { e with consumed := true } else e)
    let segCall := match x.seg with | some sg => sg.launch.toList | none => []
    let c := c.setQueue q (({ x with
      ents := ents, seg := none, wait := none
      tail := if q = 0x80 then c.gf HPC_HQ_CNT.TAIL_CNT else x.tail
      started := (x.started.filter (fun h => h.st ≠ .failed)).map (·.ownSigs x.seg) } : Queue).purge)
    let c := c.endCalls ((gone ++ x.ents.filter (fun e => fails.contains e.seq)).filterMap (·.launch))
    let c := segCall.foldl (fun c l => c.callEnded l) c
    Chan.applyDone ((c.queue q).started.length) c q

/-- R83: SKIP consumes the head of a halted queue without performing it; held signals then apply at once.  In a segment without
slots left there is no command to consume, so the queue halts again (DESIGN CHOICE, notes/assumptions/140.md). -/
def Chan.skipHead (c : Chan) (q : Nat) : Chan :=
  let c := c.unarrive q
  let x := c.queue q
  let c :=
    match x.failed? with
    | some h =>
      let c := c.setQueue q (({ x with
        started := x.started.filter (fun a => a.seq ≠ h.seq)
        ents := if h.inSeg then x.ents else markConsumed h.ent x.ents } : Queue).purge)
      c.endCalls ((x.ents.filter (fun e => !h.inSeg && e.seq == h.ent)).filterMap (·.launch))
    | none =>
      match x.seg with
      | some sg =>
        if sg.ret ∨ sg.count ≤ sg.pos then c
        else
          let n := if extOf (c.peek (sg.addr + 64 * sg.pos) 2) then 4 else 1
          c.setQueue q { x with seg := some { sg with pos := sg.pos + n } }
      | none =>
        match x.next? with
        | none => c
        | some e =>
          let c := c.setQueue q (({ x with ents := markConsumed e.seq x.ents } : Queue).purge)
          match e.launch with
          | some l => (c.callStarted l).callEnded l
          | none => c
  Chan.applyDone ((c.queue q).started.length) c q

/-- Event QCTL_IGNORED (Table 3-11). -/
def Chan.qctlIgnored (c : Chan) (q acts : Nat) : Chan :=
  c.qEv q 0x0011 0 (det [(16, 1, c.qidByte q), (17, 1, acts), (18, 1, (c.queue q).st.num)])

/-- An action taken (Table 3-9), already known to be allowed. -/
def Chan.act (c : Chan) (q action : Nat) : Chan :=
  match action with
  | 0 => c.actHalt q
  | 1 => (c.actResume q).settleQ q
  | 2 => c.actDrain q
  | _ => c.actFlush q

/-- A write of <P>_Q_CTL (R81, R83, R90). -/
def Chan.qCtl (c : Chan) (q v : Nat) : Chan :=
  let acts := v % 32
  if acts = 0 then c
  else if acts = 1 then if actionLegal 1 (c.queue q).st then c.act q 1 else c.qctlIgnored q acts
  else if acts = 2 then c.act q 0
  else if acts = 4 then c.act q 2
  else if acts = 8 then if actionLegal 3 (c.queue q).st then c.act q 3 else c.qctlIgnored q acts
  else if acts = 0x11 then
    if (c.queue q).st = .halted then
      if (c.queue q).fenced then c else ((if q = 0x80 then c.hqFetch else c).skipHead q).act q 1
    else if actionLegal 1 (c.queue q).st then c else c.qctlIgnored q acts
  else c.qctlIgnored q acts

/-- A write of <P>_Q_BASE, taken only while the queue is unbound (R86). -/
def Chan.qBaseWrite (c : Chan) (q v : Nat) : Chan :=
  if c.qDepth q ≠ 0 then c else c.sf (Q_BASE.ADDR q) (v / 64)

/-- A write of <P>_Q_DEPTH (R87).  A queue that is bound or unbound starts at slot 0; the manual gives HEAD and TAIL no start
(DESIGN CHOICE, notes/assumptions/122.md). -/
def Chan.qDepthWrite (c : Chan) (q v : Nat) : Chan :=
  let zero (c : Chan) : Chan := if q = 0x80 then c.sf HPC_HQ_CNT.TAIL_CNT 0 else c
  let d := bits v 0 13
  let x := c.queue q
  if d = 0 then
    if (x.st = .idle ∨ x.st = .halted) ∧ c.qFill q = 0 then
      (zero (c.sf (Q_DEPTH.DEPTH q) 0)).setQueue q { x with tail := 0 }
    else c
  else if d % 4 ≠ 0 ∨ d < 4 ∨ 4096 < d ∨ c.qDepth q ≠ 0 then c
  else if inMem (c.qBase q) (64 * d) then (zero (c.sf (Q_DEPTH.DEPTH q) d)).setQueue q { x with tail := 0 }
  else c

/-- The value of <P>_Q_STAT (R88). -/
def Chan.qStat (c : Chan) (q : Nat) : Nat :=
  let x := c.queue q
  let head := match x.seg with | some sg => sg.slot | none => x.loc.1
  let slots := if q = 0x80 then
      let d := max 1 (c.qDepth q)
      (c.hqHead % d, c.gf HPC_HQ_CNT.TAIL_CNT % d)
    else (head, x.tail)
  x.st.num + b2n x.seg.isSome * 4 + b2n x.rtk.isSome * 8 + slots.1 % 4096 * 2 ^ 8 + slots.2 % 4096 * 2 ^ 24 +
    c.qFill q % 8192 * 2 ^ 40

/-- R84: the channel is fenced: the queue halts with CHANNEL_FENCED and abandons what it had started. -/
def Chan.fenceQ (c : Chan) (q : Nat) : Chan :=
  let l := (c.queue q).loc
  let c := (c.queue q).started.foldl (fun c h => c.detach q h.seq) c
  let c := c.onQueue q (fun x => { x with started := [], rtk := none, arrived := false, fenced := true })
  c.halt q haltFENCED 0 0 l.1 l.2

/-- The producer waiting at place `i` appends, once there are free slots (R63). -/
def Chan.appendWaiting (c : Chan) (i : Nat) : Chan :=
  match c.waiting[i]? with
  | none => c
  | some w =>
    if (c.waiting.take i).any (fun u => u.q == w.q || u.launch.isSome && w.launch.isSome) then c
    else if c.canAppend w.q w.raw then
      let c := ((c.append w.q w.raw w.launch).withWaiting (c.waiting.eraseIdx i))
      match w.fwd with | some k => c.part 0x80 k 1 | none => c
    else c

end Sys2Proof.Machine
end

