-- ==== Sys2Proof/Machine/Fabric.lean ====
section
/-!
DEFINITION. The corridor switch (R354 to R371): output ports, routing, ring breaks, sending, forwarding, remote
operations and the TC0 shaper.  Ports 0 to 5 are X+, X−, Y+, Y−, Z+, Z−; port number 6 stands for the channel's own
traffic to itself (R28).
-/
namespace Sys2Proof.Machine

def Chan.port (c : Chan) (p : Nat) : Port := tget (fun _ => {}) c.ports p
def Chan.setPort (c : Chan) (p : Nat) (x : Port) : Chan := (c.withPorts (tput (fun _ => {}) c.ports p x))
def Chan.onPort (c : Chan) (p : Nat) (f : Port → Port) : Chan := c.setPort p (f (c.port p))

/-- Link states (R374). -/
def linkDOWN : Nat := 0
def linkTRAINING : Nat := 1
def linkUP : Nat := 2
def linkHALF : Nat := 3
def linkMISMATCH : Nat := 4

def Chan.linkState (c : Chan) (p : Nat) : Nat := c.gf (IV_STAT.STATE p)
def Chan.linkUsable (c : Chan) (p : Nat) : Bool := c.linkState p == linkUP || c.linkState p == linkHALF
/-- R361: a broken link is DOWN or in MISMATCH. -/
def Chan.linkBroken (c : Chan) (p : Nat) : Bool := c.linkState p == linkDOWN || c.linkState p == linkMISMATCH

/-! ### Rings -/

/-- Axis of a port: 0 X, 1 Y, 2 Z; even ports face plus. -/
def axisOf (p : Nat) : Nat := p / 2
def oppositePort (p : Nat) : Nat := if p % 2 = 0 then p + 1 else p - 1

/-- Ring length of an axis (R359). -/
def Chan.ringLen (c : Chan) (axis : Nat) : Nat :=
  if axis = 0 then c.gf CS_RING.NX_M1 + 1 else if axis = 1 then c.gf CS_RING.NY_M1 + 1 else 4

def coord (axis node : Nat) : Nat := if axis = 0 then nodeX node else if axis = 1 then nodeY node else nodeZ node
def withCoord (axis node v : Nat) : Nat :=
  if axis = 0 then mkNode v (nodeY node) (nodeZ node)
  else if axis = 1 then mkNode (nodeX node) v (nodeZ node)
  else mkNode (nodeX node) (nodeY node) v

/-- The node behind a port. -/
def Chan.beyond (c : Chan) (p : Nat) : Nat :=
  let ax := axisOf p
  let n := c.ringLen ax
  let v := coord ax c.node
  withCoord ax c.node (if p % 2 = 0 then (v + 1) % n else (v + n - 1) % n)

/-- The id of the link behind a port: the coordinate of its minus end (R361). -/
def Chan.linkId (c : Chan) (p : Nat) : Nat :=
  let n := c.ringLen (axisOf p)
  let v := coord (axisOf p) c.node
  if p % 2 = 0 then v else (v + n - 1) % n

/-! ### Breaks (R361) -/

/-- The recorded break of an axis. -/
def brkFields (axis : Nat) : Fld × Fld :=
  if axis = 0 then (CS_RING.X_BRK_VALID, CS_RING.X_BRK)
  else if axis = 1 then (CS_RING.Y_BRK_VALID, CS_RING.Y_BRK)
  else (CS_RING.Z_BRK_VALID, CS_RING.Z_BRK)

def Chan.recorded (c : Chan) (axis : Nat) : Option Nat :=
  if c.flag (brkFields axis).1 then some (c.gf (brkFields axis).2) else none

/-- The broken links known on an axis. -/
def Chan.known (c : Chan) (axis : Nat) : List Nat := tget (fun _ => []) c.breaks axis

/-- The break to which a broken link belongs: the plus-most link of its run; when every link of the ring is broken, that
is one run and its plus-most link is the dateline link (DEDUCED: log entry 116). -/
def runEnd (n : Nat) (b : List Nat) : Nat → Nat → Nat
  | 0, _ => n - 1
  | fuel + 1, l => if b.contains ((l + 1) % n) then runEnd n b fuel ((l + 1) % n) else l

/-- The ids of the breaks of a ring. -/
def breakIds (n : Nat) (b : List Nat) : List Nat := b.map (runEnd n b n)

/-- The breaks beside this switch that are not the recorded one. -/
def Chan.splitsHere (c : Chan) (axis : Nat) (rec : Option Nat) : List Nat :=
  let n := c.ringLen axis
  let b := c.known axis
  ([2 * axis, 2 * axis + 1].filterMap (fun p =>
    let l := c.linkId p
    if b.contains l then
      let e := runEnd n b n l
      if rec = some e then none else some e
    else none)).eraseDups

def Chan.ringEv (c : Chan) (code sev axis id : Nat) : Chan := c.ev 0x09 code sev (det [(16, 1, axis), (17, 2, id)])

/-- The switch's knowledge of a ring's broken links changes: the record, RING_MENDED, RING_BREAK and RING_SPLIT. -/
def Chan.setKnown (c : Chan) (axis : Nat) (b : List Nat) : Chan :=
  let old := c.recorded axis
  let splits := c.splitsHere axis old
  let c := (c.withBreaks (tput (fun _ => []) c.breaks axis b))
  let new := least (breakIds (c.ringLen axis) b)
  let c :=
    if new = old then c
    else
      let c := match old with | some l => c.ringEv 0xB6 0 axis l | none => c
      let c := (c.sf (brkFields axis).1 (b2n new.isSome)).sf (brkFields axis).2 (new.getD 0)
      match new with | some l => c.ringEv 0xB5 2 axis l | none => c
  ((c.splitsHere axis new).filter (fun l => !splits.contains l)).foldl (fun c l => c.ringEv 0xB7 2 axis l) c

def insertLink (b : List Nat) (l : Nat) : List Nat := if b.contains l then b else b ++ [l]

/-! ### Routing (R358 to R360, R362) -/

/-- Links from coordinate `a` to `b` in the plus direction. -/
def plusLen (n a b : Nat) : Nat := (b + n - a % n) % n

/-- Does the arc from `a` to `b` in a direction contain link `l`? -/
def arcHas (n a b : Nat) (plus : Bool) (l : Nat) : Bool :=
  if plus then (l + n - a % n) % n < plusLen n a b
  else (a + n - 1 + n - l % n) % n < plusLen n b a

/-- R359: the direction chosen at the switch where a packet enters a dimension (true is plus). -/
def chooseDir (n a b : Nat) (brk : Option Nat) : Bool :=
  let plus := plusLen n a b ≤ plusLen n b a
  match brk with
  | some l => if arcHas n a b plus l then !plus else plus
  | none => plus

/-- R360: is the link from coordinate `a` in a direction the dateline link? -/
def isDateline (n a : Nat) (plus : Bool) : Bool := if plus then a + 1 == n else a == 0

inductive RouteRes where
  | here
  | out (port dirs : Nat)
  | noRoute
  | unsup
  deriving DecidableEq, Repr

/-- The first axis on which two nodes differ. -/
def firstAxis (node dst : Nat) : Option Nat :=
  if nodeX node ≠ nodeX dst then some 0
  else if nodeY node ≠ nodeY dst then some 1
  else if nodeZ node ≠ nodeZ dst then some 2
  else none

/-- The way of a packet at this switch. -/
def Chan.route (c : Chan) (k : Pkt) : RouteRes :=
  if c.ringLen 0 ≤ nodeX k.dst ∨ c.ringLen 1 ≤ nodeY k.dst then .noRoute
  else
    match firstAxis c.node k.dst with
    | none => .here
    | some ax =>
      let n := c.ringLen ax
      let a := coord ax c.node
      let b := coord ax k.dst
      let d := bits k.dirs (2 * ax) 2
      let plus := if d = 1 then true else if d = 2 then false else chooseDir n a b (c.recorded ax)
      let p := 2 * ax + (if plus then 0 else 1)
      if c.linkBroken p then .noRoute
      else if k.ptype = pDELIVER_X ∧ c.gf (IV_VER.NEG_VER p) = 2 then .unsup
      else .out p (setBits k.dirs (2 * ax) 2 (if plus then 1 else 2))

/-- R360: the virtual channel on the outgoing link, given the input port and virtual channel. -/
def Chan.outVc (c : Chan) (p low : Nat) (inp : Option (Nat × Nat)) : Nat :=
  let ax := axisOf p
  let high := match inp with
    | some (ip, ivc) => axisOf ip == ax && ivc % 2 == 1
    | none => false
  if high || isDateline (c.ringLen ax) (coord ax c.node) (p % 2 == 0) then low + 1 else low

/-! ### Sending -/

/-- A packet joins the queue of an output port. -/
def Chan.txPut (c : Chan) (p vc : Nat) (k : Pkt) (src : Option (Nat × Nat)) : Chan :=
  let bs := Pkt.bytes { k with hops := min 255 (k.hops + 1) }
  c.onPort p (fun x =>
    { x with tx := tput (fun _ => []) x.tx vc (tget (fun _ => []) x.tx vc ++ [{ bytes := bs, sent := 0, src := src }]) })

/-- Flit places of an input virtual channel become free: their passes are owed to the far end (R351). -/
def Chan.freePlaces (c : Chan) (src : Option (Nat × Nat)) (n : Nat) : Chan :=
  match src with
  | some (p, vc) =>
    if p < 6 then c.onPort p (fun x => { x with crPend := tput (fun _ => 0) x.crPend vc (tget (fun _ => 0) x.crPend vc + n) })
    else c
  | none => c

/-- R362: the switch counts a packet that it cannot forward. -/
def Chan.countNoRoute (c : Chan) (unsup : Bool) : Chan :=
  if unsup then c.count CS_CNT_UNSUP.COUNT 1 else (c.count CS_CNT_NOROUTE.COUNT 1).sf CS_STAT.NOROUTE 1

/-- A packet that no response answers leaves this switch, or is discarded. -/
def Chan.emit (c : Chan) (low : Nat) (k : Pkt) : Chan :=
  if k.dst = c.node then (c.withLoop (c.loop ++ [(low, k.bytes)]))
  else
    match c.route k with
    | .here => (c.withLoop (c.loop ++ [(low, k.bytes)]))
    | .out p d => c.txPut p (c.outVc p low none) { k with dirs := d } none
    | .noRoute => c.countNoRoute false
    | .unsup => c.countNoRoute true

/-- A packet that a unit of this channel injects and no response answers: none in BYPASS (R363). -/
def Chan.inject (c : Chan) (low : Nat) (k : Pkt) : Chan := if c.gf CS_CFG.MODE = 1 then c else c.emit low k

/-- The response to a request (R355). -/
def Chan.respond (c : Chan) (k : Pkt) (ptype err : Nat) (data : List Byte) : Chan :=
  c.emit 14 { pkt0 with ptype := ptype, err := err, dst := k.src, src := c.node, tid := k.tid, len := data.length, data := data }

/-- R362: a packet that cannot go on is counted, and a request is answered. -/
def Chan.refuse (c : Chan) (k : Pkt) (unsup : Bool) : Chan :=
  let c := c.countNoRoute unsup
  if k.isRequest then c.respond k pERROR_RESP (if unsup then 7 else 1) [] else c

/-- A packet of this channel's own is sent, on the pair with low member `low`. -/
def Chan.sendPkt (c : Chan) (low : Nat) (k : Pkt) : Chan :=
  if k.dst = c.node then (c.withLoop (c.loop ++ [(low, k.bytes)]))
  else
    match c.route k with
    | .here => (c.withLoop (c.loop ++ [(low, k.bytes)]))
    | .out p d => c.txPut p (c.outVc p low none) { k with dirs := d } none
    | .noRoute => c.refuse k false
    | .unsup => c.refuse k true

/-- A transit packet goes on (R358 to R362); its places in the input buffer stay taken until its flits have left. -/
def Chan.forward (c : Chan) (p vc flits : Nat) (k : Pkt) : Chan :=
  match c.route k with
  | .out o d => c.txPut o (c.outVc o (vc / 2 * 2) (some (p, vc))) { k with dirs := d } (some (p, vc))
  | .here => c.freePlaces (some (p, vc)) flits
  | .noRoute => (c.freePlaces (some (p, vc)) flits).refuse k false
  | .unsup => (c.freePlaces (some (p, vc)) flits).refuse k true

/-! ### Arrived packets -/

/-- The oldest whole packet of an input virtual channel, or of the channel's own traffic (port 6). -/
def Chan.headPkt (c : Chan) (p vc : Nat) : Option (List Byte × Nat) :=
  if p = 6 then c.loop.head?.map (fun b => (b.2, 0))
  else if p < 6 ∧ vc < 16 then (tget (fun _ => {}) (c.port p).rx vc).pkts.head?
  else none

/-- The virtual channel of that packet. -/
def Chan.headVc (c : Chan) (p vc : Nat) : Nat := if p = 6 then (c.loop.head?.map (·.1)).getD 0 else vc

def Chan.dropHead (c : Chan) (p vc : Nat) : Chan :=
  if p = 6 then (c.withLoop c.loop.tail)
  else c.onPort p (fun x =>
    let r := tget (fun _ => {}) x.rx vc
    { x with rx := tput (fun _ => {}) x.rx vc { r with pkts := r.pkts.tail } })

/-- The packet at the head of (port, virtual channel) is taken when it is one that `mine` accepts: a transit packet goes on,
a packet for this channel is handled by `home`. -/
def Chan.takePkt (c : Chan) (p vc : Nat) (mine : Pkt → Bool) (home : Chan → Pkt → Chan) : Chan :=
  match c.headPkt p vc with
  | none => c
  | some (bs, flits) =>
    let k := parsePkt bs
    if !mine k then c
    else
      let c := c.dropHead p vc
      if p = 6 ∨ k.dst = c.node then home (c.freePlaces (some (p, vc)) flits) k
      else c.forward p vc flits k

def isType (t : Nat) (k : Pkt) : Bool := k.ptype == t
def isBell (kind : Nat) (k : Pkt) : Bool := k.ptype == pBELL && bellKind k == kind

/-! ### Bells of this channel (R370, R371) -/

/-- Links of the route to a node, as this switch computes it: R358 to R361 with the breaks recorded for its own rings. -/
def Chan.routeLinks (c : Chan) (dst : Nat) : Nat :=
  let len (ax : Nat) (own : Bool) : Nat :=
    let n := c.ringLen ax
    let a := coord ax c.node
    let b := coord ax dst
    if chooseDir n a b (if own then c.recorded ax else none) then plusLen n a b else plusLen n b a
  len 0 true + len 1 (nodeX dst == nodeX c.node) + len 2 (nodeX dst == nodeX c.node && nodeY dst == nodeY c.node)

/-- The shaper holds 64 messages; a unit that finds it full waits for a place (R370). -/
def Chan.shape (c : Chan) (bs : List Byte) : Chan :=
  if c.tc0.length < 64 then (c.withTc0 (c.tc0 ++ [bs])) else (c.withTc0Wait (c.tc0Wait ++ [bs]))

/-- In BYPASS the channel injects nothing but the bells of its homeroom (R363). -/
def Chan.mute (c : Chan) : Bool := c.gf CS_CFG.MODE == 1

/-- A bell of this channel whose route has `n` links enters the shaper, or is refused by the hop limit (R371). -/
def Chan.originate (c : Chan) (k : Pkt) (n : Nat) : Chan :=
  if c.gf CS_CFG.TC0_HOP_LIMIT < n then
    ((c.count CS_CNT_TC0_REFUSED.COUNT 1).sf CS_STAT.TC0_REFUSED 1).ev 0x09 0xB9 2 (det [(16, 3, k.dst), (19, 2, n)])
  else c.shape k.bytes

/-- A routed bell of the homeroom, the service core or the collective engine. -/
def Chan.injectBell (c : Chan) (k : Pkt) : Chan :=
  if c.mute && bellKind k == 6 then c else c.originate k (if k.dst = c.node then 0 else c.routeLinks k.dst)

/-- The shaper admits at most one message per µs, with no burst. -/
def Chan.pumpTc0 : Nat → Chan → Chan
  | 0, c => c
  | fuel + 1, c =>
    match c.tc0 with
    | [] => c
    | b :: r =>
      if c.now < c.tc0Next then c
      else
        let r := r ++ c.tc0Wait.take 1
        Chan.pumpTc0 fuel (((((c.withTc0 r).withTc0Wait (c.tc0Wait.drop 1)).withTc0Next (c.now + tUs)) : Chan).emit 0 (parsePkt b))

/-! ### Remote operations (R49, R364, R366) -/

def maxOutstanding : Nat := 4096

def Chan.outstanding (c : Chan) (kind : Nat) : Nat := (c.ops.filter (fun o => o.kind == kind)).length

/-- A transaction id that no outstanding operation uses. -/
def Chan.freeTid (c : Chan) : Nat → Nat → Option Nat
  | 0, _ => none
  | fuel + 1, t => if c.ops.any (fun o => o.tid == t) then Chan.freeTid c fuel ((t + 1) % 8192) else some t

/-- Is there room for an operation (R49)?  CE_PARTIAL counts toward neither limit (R364). -/
def Chan.room (c : Chan) (kind : Nat) : Bool := 2 ≤ kind || c.outstanding kind < maxOutstanding

/-- Block id and unit of a host-bound write (Table 16-9): queue id, or hart number of a core's store. -/
def Chan.writer (c : Chan) (o : Op) : Nat × Nat :=
  match o.cont with
  | .core h _ _ _ _ | .coreStore h => (if h = 4 then 0x0E else 0x0D, h)
  | _ => (blockOfQ o.q, c.qidByte o.q)

/-- An operation leaves (a CE_PARTIAL, which has no address, names its pair of virtual channels there until then): a fabric request by the switch, a host access to the host-port die. -/
def Chan.issue (c : Chan) (o : Op) (tid : Nat) : Chan :=
  let done : Op := { o with tid := tid, sent := c.now, pkt := { o.pkt with data := [] } }
  let c := ((c.withOps (c.ops ++ [done])).withNextTid ((tid + 1) % 8192))
  if o.host then
    (c.withOut (c.out ++ [if o.kind = 0 then .hostRead tid o.pkt.addr o.pkt.len
        else .hostWrite tid o.pkt.addr o.pkt.data (c.writer o).1 (c.writer o).2]))
  else
    c.sendPkt (if o.kind = 2 then o.pkt.addr else lowVc o.pkt.ptype)
      { o.pkt with tid := tid, src := c.node, addr := if o.kind = 2 then 0 else o.pkt.addr }

/-- Operations that wait leave in their order, while there is room (R49, R364) and the channel may inject (R363). -/
def Chan.pumpOps (c : Chan) : Chan :=
  c.opq.foldl (fun c o =>
    if c.room o.kind && (o.host || !c.mute) then
      match Chan.freeTid c 8192 c.nextTid with
      | some t => c.issue o t
      | none => (c.withOpq (c.opq ++ [o]))
    else (c.withOpq (c.opq ++ [o]))) (c.withOpq [])

/-- A unit asks for a remote operation. -/
def Chan.request (c : Chan) (o : Op) : Chan := ((c.withOpq (c.opq ++ [o])) : Chan).pumpOps

/-- An operation of a started command; it counts as one more part of the command. -/
def Chan.cmdOp (c : Chan) (q seq : Nat) (o : Op) : Chan :=
  (c.onCmd q seq (fun h => { h with out := h.out + 1 })).request { o with q := q, cmd := seq }

def op0 : Op := { tid := 0, kind := 0, host := false, q := 0xFF, cmd := 0, pkt := pkt0, sent := 0, cont := .ack }

/-- Where the bytes that a command gathers beside its payload begin (a descriptor, a parameter record, a sample): past the end of
the longest payload, 2^34 bytes. -/
def sideAt : Nat := 2 ^ 40

/-- The largest piece that one operation moves (R354). -/
def maxData : Nat := 4032

/-- A transfer of `n` bytes from `a` on, cut in ascending order into pieces of 4,032 bytes. -/
def pieces : Nat → Nat → Nat → List (Nat × Nat)
  | 0, _, _ => []
  | fuel + 1, a, n => if n = 0 then [] else (a, min n maxData) :: pieces fuel (a + maxData) (n - maxData)

/-- The pieces of a transfer. -/
def cut (n : Nat) : List (Nat × Nat) := pieces (n / maxData + 1) 0 n

/-- Late responses and responses in general: the operation that a response completes. -/
def Chan.opOf (c : Chan) (tid : Nat) (host : Bool) : Option Op := c.ops.find? (fun o => o.tid == tid && o.host == host)
def Chan.opGone (c : Chan) (tid : Nat) (host : Bool) : Chan :=
  (c.withOps (c.ops.filter (fun o => !(o.tid == tid && o.host == host))))

/-- The halt code of an error response (Table 13-8). -/
def haltOfErr (err : Nat) : Nat := if err = 4 then haltADDR else if err = 5 then haltMEM else haltREMOTE

/-! ### The home channel (R29, R355, R363, R365, R368) -/

/-- Does the home channel turn a request away: in BYPASS or FENCED with FENCED, in a low-power state or a transition with
ASLEEP? -/
def Chan.homeErr (c : Chan) : Nat :=
  if c.gf CS_CFG.MODE = 1 ∨ c.gf HR_CSTATE.STATE = 5 then 2
  else if 2 ≤ c.gf HR_PSTATE.CUR ∨ c.flag HR_PSTATE.BUSY then 3
  else 0

/-- The local address of a request, when its extent may be reached (R29, R30). -/
def Chan.homeAddr (c : Chan) (k : Pkt) (n : Nat) : Option Nat :=
  match locOf k.addr with
  | .fab node a => if node = c.node ∧ inMem a n then some a else none
  | _ => none

/-- READ. -/
def Chan.homeRead (c : Chan) (k : Pkt) : Chan :=
  let e := c.homeErr
  if e ≠ 0 then c.respond k pERROR_RESP e []
  else
    match c.homeAddr k k.len with
    | none => c.respond k pERROR_RESP 4 []
    | some a =>
      match c.load a k.len with
      | (some bs, c) => c.respond k pREAD_DATA 0 bs
      | (none, c) => c.respond k pERROR_RESP 5 []

/-- WRITE: acknowledged once its data are visible (R54). -/
def Chan.homeWrite (c : Chan) (k : Pkt) : Chan :=
  let e := c.homeErr
  if e ≠ 0 then c.respond k pERROR_RESP e []
  else
    match c.homeAddr k k.data.length with
    | none => c.respond k pERROR_RESP 4 []
    | some a =>
      match c.store a k.data with
      | (false, c) => c.respond k pWRITE_ACK 0 []
      | (true, c) => c.respond k pERROR_RESP 5 []

/-- The new value of an atomic (R368). -/
def atomicNew (op old opd cmp : Nat) : Nat :=
  if op = 0 then (old + opd) % 2 ^ 64 else if op = 1 then opd else if old = cmp then opd else old

/-- ATOMIC. -/
def Chan.homeAtomic (c : Chan) (k : Pkt) : Chan :=
  let e := c.homeErr
  if e ≠ 0 then c.respond k pERROR_RESP e []
  else
    match c.homeAddr k 8 with
    | none => c.respond k pERROR_RESP 4 []
    | some a =>
      if a % 8 ≠ 0 then c.respond k pERROR_RESP 4 []
      else
        match c.load a 8 with
        | (none, c) => c.respond k pERROR_RESP 5 []
        | (some bs, c) =>
          let old := ofLe bs
          let new := atomicNew (bits k.aux 0 2) old k.aux2 (ofLe (k.data.take 8))
          match (if bits k.aux 0 2 = 2 ∧ old ≠ ofLe (k.data.take 8) then (false, c) else c.store a (leBytes 8 new)) with
          | (true, c) => c.respond k pERROR_RESP 5 []
          | (false, c) => c.respond k pATOMIC_DATA 0 bs

/-- R354, Table 13-9: packets of reserved type are discarded by every switch, bells of reserved kind at their
destination. -/
def Chan.dropReserved (c : Chan) (p vc : Nat) : Chan :=
  match c.headPkt p vc with
  | none => c
  | some (bs, flits) =>
    let k := parsePkt bs
    if !ptypeKnown k.ptype then
      ((c.dropHead p vc).freePlaces (some (p, vc)) flits).count CS_CNT_UNSUP.COUNT 1
    else if k.ptype = pBELL ∧ !bellKnown (bellKind k) then
      c.takePkt p vc (fun _ => true) (fun c _ => c.count CS_CNT_UNSUP.COUNT 1)
    else c

/-! ### Ring-break bells -/

/-- A bell for the node behind a port, on that one link. -/
def Chan.hopBell (c : Chan) (p kind : Nat) (data : List Byte) : Pkt :=
  { bell kind c.node (c.beyond p) data with dirs := setBits 0 (2 * axisOf p) 2 (if p % 2 = 0 then 1 else 2) }

/-- A ring bell leaves by a port; the switch's own is shaped and counts its one link, a forwarded one does neither (R370, R371,
R380). -/
def Chan.ringGoes (c : Chan) (p kind link : Nat) (own : Bool) : Chan :=
  let k := c.hopBell p kind (leBytes 1 (axisOf p) ++ leBytes 2 link)
  if own then c.originate k 1 else c.txPut p (c.outVc p 0 none) k none

/-- A ring bell goes on by a port, unless that link is broken or is the link it speaks of; while the link trains, which is no
break, the bell waits (R361). -/
def Chan.ringBell (c : Chan) (p kind link : Nat) (own : Bool) : Chan :=
  if c.linkId p = link then c
  else if c.linkUsable p then c.ringGoes p kind link own
  else if c.linkState p = linkTRAINING then c.onPort p (fun x => { x with news := x.news ++ [(kind, link, own)] })
  else c

/-- The training of a link has ended: the ring bells that waited for it leave. -/
def Chan.ringHeld (c : Chan) (p : Nat) : Chan :=
  (c.port p).news.foldl (fun c e => c.ringGoes p e.1 e.2.1 e.2.2) (c.onPort p (fun x => { x with news := [] }))

/-- The link behind a port breaks: both its ends learn it and send BREAK along the ring, away from the link. -/
def Chan.linkBreaks (c : Chan) (p : Nat) : Chan :=
  let ax := axisOf p
  (c.setKnown ax (insertLink (c.known ax) (c.linkId p))).ringBell (oppositePort p) 7 (c.linkId p) true

/-- The link behind a port returns. -/
def Chan.linkMends (c : Chan) (p : Nat) : Chan :=
  let ax := axisOf p
  if (c.known ax).contains (c.linkId p) then
    (c.setKnown ax ((c.known ax).filter (· != c.linkId p))).ringBell (oppositePort p) 8 (c.linkId p) true
  else c

/-- A BREAK or MEND bell reaches this switch by port `p`: it is kept and forwarded. -/
def Chan.ringNews (c : Chan) (p : Nat) (k : Pkt) : Chan :=
  let ax := leAt k.data 0 1
  let l := leAt k.data 1 2
  if 3 ≤ ax then c
  else
    let b := if bellKind k = 7 then insertLink (c.known ax) l else (c.known ax).filter (· != l)
    let c := c.setKnown ax b
    if p < 6 ∧ axisOf p = ax then c.ringBell (oppositePort p) (bellKind k) l false else c

end Sys2Proof.Machine
end

