-- ==== Sys2Proof/Machine/Report.lean ====
section
/-!
DEFINITION. The report card (R151 to R155) and Elvey 2 mode (R156, R157).
-/
namespace Sys2Proof.Machine

/-- The key of word `k` of tag `t`'s report card entry (R153). -/
def rptKey (t k : Nat) : Nat := 0x190000 + 64 * (t % 4096) + 8 * k

def maxU64 : Nat := 2 ^ 64 - 1

/-- A report card counter gains `n`; it holds at its largest value (R151).  The increment is noted for a clear or a copy in
the same cycle (R152, R155). -/
def Chan.rptAdd (c : Chan) (t k n : Nat) : Chan :=
  if n = 0 then c
  else
    let off := rptKey t k
    let (old, sum) := c.cycOf off
    (c.noteCyc off old (sum + n)).wr off (min maxU64 (c.rd off + n))

/-- The larger of two largest-exponent words: EXP signed 16 bits, bit 16 VALID. -/
def maxExpWord (a b : Nat) : Nat :=
  if !bit a 16 then b else if !bit b 16 then a else if toSigned 16 a ≥ toSigned 16 b then a else b

/-- A largest-exponent word for an exponent. -/
def expWord (e : Int) : Nat := ofSigned 16 e + 2 ^ 16

/-- The largest exponent of tag `t` takes account of `e`. -/
def Chan.rptExp (c : Chan) (t : Nat) (e : Int) : Chan :=
  let off := rptKey t 6
  let (old, m) := c.cycOf off
  (c.noteCyc off old (maxExpWord m (expWord e))).wr off (maxExpWord (c.rd off) (expWord e))

/-- What a converting command counted: converted, overflowed, vanished, subnormal and the largest exponent. -/
structure ConvCnt where
  conv : Nat := 0
  ovf : Nat := 0
  van : Nat := 0
  sub : Nat := 0
  maxExp : Option Int := none
  deriving DecidableEq, Repr

def maxOpt (a b : Option Int) : Option Int :=
  match a, b with
  | none, b => b
  | a, none => a
  | some x, some y => some (max x y)

def ConvCnt.add (a b : ConvCnt) : ConvCnt :=
  { conv := a.conv + b.conv, ovf := a.ovf + b.ovf, van := a.van + b.van, sub := a.sub + b.sub,
    maxExp := maxOpt a.maxExp b.maxExp }

/-- R142: a member command of an open region overflowed: one that started after its queue's RETAKE_BEGIN. -/
def Chan.noteOvf (c : Chan) (q seq tag : Nat) : Chan :=
  match (c.queue q).rtk.filter (fun _ => ((c.queue q).cmd? seq).any (·.logged)) with
  | none => c
  | some m =>
    let r := c.retake m.region
    (c.setRetake m.region { r with ovfs := r.ovfs ++ [(q, seq, tag)] }).sf (CH_RTK_STAT.OVF m.region) 1

/-- A converting command counts to its tag's entry (Table 6-4). -/
def Chan.rptConv (c : Chan) (q seq tag : Nat) (k : ConvCnt) : Chan :=
  let c := (((c.rptAdd tag 0 k.conv).rptAdd tag 1 k.ovf).rptAdd tag 2 k.van).rptAdd tag 3 k.sub
  let c := match k.maxExp with | some e => c.rptExp tag e | none => c
  if k.ovf = 0 then c else c.noteOvf q seq tag

/-- RPT_CLR.ONE (R154): the entry is cleared; increments of the same cycle are applied after the clear (R152). -/
def Chan.rptClear (c : Chan) (t : Nat) : Chan :=
  (List.range 7).foldl (fun c k =>
    let off := rptKey t k
    let (_, sum) := c.cycOf off
    (c.noteCyc off 0 sum).wr off (min maxU64 sum)) c

/-- RPT_CLR.ALL. -/
def Chan.rptClearAll (c : Chan) : Chan :=
  let live := c.cyc.filter (fun e => 0x190000 ≤ e.1 && e.1 < 0x1D0000 && e.2.1 == c.now / 4)
  let c := c.resetRange 0x190000 0x1D0000
  live.foldl (fun c e => (c.noteCyc e.1 0 e.2.2.2).wr e.1 (min maxU64 e.2.2.2)) c

/-- RPT_SNAP_CTL (R155): the entry as it stood before this cycle's increments is copied; with CLR it is cleared in the
cycle of the copy. -/
def Chan.rptSnap (c : Chan) (v : Nat) : Chan :=
  let t := bits v 0 12
  let c1 := (List.range 7).foldl (fun c' k => c'.wr (RPT_SNAP.off k) (c.cycOf (rptKey t k)).1) c
  let c1 := c1.sf RPT_SNAP_TAG.TAG t
  if bit v 16 then c1.rptClear t else c1

/-- A write of RPT_CLR: ALL takes precedence over ONE. -/
def Chan.rptClrWrite (c : Chan) (v : Nat) : Chan :=
  if bit v 17 then c.rptClearAll else if bit v 16 then c.rptClear (bits v 0 12) else c

/-- Elvey 2 mode is on. -/
def Chan.e2 (c : Chan) : Bool := c.flag CH_E2_MODE.ENABLE

end Sys2Proof.Machine
end

