-- ==== Sys2Proof/Machine/Retake.lean ====
section
/-!
DEFINITION. Retake regions (R136 to R150).
-/
namespace Sys2Proof.Machine

/-- The member queues of region `n`. -/
def Chan.members (c : Chan) (n : Nat) : List Nat :=
  (List.range 21).filter (fun q => bit (c.gf (CH_RTK_CTL.MEMBERS n)) q)

/-- RETAKE_BEGIN joins its region, opening it if it is closed (R137). -/
def Chan.rtkJoin (c : Chan) (q seq : Nat) : Chan :=
  match (c.queue q).cmd? seq with
  | none => c
  | some h =>
    let n := fieldOf h.raw 25 25
    let c :=
      if c.flag (CH_RTK_STAT.OPEN n) then c
      else
        let c := c.setRetake n {}
        let commits := c.gf (CH_RTK_STAT.COMMITS n)
        c.wr (CH_RTK_STAT.off n) (1 + commits * 2 ^ 48)
    let mark := if isVe q then c.gf (VE_VL.VL (q - 0x10)) else 0
    c.onQueue q (fun x => { x with
      rtk := some { region := n, inSeg := h.inSeg,
                    replay := if h.inSeg then (x.seg.map (·.pos)).getD 0 else h.ent + 1, mark := mark }
      arrived := false })

/-- RETAKE_BEGIN (R136, R137, Table 3-8 rows 4 and 6). -/
def specRetakeBegin : CmdSpec where
  fields := fun c q _ raw =>
    let n := fieldOf raw 25 25
    mustBe 24 (fieldOf raw 24 24 ≤ 1 && fieldOf raw 24 24 == c.gf (CH_RTK_CTL.LADDER (n % 16))) ++
    mustBe 25 (n ≤ 15 && bit (c.gf (CH_RTK_CTL.MEMBERS (n % 16))) q) ++ zeroField raw 26 63
  rows := fun c q _ raw =>
    (if (c.queue q).rtk.isSome then [4] else []) ++ (if c.e2 && fieldOf raw 24 24 == 1 then [6] else [])
  start := fun c q seq => c.rtkJoin q seq
  atOnce := true

/-- A member arrives at RETAKE_END once every earlier command has completed (R143). -/
def Chan.rtkArrive (c : Chan) (q : Nat) : Option Chan :=
  let x := c.queue q
  match x.rtk with
  | none => none
  | some m =>
    if x.arrived ∨ ¬ x.started.isEmpty then some c
    else
      let c := c.setQueue q { x with arrived := true }
      some (c.sf ⟨CH_RTK_STAT.off m.region, 8 + q, 1⟩ 1)

/-- RETAKE_END (R143, Table 3-8 row 5). -/
def specRetakeEnd : CmdSpec where
  fields := fun _ _ _ raw => zeroField raw 24 24 ++ mustBe 25 (fieldOf raw 25 25 ≤ 15) ++ zeroField raw 26 63
  rows := fun c q _ raw =>
    match (c.queue q).rtk with
    | none => [5]
    | some m => if m.region = fieldOf raw 25 25 then [] else [5]
  park := fun c q => c.rtkArrive q
  atOnce := true

/-- The token log is undone: each logged sum is subtracted from its counter (R144). -/
def Chan.undoLog (c : Chan) : List (Nat × Nat) → Chan
  | [] => c
  | (i, n) :: r =>
    Chan.undoLog ((c.sf (CH_TOK.VALUE i) (c.tok i + 2 ^ 32 - n % 2 ^ 32)).withCyc (terase (CH_TOK.off i) c.cyc)) r

/-- A member's head moves to its replay pointer, and a vector engine's length returns to its mark (R143, R172).  Ring entries that a
FLUSH or a SKIP discarded behind the replay pointer run again with it (DESIGN CHOICE, notes/assumptions/148.md). -/
def Chan.replay (c : Chan) (q : Nat) : Chan :=
  match (c.queue q).rtk with
  | none => c
  | some m =>
    let c := c.onQueue q (fun x => { x with
      arrived := false, wait := none
      seg := if m.inSeg then x.seg.map (fun sg => { sg with pos := m.replay }) else x.seg
      ents := if m.inSeg then x.ents
        else x.ents.map (fun e => if m.replay ≤ e.seq then { e with started := false, consumed := false } else e) })
    if isVe q then c.sf (VE_VL.VL (q - 0x10)) m.mark else c

/-- The head RETAKE_END of a member applies its signals and completes, outside the region (Table 6-2, commit). -/
def Chan.finishEnd (c : Chan) (q : Nat) : Chan :=
  match c.head q with
  | (.cmd h, c) =>
    let (seq, c) := c.addStarted q h
    c.complete q seq
  | (_, c) => c

/-- A member leaves its region. -/
def Chan.rtkLeave (c : Chan) (q : Nat) : Chan :=
  c.onQueue q (fun x => ({ x with rtk := none, arrived := false } : Queue).purge)

/-- Distinct tags of a list. -/
def distinct : List Nat → List Nat
  | [] => []
  | a :: r => if r.contains a then distinct r else a :: distinct r

/-- The detail of RETAKE and RETAKE_FAULT (R148). -/
def rtkDetail (n attempt : Nat) (ovfs : List (Nat × Nat × Nat)) (tags : Nat) : Nat :=
  let q := (least (ovfs.map (·.1))).getD 0
  let mine := ovfs.filter (fun o => o.1 == q)
  let first := (least (mine.map (·.2.1))).getD 0
  let tag := ((mine.find? (fun o => o.2.1 == first)).map (·.2.2)).getD 0
  det [(16, 1, n), (17, 1, attempt), (18, 1, q), (19, 2, tag), (21, 4, tags)]

/-- R143, Table 6-2: once every member has arrived, the region commits, retakes or ends in a numeric fault. -/
def Chan.rtkResolve (c : Chan) (n : Nat) : Chan :=
  let r := c.retake n
  let ms := c.members n
  if ¬ c.flag (CH_RTK_STAT.OPEN n) ∨ r.aborting ∨ ms.isEmpty ∨
      c.gf (CH_RTK_STAT.ARRIVED n) ≠ c.gf (CH_RTK_CTL.MEMBERS n) ∨
      ms.any (fun q => (c.queue q).st ≠ .running) then c
  else
    let a := c.gf (CH_RTK_STAT.ATTEMPT n)
    let tags := distinct (r.ovfs.map (·.2.2))
    let c := (c.sf (CH_RTK_STAT.ARRIVED n) 0).sf (CH_RTK_STAT.LOG_USED n) 0
    if ¬ c.flag (CH_RTK_STAT.OVF n) then
      let c := (c.sf (CH_RTK_STAT.OPEN n) 0).count (CH_RTK_STAT.COMMITS n) 1
      let c := c.setRetake n {}
      let c := ms.foldl Chan.rtkLeave c
      ms.foldl Chan.finishEnd c
    else if a < 2 then
      let c := c.undoLog r.log
      let c := (c.sf (CH_RTK_STAT.ATTEMPT n) (a + 1)).sf (CH_RTK_STAT.OVF n) 0
      let c := tags.foldl (fun c t => c.rptAdd t 5 1) c
      let c := c.setRetake n {}
      let c := ms.foldl Chan.replay c
      c.ev 0x0C 0x0040 1 (rtkDetail n a r.ovfs tags.length)
    else
      let c := (c.sf (CH_RTK_STAT.OPEN n) 0).sf (CH_RTK_STAT.FAULT n) 1
      let c := c.setRetake n {}
      let c := ms.foldl Chan.rtkLeave c
      let c := ms.foldl (fun c q => let l := (c.queue q).loc; c.halt q haltNUMERIC 0x05 0 l.1 l.2) c
      c.ev 0x0C 0x0041 2 (rtkDetail n a r.ovfs 0)

/-- ABORT of an open region, step 1: every member queue halts as the HALT action does (R146). -/
def Chan.rtkAbort (c : Chan) (n : Nat) : Chan :=
  if ¬ c.flag (CH_RTK_STAT.OPEN n) ∨ (c.retake n).aborting then c
  else
    let c := c.setRetake n { (c.retake n) with aborting := true }
    (c.members n).foldl Chan.actHalt c

/-- ABORT, steps 2 and 3: once the started commands have completed, the token log is undone and the region closes.  A
command that has failed is not waited for (DESIGN CHOICE, notes/assumptions/149.md). -/
def Chan.rtkAborted (c : Chan) (n : Nat) : Chan :=
  let r := c.retake n
  let ms := c.members n
  if ¬ r.aborting ∨ ms.any (fun q => (c.queue q).busy != 0) then c
  else
    let c := c.undoLog r.log
    let c := ((c.sf (CH_RTK_STAT.OPEN n) 0).sf (CH_RTK_STAT.ARRIVED n) 0).sf (CH_RTK_STAT.LOG_USED n) 0
    let c := c.setRetake n {}
    let c := ms.foldl Chan.rtkLeave c
    c.ev 0x0C 0x0042 2 (det [(16, 1, n)])

/-- A write of CH_RTK_CTLn: MEMBERS and LADDER are ignored while the region is open (R147); ABORT acts. -/
def Chan.rtkCtlWrite (c : Chan) (n v : Nat) : Chan :=
  let c' := if c.flag (CH_RTK_STAT.OPEN n) then c
    else (c.sf (CH_RTK_CTL.MEMBERS n) v).sf (CH_RTK_CTL.LADDER n) (bits v 24 1)
  if bit v 32 then c'.rtkAbort n else c'

/-- R139, Table 6-1: `f` moved one rung up its ladder; a format not on the ladder, or on rung 2, stays.  Formats by their
numbers of Table 5-1: the chapter of the formats gives them. -/
def rungUp (ladder f e4m3 e5m2 bf16 fp32 mx4 mx8a mx8b : Nat) : Nat :=
  if ladder = 0 then if f = e4m3 ∨ f = e5m2 then bf16 else if f = bf16 then fp32 else f
  else if f = mx4 then mx8a else if f = mx8a ∨ f = mx8b then bf16 else f

/-- R156: are the engines quiet, so that CH_E2_MODE may change?  A command that has failed is not counted as started and not completed
(DESIGN CHOICE, notes/assumptions/149.md). -/
def Chan.e2Quiet (c : Chan) : Bool :=
  ((List.range 21).all (fun q => ((c.queue q).st == .idle || (c.queue q).st == .halted) && (c.queue q).busy == 0)) &&
  (List.range 16).all (fun n => !c.flag (CH_RTK_STAT.OPEN n))

end Sys2Proof.Machine
end

