-- ==== Sys2Proof/Machine/Matrix.lean ====
section
/-!
DEFINITION. Matrix engines (R93 to R118, R123 to R135, R158, R159, R570): weight loads, passes, the array and its ramp, the
accumulator store and the drain port.  Times are ACLK cycles of eight root ticks.
-/
namespace Sys2Proof.Machine

/-- The present ACLK cycle. -/
def Chan.cyc8 (c : Chan) : Nat := c.now / 8

/-- Closed ACLK cycles among cycles 0 to `k − 1` at DUTY `d` (R481). -/
def closedUpTo (d k : Nat) : Nat := k / 16 * (16 - d) + (k % 16 - k % 16 * d / 16)

/-- R481: is ACLK cycle `k` open at the present DUTY? -/
def Chan.openCycle (c : Chan) (k : Nat) : Bool :=
  let d := c.gf HR_THERM.DUTY
  (k % 16) * d / 16 < (k % 16 + 1) * d / 16

def Chan.me (c : Chan) (k : Nat) : Me := tget (fun _ => {}) c.mes k
def Chan.setMe (c : Chan) (k : Nat) (x : Me) : Chan := (c.withMes (tput (fun _ => {}) c.mes k x))
def Chan.onMe (c : Chan) (k : Nat) (f : Me → Me) : Chan := c.setMe k (f (c.me k))

def Me.accAt (x : Me) (r n : Nat) : Nat × Nat := tget (fun _ => (0, 0)) x.acc (r * 256 + n)
def Me.setAcc (x : Me) (r n : Nat) (v : Nat × Nat) : Me :=
  { x with acc := tput (fun _ => (0, 0)) x.acc (r * 256 + n) v }

/-! ### Formats and shapes (Tables 4-1, 4-2) -/

/-- The class of a matrix format by its K_fmt: 512, 256, 128 or 32. -/
def kFmt (fmt : Nat) : Nat :=
  if fmt = 6 then 512 else if fmt = 8 ∨ fmt = 9 then 128 else if fmt = 0x0C then 32 else 256

/-- Tile rows K′ of a shape. -/
def kTile (fmt shape : Nat) : Nat :=
  match shape with
  | 2 => kFmt fmt / 2 | 3 => kFmt fmt / 4 | 4 => kFmt fmt / 8 | _ => kFmt fmt

/-- The parameters of an ME_LOADW. -/
structure LoadParm where
  fmt : Nat
  shape : Nat
  trans : Bool
  half : Nat
  buf : Nat
  stride : Nat
  cols : Nat
  kk : Nat

def loadParm (raw : List Byte) : LoadParm :=
  let fmt := fieldOf raw 36 36
  let shape := fieldOf raw 37 37
  let b := fieldOf raw 38 38
  { fmt := fmt, shape := shape, trans := bit b 0, half := bits b 1 1, buf := bits b 2 1,
    stride := fieldOf raw 32 35, cols := if shape = 1 then 128 else 256, kk := kTile fmt shape }

/-- Bytes of one memory row, number of memory rows and scale bytes of a load (R98). -/
def LoadParm.rowBytes (p : LoadParm) : Nat := elemBytes p.fmt (if p.trans then p.cols else p.kk)
def LoadParm.memRows (p : LoadParm) : Nat := if p.trans then p.kk else p.cols
def LoadParm.scaleBytes (p : LoadParm) : Nat := p.cols * (p.kk / 32)

/-- An address operand of a matrix or vector engine: inline, or in the channel's own memory at an aligned address (R95,
R162); its byte offset where it is refused.  An INLINE operand lies in the command and has no address to align (DEDUCED,
notes/assumptions/127.md). -/
def localAddr (seg : Option Seg) (raw : List Byte) (off : Nat) (src : Bool) (n align : Nat) : List Nat :=
  match operand seg raw off src n with
  | .addr g =>
    match locOf g with
    | .lcl a => if inMem a n && a % align == 0 then [] else [off]
    | _ => [off]
  | _ => []

/-- Row 1 of Table 3-8 for the address fields of a command. -/
def basedRow (seg : Option Seg) (raw : List Byte) (offs : List Nat) : List Nat :=
  if offs.any (fun o => opdNoBase seg raw o) then [1] else []

/-- The bytes of an operand: inline payload, or a checked read of local memory. -/
def Chan.fetchOpd (c : Chan) (seg : Option Seg) (raw : List Byte) (off n : Nat) : Option (List Byte) × Chan :=
  match operand seg raw off true n with
  | .inl p => (some ((raw.drop p).take n), c)
  | .addr g => match locOf g with | .lcl a => c.load a n | _ => (some [], c)
  | _ => (some [], c)

/-- The local address of an operand; inline operands are addressed above the map, at 2^48 plus their byte. -/
def opdPlace (seg : Option Seg) (raw : List Byte) (off : Nat) : Nat :=
  match operand seg raw off true 0 with
  | .inl p => 2 ^ 48 + p
  | .addr g => bits g 0 40
  | _ => 0

/-- Bytes at a place that `opdPlace` gives. -/
def Chan.fetchPlace (c : Chan) (raw : List Byte) (p n : Nat) : Option (List Byte) × Chan :=
  if 2 ^ 48 ≤ p then (some ((raw.drop (p - 2 ^ 48)).take n), c) else c.load p n

/-- The segment of a queue. -/
def Chan.segOf (c : Chan) (q : Nat) : Option Seg := (c.queue q).seg

/-! ### ME_LOADW (R96 to R99) -/

/-- R97: the buffer's metadata after a load starts.  A load that starts again after a failure finds its own failed start as the
buffer's previous load (DESIGN CHOICE, notes/assumptions/128.md). -/
def Chan.meMeta (c : Chan) (k : Nat) (p : LoadParm) : Chan :=
  let x := c.me k
  let f (fl : Nat → Fld) : Nat := c.gf (fl k)
  let wFMT := if p.buf = 0 then ME_WBUF0.FMT else ME_WBUF1.FMT
  let wSHAPE := if p.buf = 0 then ME_WBUF0.SHAPE else ME_WBUF1.SHAPE
  let wTRANS := if p.buf = 0 then ME_WBUF0.TRANS else ME_WBUF1.TRANS
  let wLO := if p.buf = 0 then ME_WBUF0.LO_VALID else ME_WBUF1.LO_VALID
  let wHI := if p.buf = 0 then ME_WBUF0.HI_VALID else ME_WBUF1.HI_VALID
  let keepOther := p.shape = 1 ∧ f wSHAPE = 1 ∧ kFmt (f wFMT) = kFmt p.fmt ∧ f wTRANS = b2n p.trans ∧
    tget (fun _ => none) x.lastHalf p.buf = some (1 - p.half)
  let lo := if p.shape ≠ 1 ∨ p.half = 0 then 1 else if keepOther then f wLO else 0
  let hi := if p.shape ≠ 1 ∨ p.half = 1 then 1 else if keepOther then f wHI else 0
  let c := c.setMe k { x with
    lastHalf := tput (fun _ => none) x.lastHalf p.buf (if p.shape = 1 then some p.half else none)
    halfFmt :=
      if p.shape = 1 then tput (fun _ => 0) x.halfFmt (2 * p.buf + p.half) p.fmt
      else tput (fun _ => 0) (tput (fun _ => 0) x.halfFmt (2 * p.buf) p.fmt) (2 * p.buf + 1) p.fmt }
  ((((c.sf (wFMT k) p.fmt).sf (wSHAPE k) p.shape).sf (wTRANS k) (b2n p.trans)).sf (wLO k) lo).sf (wHI k) hi

/-- ME_LOADW's start: metadata, and a place at the loader.  A load that starts in the ACLK cycle in which the one before it completes
begins its lead in that cycle, and so does a command at the port (DESIGN CHOICE, notes/assumptions/147.md). -/
def Chan.meLoadStart (c : Chan) (q seq : Nat) : Chan :=
  match (c.queue q).cmd? seq with
  | none => c
  | some h =>
    let p := loadParm h.raw
    let c := c.meMeta q p
    let x := c.me q
    let c := c.setMe q { x with loads := x.loads ++ [{ seq := seq, buf := p.buf, lead := c.cyc8, moving := false, scale := opdPlace (c.segOf q) h.raw 40 }] }
    c.onCmd q seq (fun h => { h with out := 1, pos := opdPlace (c.segOf q) h.raw 24 })

def specLoadw : CmdSpec where
  fields := fun _ _ seg raw =>
    let p := loadParm raw
    let n := rowsExtent p.memRows p.rowBytes p.stride
    opdField seg raw 24 true n ++ mustBe 32 (p.stride % 32 = 0) ++ mustBe 36 (fmtOk p.fmt) ++ mustBe 37 (p.shape ≤ 4) ++
    mustBe 38 (fieldOf raw 38 38 < 8 && (p.half = 0 || p.shape = 1) && !(p.trans && isMx p.fmt)) ++ zeroField raw 39 39 ++
    (if isMx p.fmt then opdField seg raw 40 true p.scaleBytes else zeroField raw 40 47) ++ zeroField raw 48 63
  addrs := fun _ _ seg raw =>
    let p := loadParm raw
    localAddr seg raw 24 true (rowsExtent p.memRows p.rowBytes p.stride) 32 ++
    (if isMx p.fmt then localAddr seg raw 40 true p.scaleBytes 1 else [])
  rows := fun c _ seg raw =>
    let p := loadParm raw
    basedRow seg raw (24 :: (if isMx p.fmt then [40] else [])) ++ (if c.e2 && (isMx p.fmt || p.shape == 4) then [6] else [])
  start := fun c q seq => c.meLoadStart q seq

/-- Element codes of a tile, by array row and column, from its memory rows (R98). -/
def tileCodes (p : LoadParm) (rows : List (List Byte)) : List (Nat × Nat) :=
  (rows.zipIdx).flatMap (fun (bs, r) =>
    (List.range (if p.trans then p.cols else p.kk)).map (fun j =>
      let (k, col) := if p.trans then (r, j) else (j, r)
      (k * 256 + (if p.shape = 1 ∧ p.half = 1 then col + 128 else col), elemAt p.fmt bs j)))

/-- Memory rows read one after another. -/
def Chan.readRows (c : Chan) (raw : List Byte) (base stride len : Nat) : Nat → Option (List (List Byte)) × Chan
  | 0 => (some [], c)
  | n + 1 =>
    match Chan.readRows c raw base stride len n with
    | (none, c) => (none, c)
    | (some l, c) =>
      match c.fetchPlace raw (base + n * stride) len with
      | (none, c) => (none, c)
      | (some b, c) => (some (l ++ [b]), c)

/-- A load's transfer: the columns loaded are cleared over all array rows and written with the tile (R98, R99). -/
def Me.putTile (x : Me) (p : LoadParm) (codes : List (Nat × Nat)) (scales : List Byte) : Me :=
  let b := p.buf * 2 ^ 20
  let lo := if p.shape = 1 ∧ p.half = 1 then 128 else 0
  let inCols (n : Nat) : Bool := lo ≤ n && n < lo + p.cols
  let wElem := x.wElem.filter (fun e => !(b ≤ e.1 && e.1 < b + 2 ^ 20 && inCols ((e.1 - b) % 256)))
  let wElem := codes.foldl (fun t e => tput (fun _ => 0) t (b + e.1) e.2) wElem
  let wScale := x.wScale.filter (fun e => !(b ≤ e.1 && e.1 < b + 2 ^ 20 && inCols ((e.1 - b) / 16)))
  let nb := p.kk / 32
  let wScale := (List.range (if isMx p.fmt then p.cols * nb else 0)).foldl (fun t i =>
    tput (fun _ => 0) t (b + (lo + i / nb) * 16 + i % nb) (nth 0 scales i).toNat) wScale
  { x with wElem := wElem, wScale := wScale }

/-- The loader goes on to its next load, whose lead begins at cycle `cyc`. -/
def nextLoad (cyc : Nat) : List MeLoad → List MeLoad
  | _ :: m :: t => { m with lead := cyc } :: t
  | _ => []

/-- A command that ends leaves its engine: the loader goes on to its next load at cycle `cyc`. -/
def Me.leave (x : Me) (seq cyc : Nat) : Me :=
  { x with
    loads := if x.loads.head?.any (·.seq == seq) then nextLoad cyc x.loads else x.loads.filter (fun l => l.seq ≠ seq)
    passes := x.passes.filter (fun p => p.seq ≠ seq)
    feeder := x.feeder.filter (fun f => f.pass ≠ seq)
    rows := x.rows.filter (fun r => r.pass ≠ seq)
    port := x.port.filter (fun p => p.seq ≠ seq) }

/-- A started command of a matrix engine meets an uncorrectable codeword (Table 2-4); a load or port command behind it goes on.
A started pass then waits for it no longer, although R107 speaks of its completion: R82 lets started commands complete (DEDUCED,
notes/assumptions/129.md). -/
def Chan.meFail (c : Chan) (k seq : Nat) : Chan := (c.onMe k (fun x => x.leave seq (c.cyc8 + 1))).fail k seq haltMEM 0

/-- LOAD_TRANSFER (R99): the first load at the loader, 24 cycles after its lead began, no earlier than a_last + 257 of the
earlier passes on its buffer, all of whose rows have been taken; those still in the array meet the old tile. -/
def Chan.loadTransfer (c : Chan) (k : Nat) : Chan :=
  let x := c.me k
  match x.loads with
  | [] => c
  | l :: rest =>
    let early := x.passes.any (fun p => p.wbuf == l.buf && p.seq < l.seq && p.admitted < p.rows)
    let free : Bool := match tget? l.buf x.lastOn with | some a => a + 257 ≤ c.cyc8 | none => true
    if l.moving ∨ c.cyc8 < l.lead + 24 ∨ early ∨ ¬ free then c
    else
      match (c.queue k).cmd? l.seq with
      | none => c.setMe k { x with loads := nextLoad (c.cyc8 + 1) x.loads }
      | some h =>
        let p := loadParm h.raw
        let base := h.pos
        match c.readRows h.raw base p.stride p.rowBytes p.memRows with
        | (none, c) => c.meFail k l.seq
        | (some rows, c) =>
          let (sc, c) := if isMx p.fmt then c.fetchPlace h.raw l.scale p.scaleBytes else (some [], c)
          match sc with
          | none => c.meFail k l.seq
          | some sc =>
            let c := c.onMe k (fun x => { x.putTile p (tileCodes p rows) sc with
              loads := { l with moving := true } :: rest
              passes := x.passes.map (fun y =>
                if y.wbuf = l.buf ∧ y.seq < l.seq ∧ y.tile = none then { y with tile := some (x.wElem, x.wScale) } else y) })
            let t := if p.trans then 2 * p.cols else p.cols
            c.onCmd k l.seq (fun h => { h with out := 0, ready := 8 * (c.cyc8 + t - 1) })

/-! ### ME_PASS (R100 to R104) -/

/-- The metadata of a buffer. -/
def Chan.wbufMeta (c : Chan) (k b : Nat) : Nat × Nat × Bool × Bool :=
  if b = 0 then (c.gf (ME_WBUF0.FMT k), c.gf (ME_WBUF0.SHAPE k), c.flag (ME_WBUF0.LO_VALID k), c.flag (ME_WBUF0.HI_VALID k))
  else (c.gf (ME_WBUF1.FMT k), c.gf (ME_WBUF1.SHAPE k), c.flag (ME_WBUF1.LO_VALID k), c.flag (ME_WBUF1.HI_VALID k))

/-- K′ of a pass on engine `k`. -/
def Chan.passK (c : Chan) (k : Nat) (raw : List Byte) : Nat :=
  kTile (fieldOf raw 40 40) (c.wbufMeta k (bits (fieldOf raw 41 41) 0 1)).2.1

def rowRange (raw : List Byte) (offRows offAcc : Nat) : List Nat :=
  let rows := fieldOf raw offRows (offRows + 1)
  let acc := fieldOf raw offAcc (offAcc + 1)
  mustBe offRows (1 ≤ rows && rows ≤ 2048 && acc + rows ≤ 2048) ++ mustBe offAcc (acc ≤ 2047)

def specPass : CmdSpec where
  fields := fun c q seg raw =>
    let fmt := fieldOf raw 40 40
    let kk := c.passK q raw
    let rows := fieldOf raw 36 37
    opdField seg raw 24 true (rowsExtent rows (elemBytes fmt kk) (fieldOf raw 32 35)) ++
    mustBe 32 (fieldOf raw 32 35 % 32 = 0) ++ rowRange raw 36 38 ++
    mustBe 40 (fmtOk fmt && kFmt fmt == kFmt (c.wbufMeta q (bits (fieldOf raw 41 41) 0 1)).1) ++
    mustBe 41 (fieldOf raw 41 41 < 4) ++ zeroField raw 42 47 ++
    (if isMx fmt then opdField seg raw 48 true (rows * (kk / 32)) else zeroField raw 48 55) ++ zeroField raw 56 63
  addrs := fun c q seg raw =>
    let fmt := fieldOf raw 40 40
    let kk := c.passK q raw
    let rows := fieldOf raw 36 37
    localAddr seg raw 24 true (rowsExtent rows (elemBytes fmt kk) (fieldOf raw 32 35)) 32 ++
    (if isMx fmt then localAddr seg raw 48 true (rows * (kk / 32)) 1 else [])
  rows := fun c q seg raw =>
    let fmt := fieldOf raw 40 40
    basedRow seg raw (24 :: (if isMx fmt then [48] else [])) ++
    (if c.e2 && (isMx fmt || (c.wbufMeta q (bits (fieldOf raw 41 41) 0 1)).2.1 == 4) then [6] else [])
  start := fun c q seq =>
    match (c.queue q).cmd? seq with
    | none => c
    | some h =>
      let raw := h.raw
      let b := bits (fieldOf raw 41 41) 0 1
      let x := c.me q
      let m := c.wbufMeta q b
      let p : MePass :=
        { seq := seq, rows := fieldOf raw 36 37, accRow := fieldOf raw 38 39, fmt := fieldOf raw 40 40, wbuf := b,
          init := bit (fieldOf raw 41 41) 1, src := opdPlace (c.segOf q) raw 24, stride := fieldOf raw 32 35,
          scale := if isMx (fieldOf raw 40 40) then opdPlace (c.segOf q) raw 48 else 0, tag := tagOf raw,
          kk := c.passK q raw
          wfmt := (tget (fun _ => 0) x.halfFmt (2 * b), tget (fun _ => 0) x.halfFmt (2 * b + 1))
          valid := (m.2.2.1, m.2.2.2), started := c.cyc8, admitted := 0, inexact := false }
      (c.setMe q { x with passes := x.passes ++ [p] }).onCmd q seq (fun h => { h with out := p.rows })

/-- The state of an array at a cycle: 0 GATED, 1 RAMP_UP, 2 ACTIVE, 3 RAMP_DOWN (R106). -/
def Me.arrayState (x : Me) (cyc : Nat) : Nat :=
  match x.array with
  | 1 => if cyc < x.arrayAt + 32 then 1 else 2
  | 3 => if cyc < x.arrayAt + 32 then 3 else 0
  | n => n

/-- Is cell-row group `g` (0 to 7, 32 rows each) enabled at a cycle (R106)? -/
def Me.groupOn (x : Me) (cyc g : Nat) : Bool :=
  match x.array with
  | 1 => x.arrayAt + 4 * g ≤ cyc
  | 3 => cyc < x.arrayAt + 4 * (7 - g)
  | _ => false

/-- The pass whose rows are taken next. -/
def Me.nextPass (x : Me) : Option MePass := x.passes.find? (fun p => p.admitted < p.rows)

/-- R107 item 1: is the buffer of the pass loaded, at a cycle after that of its load's completion? -/
def Me.bufLoaded (x : Me) (p : MePass) (cyc : Nat) : Bool :=
  !x.loads.any (fun l => l.buf == p.wbuf && l.seq < p.seq) &&
  (match tget? p.wbuf x.loadDone with | some d => decide (d < cyc) | none => true)

/-- Cycles per row at the drain port (Table 4-5). -/
def portRate (kind : Nat) : Nat := if kind = 0x12 then 2 else if kind = 0x14 then 4 else 1

/-- The cycle from which row `i` of a port command has been read or cleared, once that is known: a row that was granted is read in
its two cycles at the function stage (R182). -/
def MePort.doneAt (p : MePort) (i : Nat) : Option Nat :=
  match p.grants[i]?, p.began with
  | some g, _ => some (g + 2)
  | none, some b => if i < p.pos then some (b + portRate p.kind * (i + 1)) else none
  | none, none => none

/-- R107 item 4: the cycle from which every earlier port command that touches accumulator row `r` has read or cleared it, once
that is known. -/
def Me.rowFrom (x : Me) (seq r : Nat) : Option Nat :=
  (x.port.filter (fun p => p.seq < seq && p.accRow ≤ r && r < p.accRow + p.rows)).foldl (fun t p =>
    match t, p.doneAt (r - p.accRow) with
    | some t, some d => some (max t d)
    | _, _ => none) (some 0)

/-- R107 item 4 at a cycle. -/
def Me.rowFree (x : Me) (cyc seq r : Nat) : Bool :=
  match x.rowFrom seq r with
  | some t => t ≤ cyc
  | none => false

/-! ### The feeder (R101) -/

/-- The row that comes `n` after the last one admitted, over the started passes in order. -/
def rowAhead : List MePass → Nat → Option (MePass × Nat)
  | [], _ => none
  | p :: r, n => if n < p.rows - p.admitted then some (p, p.admitted + n) else rowAhead r (n - (p.rows - p.admitted))

/-- Row `idx` of pass `seq` in the feeder. -/
def Me.fed (x : Me) (seq idx : Nat) : Option FeedRow := x.feeder.find? (fun f => f.pass == seq && f.idx == idx)

/-- Rows of queue `n` of the 256. -/
def Me.queueLen (x : Me) (n : Nat) : Nat := (x.feeder.filter (fun f => f.idx % 256 == n)).length

/-- The rows in the feeder that the array takes next. -/
def Me.nextRow (x : Me) : Option FeedRow := x.nextPass.bind (fun p => x.fed p.seq p.admitted)

/-! ### The pass's row -/

/-- The bytes of row `i` of a pass, its elements and its scales: `none` when a codeword is uncorrectable. -/
def Chan.readPassRow (c : Chan) (raw : List Byte) (p : MePass) (i : Nat) : Option FeedRow × Chan :=
  match c.fetchPlace raw (p.src + i * p.stride) (elemBytes p.fmt p.kk) with
  | (none, c) => (none, c)
  | (some bs, c) =>
    let ns := if isMx p.fmt then p.kk / 32 else 0
    match c.fetchPlace raw (p.scale + i * ns) ns with
    | (none, c) => (none, c)
    | (some sc, c) =>
      (some { pass := p.seq, idx := i, elems := (List.range p.kk).map (fun j => elemAt p.fmt bs j), scales := sc.map (·.toNat) }, c)

/-! ### Waiting cycles (R101, R117) -/

/-- Open ACLK cycles of the range from `lo` up to `hi` at the present DUTY (R481). -/
def Chan.openIn (c : Chan) (lo hi : Nat) : Nat :=
  let d := c.gf HR_THERM.DUTY
  (hi - lo) - (closedUpTo d (max lo hi) - closedUpTo d lo)

/-- Waiting cycles of engine `k` from cycle `lo` up to cycle `hi`, in which nothing else happened, are counted: bubbles while the
next row has not arrived, load waits while it lies in the feeder and its buffer is not loaded.  A row held under item 4 of R107
counts for neither. -/
def Chan.meWaits (c : Chan) (lo hi k : Nat) : Chan :=
  let x := c.me k
  match x.nextPass with
  | none => c
  | some p =>
    if !((c.queue k).cmd? p.seq).any (fun h => h.st == .running) then c
    else
      let taken (gap : Nat) : Nat := match x.lastAdmit with | some a => a + gap | none => 0
      let lo := max lo p.started
      match x.fed p.seq p.admitted with
      | none =>
        if x.array = 1 then
          c.count (ME_CNT_FEEDWAIT.COUNT k) (c.openIn (max (max lo (x.arrayAt + 32)) (taken (if c.e2 then 16 else 1))) hi)
        else c
      | some _ =>
        match x.rowFrom p.seq (p.accRow + p.admitted) with
        | none => c
        | some t =>
          let hi := if x.bufLoaded p hi then
              (match tget? p.wbuf x.loadDone with | some d => min hi (d + 1) | none => lo)
            else hi
          c.count (ME_CNT_LOADWAIT.COUNT k) (hi - max (max lo t) (taken 1))

/-! ### Data phases (R183, R284, R481) -/

def ceilDiv (a b : Nat) : Nat := (a + b - 1) / b

/-- The cycle after the `n`-th open cycle from cycle `lo` on, at DUTY `d`. -/
def openAfter (d lo n : Nat) : Option Nat :=
  if n = 0 then some lo
  else if d = 0 then none
  else
    let t := lo - closedUpTo d lo + n
    let w := (t - 1) / d
    some (16 * w + ceilDiv (16 * (t - w * d)) d)

/-- A data phase runs on from cycle `lo` up to cycle `hi` at DUTY `d`: what is left of it, and the cycle at which it ended. -/
def Phase.run (p : Phase) (d lo hi : Nat) : Phase × Option Nat :=
  match p.start with
  | none => (p, none)
  | some b =>
    let lo := max lo b
    let p : Phase :=
      if p.grants ∨ p.chunks = 0 then p
      else
        match openAfter d lo p.chunks with
        | some e =>
          if e ≤ hi then { p with chunks := 0, edge := e }
          else { p with chunks := p.chunks - ((hi - lo) - (closedUpTo d (max lo hi) - closedUpTo d lo)) }
        | none => p
    let e := max (b + p.bytes) p.edge
    (p, if p.chunks = 0 ∧ e ≤ hi then some e else none)

def Chan.phasesOf (c : Chan) (q : Nat) : List Phase := tget (fun _ => []) c.phases q
def Chan.setPhases (c : Chan) (q : Nat) (l : List Phase) : Chan := c.withPhases (tput (fun _ => []) c.phases q l)

/-- The first of the phases begins at cycle `cyc`, unless it has begun. -/
def startPhase (cyc : Nat) : List Phase → List Phase
  | [] => []
  | p :: r => { p with start := some (p.start.getD cyc) } :: r

/-- A started command takes its place behind the earlier command's data phase (R183). -/
def Chan.addPhase (c : Chan) (q : Nat) (p : Phase) : Chan := c.setPhases q (startPhase c.cyc8 (c.phasesOf q ++ [p]))

/-- The update unit has more elements to take for a command. -/
def Chan.addWork (c : Chan) (q seq cycles : Nat) : Chan :=
  if (c.phasesOf q).any (·.seq == seq) then
    c.setPhases q ((c.phasesOf q).map (fun p => if p.seq = seq then { p with chunks := p.chunks + cycles } else p))
  else c.addPhase q { seq := seq, grants := false, chunks := cycles, bytes := 0, lat := 0, start := none }

/-- The data phases of a queue run on; each that ends gives its command the tick from which it may complete. -/
def Chan.runPhases (lo hi q : Nat) : Nat → Chan → Chan
  | 0, c => c
  | fuel + 1, c =>
    match c.phasesOf q with
    | [] => c
    | p :: r =>
      if !((c.queue q).cmd? p.seq).any (fun h => h.st == .running) then Chan.runPhases lo hi q fuel (c.setPhases q (startPhase lo r))
      else
        match p.run (c.gf HR_THERM.DUTY) lo hi with
        | (p, none) => c.setPhases q (p :: r)
        | (_, some e) =>
          Chan.runPhases lo hi q fuel
            ((c.setPhases q (startPhase e r)).onCmd q p.seq (fun h => { h with ready := max h.ready (8 * (e + p.lat)) }))

/-- A command's data phase has not ended. -/
def Chan.phased (c : Chan) (q seq : Nat) : Bool := (c.phasesOf q).any (·.seq == seq)

/-! ### The pass sum (R123 to R126, R158) -/

/-- The exact product of two operands. -/
def prodNum (a b : Num) : Num :=
  match a, b with
  | .nan, _ | _, .nan => .nan
  | .inf s, .inf t => .inf (s != t)
  | .inf s, .fin t m _ | .fin t m _, .inf s => if m = 0 then .nan else .inf (s != t)
  | .fin s m q, .fin t n r => .fin (s != t) (m * n) (q + r)

/-- R123 step 1: the special result of a sum of products, if there is one. -/
def specialSum (ps : List Num) : Option Nat :=
  if ps.contains .nan then some nan32
  else
    let pos := ps.contains (.inf false)
    let neg := ps.contains (.inf true)
    if pos && neg then some nan32
    else if pos then some 0x7F800000
    else if neg then some 0xFF800000
    else none

/-- The weight exponent of the leading bit of the largest non-zero product. -/
def emaxProd (ps : List Num) : Option Int :=
  ps.foldl (fun e p => match p with
    | .fin _ m q => if m = 0 then e else maxOpt e (some ((msb m : Int) + q))
    | _ => e) none

/-- R123: the pass sum of a column with a window for N products: the FP32 result and whether bits were truncated. -/
def passSum (logN : Nat) (ps : List Num) : Nat × Bool :=
  match specialSum ps with
  | some v => (v, false)
  | none =>
    match emaxProd ps with
    | none => (0, false)
    | some e =>
      let l : Int := e + logN - 118
      let (acc, inexact) := ps.foldl (fun (r : Int × Bool) p =>
        match p with
        | .fin s m q =>
          if q < l then
            let sh := (l - q).toNat
            let mag : Int := (m / 2 ^ sh : Nat)
            (r.1 + (if s then -mag else mag), r.2 || m % 2 ^ sh != 0)
          else
            let mag : Int := (m * 2 ^ (q - l).toNat : Nat)
            (r.1 + (if s then -mag else mag), r.2)
        | _ => r) (0, false)
      ((if acc = 0 then 0 else rn (decide (acc < 0)) acc.natAbs l), inexact)

/-- R158: the exact sum of a group of products, rounded once. -/
def groupSum (ps : List Num) : Nat :=
  match specialSum ps with
  | some v => v
  | none =>
    let q0 : Int := ps.foldl (fun e p => match p with | .fin _ m q => if m = 0 then e else min e q | _ => e) 0
    let acc : Int := ps.foldl (fun a p => match p with
      | .fin s m q => if m = 0 then a else a + scaled s m q q0
      | _ => a) 0
    if acc = 0 then 0 else rn (decide (acc < 0)) acc.natAbs q0

/-- The products of column `n` for a row: tile rows 0 to K′ − 1. -/
def Me.products (x : Me) (p : MePass) (r : MeRow) (n : Nat) : List Num :=
  let wf := if n < 128 then p.wfmt.1 else p.wfmt.2
  let b := p.wbuf * 2 ^ 20
  let (wElem, wScale) := p.tile.getD (x.wElem, x.wScale)
  (r.elems.zipIdx).map (fun (a, j) =>
    let an := (fmtOf p.fmt).decode a
    let an := if isMx p.fmt then scaledNum an (e8m0 (nth 0 r.scales (j / 32))) else an
    let w := (fmtOf wf).decode (tget (fun _ => 0) wElem (b + j * 256 + n))
    let w := if isMx wf then scaledNum w (e8m0 (tget (fun _ => 0) wScale (b + n * 16 + j / 32))) else w
    prodNum an w)

/-- log2 of N by class (R123). -/
def logNOf (fmt : Nat) : Nat := match kFmt fmt with | 512 => 9 | 256 => 8 | 128 => 7 | _ => 5

/-- A list cut into groups of 32. -/
def groups32 : Nat → List Num → List (List Num)
  | 0, _ => []
  | fuel + 1, l => if l.isEmpty then [] else l.take 32 :: groups32 fuel (l.drop 32)

/-- R158: the sum word after the groups of an Elvey 2 pass. -/
def e2Accumulate (init : Bool) (s : Nat) (gs : List Nat) : Nat :=
  match init, gs with
  | true, g :: r => r.foldl add32 g
  | _, gs => gs.foldl add32 s

/-- ACC_WRITE (R102, R104, R125, R126): column `col` of row `row` of pass `ps`, at a_i + 267 + n or later, in the order in
which rows that write one entry were taken.  A column of an invalid half counts neither for the pass's inexactness nor for its
largest exponent (DESIGN CHOICE, notes/assumptions/131.md). -/
def Chan.accWrite (c : Chan) (k ps row col : Nat) : Chan :=
  let x := c.me k
  match x.rows.find? (fun r => r.pass == ps && r.idx == row), x.passes.find? (fun p => p.seq == ps) with
  | some r, some p =>
    let ar := p.accRow + row
    let older := x.rows.takeWhile (fun y => !(y.pass == ps && y.idx == row))
    let blocked := older.any (fun y => !bit y.cols col &&
      (match x.passes.find? (fun z => z.seq == y.pass) with | some z => z.accRow + y.idx == ar | none => false))
    if 256 ≤ col ∨ bit r.cols col ∨ c.cyc8 < r.at_ + 267 + col ∨ blocked then c
    else
      let valid := if col < 128 then p.valid.1 else p.valid.2
      let prods := x.products p r col
      let (s, e) := x.accAt ar col
      let gs := (groups32 16 prods).map groupSum
      let (v, inexact) := passSum (logNOf p.fmt) prods
      let entry := if c.e2 then (e2Accumulate p.init s gs, 0) else accCombine p.init s e v
      let exps := if c.e2 then gs.filterMap exp32? else (exp32? v).toList
      let full := r.cols + 2 ^ col = 2 ^ 256 - 1
      let rows :=
        if full then x.rows.filter (fun y => !(y.pass == ps && y.idx == row))
        else x.rows.map (fun y => if y.pass == ps && y.idx == row then { y with cols := y.cols + 2 ^ col } else y)
      let first := valid && !c.e2 && inexact && !p.inexact
      let x := { x with
        rows := rows
        passes := x.passes.map (fun y => if y.seq = ps then { y with inexact := y.inexact || first } else y) }
      let c := c.setMe k (if valid then x.setAcc ar col entry else x)
      let c := if first then c.rptAdd p.tag 4 1 else c
      let c := if valid then exps.foldl (fun c e => c.rptExp p.tag e) c else c
      if full then c.onCmd k ps (fun h => { h with out := h.out - 1, ready := max h.ready (8 * (r.at_ + 522)) }) else c
  | _, _ => c

/-! ### The ramp (R106) -/

/-- RAMP_UP: a gated array with a row ready in the feeder and its buffer loaded. -/
def Chan.rampUp (c : Chan) (k : Nat) : Chan :=
  let x := c.me k
  match x.nextPass with
  | none => c
  | some p =>
    if x.arrayState c.cyc8 = 0 ∧ x.nextRow.isSome ∧ x.bufLoaded p c.cyc8 then
      (c.setMe k { x with array := 1, arrayAt := c.cyc8 }).count (ME_CNT_RAMPS.COUNT k) 1
    else c

/-- RAMP_DOWN: at a_last + 511 with no row left to take.  An array that ramped up for a pass which failed before any row was ever
admitted has no a_last: it stays ACTIVE until a later row is admitted (DESIGN CHOICE, notes/assumptions/146.md). -/
def Chan.rampDown (c : Chan) (k : Nat) : Chan :=
  let x := c.me k
  match x.lastAdmit with
  | none => c
  | some a =>
    if x.arrayState c.cyc8 = 2 ∧ x.nextPass.isNone ∧ a + 511 ≤ c.cyc8 then
      c.setMe k { x with array := 3, arrayAt := c.cyc8 }
    else c

/-! ### The drain port (R107, R109, R127 to R135, R570) -/

/-- The present rung of a member queue's region (R139). -/
def Chan.promote (c : Chan) (q fmt : Nat) : Nat :=
  match (c.queue q).rtk with
  | none => fmt
  | some m =>
    let ladder := c.gf (CH_RTK_CTL.LADDER m.region)
    let up (f : Nat) := rungUp ladder f 0x00 0x01 0x08 0x0C 0x06 0x02 0x03
    match c.gf (CH_RTK_STAT.ATTEMPT m.region) with
    | 0 => fmt
    | 1 => up fmt
    | _ => up (up fmt)

/-- The parameters of an ME_DRAIN. -/
structure DrainParm where
  rows : Nat
  accRow : Nat
  stride : Nat
  ofmt : Nat
  act : Nat
  rtz : Bool
  sat : Bool
  perCol : Bool
  biasEn : Bool
  clear : Bool
  scale : Nat
  p0 : Nat
  p1 : Nat

def Chan.drainParm (c : Chan) (q : Nat) (raw : List Byte) : DrainParm :=
  let b := fieldOf raw 42 42
  { rows := fieldOf raw 36 37, accRow := fieldOf raw 38 39, stride := fieldOf raw 32 35
    ofmt := c.promote q (fieldOf raw 40 40), act := fieldOf raw 41 41
    rtz := bit b 0, sat := bit b 1, perCol := bit b 2, biasEn := bit b 3, clear := bit b 4
    scale := fieldOf raw 44 47, p0 := fieldOf raw 56 59, p1 := fieldOf raw 60 63 }

/-- Bytes that a drain writes from DST on (R132). -/
def DrainParm.extent (p : DrainParm) : Nat :=
  if isMx p.ofmt then p.rows * p.stride + 8 * p.rows else rowsExtent p.rows (elemBytes p.ofmt 256) p.stride

/-- Bytes of the per-column vectors (R129). -/
def DrainParm.vecBytes (p : DrainParm) : Nat := 1024 * (b2n p.perCol + b2n p.biasEn)

def specDrain : CmdSpec where
  fields := fun c q seg raw =>
    let p := c.drainParm q raw
    opdField seg raw 24 false p.extent ++
    mustBe 32 (p.stride % 32 = 0 && (!fmtOk p.ofmt || elemBytes p.ofmt 256 ≤ p.stride)) ++ rowRange raw 36 38 ++
    mustBe 40 (fmtOk p.ofmt) ++ mustBe 41 (p.act ≤ 0x0C) ++ mustBe 42 (fieldOf raw 42 42 < 32) ++ zeroField raw 43 43 ++
    mustBe 44 (!p.perCol || p.scale == 0) ++
    (if p.perCol || p.biasEn then opdField seg raw 48 true p.vecBytes else zeroField raw 48 55) ++
    mustBe 56 (match p.act with
      | 0x02 => true
      | 0x03 => !isNan32 p.p0 && !isNan32 p.p1 && !lt32 p.p1 p.p0
      | _ => p.p0 == 0) ++
    mustBe 60 (p.act == 0x03 || p.p1 == 0)
  addrs := fun c q seg raw =>
    let p := c.drainParm q raw
    localAddr seg raw 24 false p.extent 32 ++
    (if p.perCol || p.biasEn then localAddr seg raw 48 true p.vecBytes 32 else [])
  rows := fun c q seg raw =>
    let p := c.drainParm q raw
    basedRow seg raw (24 :: (if p.perCol || p.biasEn then [48] else [])) ++
    (if c.e2 && (isMx p.ofmt || (p.ofmt == 0 && !p.sat)) then [6] else [])

/-- FP32 words of a byte string. -/
def words32 (n : Nat) (bs : List Byte) : List Nat := (List.range n).map (fun i => leAt bs (4 * i) 4)

/-- R128: one entry through the stages before conversion. -/
def drainValue (p : DrainParm) (colscale bias : List Nat) (n : Nat) (entry : Nat × Nat) : Nat :=
  let v := add32 entry.1 entry.2
  let v := mul32 v (if p.perCol then nth 0 colscale n else p.scale)
  let v := if p.biasEn then add32 v (nth 0 bias n) else v
  activate p.act p.p0 p.p1 v

/-- A list cut into blocks of 32. -/
def blocks32 : Nat → List Nat → List (List Nat)
  | 0, _ => []
  | fuel + 1, l => if l.isEmpty then [] else l.take 32 :: blocks32 fuel (l.drop 32)

/-- What a list of conversions counts (R135, R151). -/
def countConv (vs : List Nat) (cs : List Conv) : ConvCnt :=
  { conv := cs.length, ovf := (cs.filter (·.ovf)).length, van := (cs.filter (·.van)).length,
    sub := (cs.filter (·.sub)).length
    maxExp := (vs.filterMap exp32?).foldl (fun m e => maxOpt m (some e)) none }

/-- FP32 values to packed elements of a format, with the scale bytes of an MX format (R132 to R134, R160, R163). -/
def convertAll (fmt : Nat) (mode : Rnd) (sat e2 : Bool) (vs : List Nat) : List Byte × List Byte × ConvCnt :=
  let f := fmtOf fmt
  if isMx fmt then
    let bs := (blocks32 vs.length vs).map (convertMx f mode)
    let cs := bs.flatMap (·.2)
    (packElems fmt (cs.map (·.code)), bs.map (fun b => BitVec.ofNat 8 b.1), countConv vs cs)
  else
    let cs := vs.map (convert f mode (sat || (e2 && fmt == 0)) e2)
    (packElems fmt (cs.map (·.code)), [], countConv vs cs)

/-- One accumulator row through the drain: converted, written and counted; true when a write failed (R34). -/
def Chan.drainRow (c : Chan) (k : Nat) (pt : MePort) (h : Started) (i : Nat) : Bool × Chan :=
  let p := c.drainParm k h.raw
  let x := c.me k
  let r := p.accRow + i
  let vs := (List.range 256).map (fun n => drainValue p pt.colscale pt.bias n (x.accAt r n))
  let (bs, sc, cnt) := convertAll p.ofmt (if p.rtz then .rtz else .rne) p.sat c.e2 vs
  let (bad, c) := c.store (h.pos + i * p.stride) bs
  let (bad', c) := if isMx p.ofmt then c.store (h.pos + p.rows * p.stride + 8 * i) sc else (false, c)
  let c := c.rptConv k h.seq (tagOf h.raw) cnt
  let c := if p.clear then c.onMe k (fun x => { x with acc := teraseRange (r * 256) (r * 256 + 256) x.acc }) else c
  (bad || bad', c)

/-- One row of a port command. -/
def Chan.portRow (c : Chan) (k : Nat) (pt : MePort) (h : Started) (i : Nat) : Bool × Chan :=
  let r := pt.accRow + i
  if pt.kind = 0x12 then c.drainRow k pt h i
  else if pt.kind = 0x14 then
    let x := c.me k
    let bs := (List.range 256).flatMap (fun n => let e := x.accAt r n; leBytes 4 e.1 ++ leBytes 4 e.2)
    c.store (h.pos + i * fieldOf h.raw 32 35) bs
  else (false, c.onMe k (fun x => { x with acc := teraseRange (r * 256) (r * 256 + 256) x.acc }))

/-- Rows `i`, …, `i + n − 1` of a port command. -/
def Chan.portRows (k : Nat) (pt : MePort) (h : Started) : Nat → Nat → Bool × Chan → Bool × Chan
  | 0, _, r => r
  | n + 1, i, r =>
    let (bad, c) := r.2.portRow k pt h i
    Chan.portRows k pt h n (i + 1) (r.1 || bad, c)

/-- Does a port command take its rows by function-stage grants? -/
def portGrant (h : Started) : Bool := opcodeOf h.raw == 0x12 && actGrant (fieldOf h.raw 41 41)

/-- The first command at the port begins at cycle `cyc` once every earlier pass that writes one of its rows has ended (R107 item
3, which the model holds for the whole command, not row by row: DESIGN CHOICE, notes/assumptions/130.md); a drain whose
activation needs grants then takes its rows with them.  After one that fails the next begins; `fuel` bounds their number. -/
def Chan.portGo (k cyc : Nat) : Nat → Chan → Chan
  | 0, c => c
  | fuel + 1, c =>
    let x := c.me k
    match x.port with
    | [] => c
    | pt :: rest =>
      let busy := x.passes.any (fun p => p.seq < pt.seq && p.accRow < pt.accRow + pt.rows && pt.accRow < p.accRow + p.rows)
      if pt.began.isSome ∨ busy then c
      else
        match (c.queue k).cmd? pt.seq with
        | none => Chan.portGo k cyc fuel (c.setMe k { x with port := rest })
        | some h =>
          if portGrant h then
            c.setMe k { x with port := { pt with began := some cyc } :: rest }
          else
            let (bad, c) := Chan.portRows k pt h pt.rows 0 (false, c)
            if bad then Chan.portGo k cyc fuel (c.meFail k pt.seq)
            else
              let tail := if pt.kind = 0x12 then 32 else if pt.kind = 0x14 then 24 else 0
              let c := c.onMe k (fun x => { x with port := { pt with began := some cyc, pos := pt.rows } :: rest })
              c.onCmd k pt.seq (fun h => { h with out := 0, ready := 8 * (cyc + portRate pt.kind * pt.rows + tail - 1) })

def Chan.portBegin (c : Chan) (k cyc : Nat) : Chan := Chan.portGo k cyc (c.me k).port.length c

/-- Row `n` after the last one admitted arrives in its feeder queue: at most 4,096 rows ahead, 16 rows to a queue (R101). -/
def Chan.feedOne (c : Chan) (k n : Nat) : Chan :=
  let x := c.me k
  match rowAhead x.passes n with
  | none => c
  | some (p, i) =>
    if (x.fed p.seq i).isSome ∨ 4096 ≤ n ∨ 16 ≤ x.queueLen (i % 256) then c
    else
      match (c.queue k).cmd? p.seq with
      | none => c
      | some h =>
        match c.readPassRow h.raw p i with
        | (none, c) => (c.meFail k p.seq).portBegin k c.cyc8
        | (some f, c) => c.onMe k (fun x => { x with feeder := x.feeder ++ [f] })

/-- `count` rows arrive, from the `n`-th on; rows may arrive out of order. -/
def Chan.feedRows (c : Chan) (k n count : Nat) : Chan := (List.range count).foldl (fun c j => c.feedOne k (n + j)) c

/-- ROW_ADMIT (R101, R102, R106, R107, R159, R481): the array takes the next row, which lies in the feeder. -/
def Chan.rowTake (c : Chan) (k : Nat) : Chan :=
  let x := c.me k
  let cyc := c.cyc8
  match x.nextPass, x.nextRow with
  | some p, some f =>
    let gap := if c.e2 then 16 else 1
    let spaced : Bool := match x.lastAdmit with | some a => a + gap ≤ cyc | none => true
    let st := x.arrayState cyc
    let ready : Bool := st == 2 || (st == 1 && x.arrayAt + 16 ≤ cyc)
    let r := p.accRow + p.admitted
    if ¬ spaced ∨ ¬ ready ∨ ¬ x.bufLoaded p cyc ∨ ¬ x.rowFree cyc p.seq r ∨ ¬ c.openCycle cyc then c
    else
      match (c.queue k).cmd? p.seq with
      | none => c.onMe k (fun x => x.leave p.seq (cyc + 1))
      | some _ =>
        (c.count (ME_CNT_ROWS.COUNT k) 1).onMe k (fun x => { x with
          passes := x.passes.map (fun y => if y.seq = p.seq then { y with admitted := y.admitted + 1 } else y)
          feeder := x.feeder.filter (fun g => g ≠ f)
          rows := x.rows ++ [{ pass := p.seq, idx := p.admitted, at_ := cyc, elems := f.elems, scales := f.scales, cols := 0 }]
          lastAdmit := some cyc
          lastOn := tins p.wbuf cyc (terase p.wbuf x.lastOn) })
  | _, _ => c

/-- A port command starts: vectors are read once (R129), and it takes its place at the port. -/
def Chan.portStart (c : Chan) (q seq : Nat) : Chan :=
  match (c.queue q).cmd? seq with
  | none => c
  | some h =>
    let op := opcodeOf h.raw
    let p := c.drainParm q h.raw
    let seg := c.segOf q
    let vec := op = 0x12 ∧ (p.perCol ∨ p.biasEn)
    let (v, c) := if vec then c.fetchOpd seg h.raw 48 p.vecBytes else (some [], c)
    match v with
    | none => c.fail q seq haltMEM 0
    | some bs =>
      let accRow := if op = 0x13 then fieldOf h.raw 24 25 else p.accRow
      let rows := if op = 0x13 then fieldOf h.raw 26 27 else p.rows
      let pt : MePort :=
        { seq := seq, kind := op, accRow := accRow, rows := rows, began := none, pos := 0, grants := [],
          colscale := if p.perCol then words32 256 bs else []
          bias := if p.biasEn then words32 256 (if p.perCol then bs.drop 1024 else bs) else [] }
      let c := c.onCmd q seq (fun h => { h with out := 1, pos := if op = 0x13 then 0 else opdPlace seg h.raw 24 })
      (c.onMe q (fun x => { x with port := x.port ++ [pt] })).portBegin q c.cyc8

def specAccClear : CmdSpec where
  fields := fun _ _ _ raw =>
    let rows := fieldOf raw 26 27
    let acc := fieldOf raw 24 25
    mustBe 26 (1 ≤ rows && rows ≤ 2048 && acc + rows ≤ 2048) ++ zeroField raw 28 63
  start := fun c q seq => c.portStart q seq

def specAccExport : CmdSpec where
  fields := fun _ _ seg raw =>
    let stride := fieldOf raw 32 35
    opdField seg raw 24 false (rowsExtent (fieldOf raw 36 37) 2048 stride) ++
    mustBe 32 (stride % 32 = 0 && 2048 ≤ stride) ++ rowRange raw 36 38 ++ zeroField raw 40 63
  addrs := fun _ _ seg raw => localAddr seg raw 24 false (rowsExtent (fieldOf raw 36 37) 2048 (fieldOf raw 32 35)) 32
  rows := fun _ _ seg raw => basedRow seg raw [24]
  start := fun c q seq => c.portStart q seq

/-- ME_DRAIN with its start. -/
def specMeDrain : CmdSpec := { specDrain with start := fun c q seq => c.portStart q seq }

/-- What the completion of a matrix command leaves: the loader goes on to its next load, the port to its next command, a
pass leaves the array. -/
def Chan.meDone (c : Chan) (k seq : Nat) : Chan :=
  let x := c.me k
  let loadDone := match x.loads.find? (fun l => l.seq == seq) with
    | some l => tins l.buf c.cyc8 (terase l.buf x.loadDone)
    | none => x.loadDone
  let c := c.setMe k { x.leave seq (c.cyc8 + 1) with loadDone := loadDone }
  c.portBegin k (c.cyc8 + 1)

/-- The value of ME_STAT (R115). -/
def Chan.meStat (c : Chan) (k : Nat) : Nat :=
  let x := c.me k
  let load := match x.loads with
    | l :: _ => l.moving || (l.lead ≤ c.cyc8 && c.cyc8 < l.lead + 24)
    | [] => false
  let drain := match x.port with
    | p :: _ => p.began.any (· ≤ c.cyc8)
    | [] => false
  let left := match x.nextPass with | some p => p.rows - p.admitted | none => 0
  x.arrayState c.cyc8 + left % 4096 * 2 ^ 4 + b2n load * 2 ^ 16 + b2n drain * 2 ^ 17 +
    min (c.queue k).busy 4 * 2 ^ 24

/-- Both weight buffers at their reset tiles (R97). -/
def Chan.meResetBufs (c : Chan) (k : Nat) : Chan :=
  let c := c.onMe k (fun x => { x with wElem := [], wScale := [], halfFmt := [], lastHalf := [], loadDone := [] })
  c.resetRange (ME_WBUF0.off k) (ME_WBUF1.off k + 8)

/-- A write of CH_E2_MODE (R156): taken only while the engines are quiet; both weight buffers of every engine then return
to their reset tiles. -/
def Chan.e2Write (c : Chan) (v : Nat) : Chan :=
  if bits v 0 1 = c.gf CH_E2_MODE.ENABLE then c
  else if c.e2Quiet then (List.range 16).foldl Chan.meResetBufs (c.sf CH_E2_MODE.ENABLE v)
  else c.ev 0x0C 0x0043 0 (det [(16, 1, bits v 0 1)])

end Sys2Proof.Machine
end

