-- ==== Sys2Proof/Machine/Transfer.lean ====
section
/-!
DEFINITION. Control commands (NOP, EVENT, LESSON_CALL, LESSON_RET, QCTL) and transfer commands (COPY, DELIVER, ATOMIC,
FENCE): Table 3-4, R54, R56, R66, R76, R81, R567, R568.
-/
namespace Sys2Proof.Machine

/-- NOP. -/
def specNop : CmdSpec where
  fields _ _ _ raw := zeroField raw 24 63
  atOnce := true

/-- EVENT: a program event under the block id of the queue's unit. -/
def specEvent : CmdSpec where
  fields _ _ _ raw :=
    mustBe 24 (0x8000 ≤ fieldOf raw 24 25) ++ mustBe 26 (fieldOf raw 26 26 ≤ 2) ++ zeroField raw 27 27 ++ zeroField raw 44 63
  start c q seq :=
    match (c.queue q).cmd? seq with
    | some h => c.qEv q (fieldOf h.raw 24 25) (fieldOf h.raw 26 26) (fieldOf h.raw 28 43)
    | none => c
  atOnce := true

/-! ### Lessons (R76) -/

/-- SS_STAT.STATE of a slot that is ACTIVE (Table 9-2). -/
def slotACTIVE : Nat := 2

/-- A LESSON_CALL starts: the queue enters the segment.  The call itself leaves the list of started commands; it is consumed,
with its signals, at the segment's LESSON_RET. -/
def Chan.callStart (c : Chan) (q seq : Nat) : Chan :=
  let x := c.queue q
  match x.cmd? seq with
  | none => c
  | some h =>
    let raw := h.raw
    let l := (x.ents.find? (fun e => e.seq == h.ent)).bind (·.launch)
    let sg : Seg :=
      { ent := h.ent, slot := h.slot, addr := fieldOf raw 24 31, count := fieldOf raw 32 33, ss := fieldOf raw 34 34
        phase := fieldOf raw 35 35, mb := fieldOf raw 36 39, ver := fieldOf raw 40 40, twin := fieldOf raw 41 41
        tbias := fieldOf raw 44 47, bases := (List.range 8).map (fun i => fieldOf raw (64 + 8 * i) (71 + 8 * i))
        launch := l, callSigs := h.sigs, callEvt := evtOf raw, callTag := tagOf raw, pos := 0, ret := false }
    let c := c.setQueue q { x with seg := some sg, started := x.started.filter (fun a => a.seq ≠ seq) }
    match l with
    | some n => c.callStarted n
    | none => c

def specCall : CmdSpec where
  fields _ _ _ raw :=
    mustBe 1 (extOf raw) ++ mustBe 21 (ilenOf raw = 8) ++ mustBe 24 (fieldOf raw 24 31 % 64 = 0) ++
    mustBe 32 (1 ≤ fieldOf raw 32 33 && fieldOf raw 32 33 ≤ 4096) ++ mustBe 34 (fieldOf raw 34 34 < 8) ++
    mustBe 35 (fieldOf raw 35 35 ≤ 1) ++ mustBe 40 (fieldOf raw 40 40 ≤ 3) ++ zeroField raw 42 43 ++ zeroField raw 48 63
  addrs _ _ _ raw := mustBe 24 (inMem (fieldOf raw 24 31) (64 * fieldOf raw 32 33))
  addrCode := haltLESSON
  rows c _ seg raw :=
    (if seg.isSome then [2] else []) ++ (if c.gf (SS_STAT.STATE (fieldOf raw 34 34)) = slotACTIVE then [] else [3])
  start c q seq := c.callStart q seq

/-- LESSON_RET: its signals and then the LESSON_CALL's. -/
def specRet : CmdSpec where
  fields _ _ _ raw := zeroField raw 24 63
  rows c q seg _ := (if seg.isNone then [1] else []) ++ (if (c.queue q).rtk.isSome then [4] else [])
  start c q seq :=
    match (c.queue q).seg with
    | some sg =>
      (c.onQueue q (fun x => { x with seg := some { sg with ret := true } })).onCmd q seq
        (fun h => { h with sigs := h.sigs ++ sg.callSigs })
    | none => c
  atOnce := true

/-! ### QCTL -/

/-- Is the queue in an open retake region? -/
def Chan.inRegion (c : Chan) (q : Nat) : Bool := (c.queue q).rtk.isSome

def specQctl : CmdSpec where
  fields _ q _ raw :=
    mustBe 24 (qidOk (fieldOf raw 24 24) && fieldOf raw 24 24 != q) ++ mustBe 25 (fieldOf raw 25 25 ≤ 3) ++ zeroField raw 26 63
  rows c q _ raw :=
    let t := fieldOf raw 24 24
    (if c.inRegion q then [4] else []) ++
    (if c.qDepth t = 0 ∨ !actionLegal (fieldOf raw 25 25) (c.queue t).st then [10] else [])
  start c q seq :=
    match (c.queue q).cmd? seq with
    | some h => c.act (fieldOf h.raw 24 24) (fieldOf h.raw 25 25)
    | none => c
  atOnce := true

/-! ### Moving data -/

/-- Data of a command go to a global address: local memory at once, another channel or the host by operations. -/
def Chan.putGlobal (c : Chan) (q seq g : Nat) (bs : List Byte) : Chan :=
  match locOf g with
  | .lcl a =>
    match c.store a bs with
    | (false, c) => c
    | (true, c) => c.fail q seq haltMEM 0
  | .fab node a =>
    (cut bs.length).foldl (fun c e => c.cmdOp q seq { op0 with
      kind := 1, pkt := { pkt0 with ptype := pWRITE, dst := node, len := e.2, addr := fabAddr node (a + e.1),
                                    data := (bs.drop e.1).take e.2 } }) c
  | .host pa =>
    (cut bs.length).foldl (fun c e => c.cmdOp q seq { op0 with
      kind := 1, host := true, pkt := { pkt0 with ptype := pWRITE, len := e.2, addr := pa + e.1, data := (bs.drop e.1).take e.2 } }) c
  | .bad => c

/-- Reads of `n` bytes of another channel or of the host for a command; `cont` says what each piece does. -/
def Chan.getRemote (c : Chan) (q seq : Nat) (l : Loc) (n : Nat) (cont : Nat → OpCont) : Chan :=
  match l with
  | .fab node a =>
    (cut n).foldl (fun c e => c.cmdOp q seq { op0 with
      cont := cont e.1, pkt := { pkt0 with ptype := pREAD, dst := node, len := e.2, addr := fabAddr node (a + e.1) } }) c
  | .host pa =>
    (cut n).foldl (fun c e => c.cmdOp q seq { op0 with
      host := true, cont := cont e.1, pkt := { pkt0 with ptype := pREAD, len := e.2, addr := pa + e.1 } }) c
  | _ => c

/-- Is a command of the queue still running? -/
def Chan.isRunning (c : Chan) (q seq : Nat) : Bool :=
  match (c.queue q).cmd? seq with | some h => h.st == .running | none => false

/-! ### COPY -/

def copyRows (raw : List Byte) : Nat := fieldOf raw 44 45
def copyLen (raw : List Byte) : Nat := fieldOf raw 40 43
def copySrcStride (raw : List Byte) : Nat := fieldOf raw 48 51
def copyDstStride (raw : List Byte) : Nat := fieldOf raw 52 55

/-- One row from a place to a global address. -/
def Chan.moveRow (c : Chan) (q seq : Nat) (raw : List Byte) (src : Opd) (off len dst : Nat) : Chan :=
  match src with
  | .inl p => c.putGlobal q seq dst ((raw.drop (p + off)).take len)
  | .addr g =>
    match locOf (g + off) with
    | .lcl a =>
      match c.load a len with
      | (some bs, c) => c.putGlobal q seq dst bs
      | (none, c) => c.fail q seq haltMEM 0
    | l => c.getRemote q seq l len (fun o => match locOf dst with | .lcl a => .toMem (a + o) | _ => .toGlobal (dst + o))
  | _ => c

/-- The rows of a copy, in their order, while the command has not failed.  A row is read whole before it is written, so a COPY
that overlaps itself, which R569 leaves to either outcome, has the result of ascending rows (DESIGN CHOICE,
notes/assumptions/22.md). -/
def Chan.moveRows (q seq : Nat) (raw : List Byte) (src : Opd) (dst len ss ds : Nat) : Nat → Nat → Chan → Chan
  | 0, _, c => c
  | n + 1, i, c =>
    if c.isRunning q seq then
      Chan.moveRows q seq raw src dst len ss ds n (i + 1) (c.moveRow q seq raw src (i * ss) len (dst + i * ds))
    else c

/-- The address that a destination operand names. -/
def opdGlobal (seg : Option Seg) (raw : List Byte) (off : Nat) : Nat :=
  match operand seg raw off false 0 with | .addr g => g | _ => 0

def Chan.copyStart (c : Chan) (q seq : Nat) : Chan :=
  match (c.queue q).cmd? seq with
  | none => c
  | some h =>
    let raw := h.raw
    let seg := c.segOf q
    let src := operand seg raw 24 true (rowsExtent (copyRows raw) (copyLen raw) (copySrcStride raw))
    let c := c.onCmd q seq (fun h => { h with ready := c.now + 4 * (32 + copyRows raw * ((copyLen raw + 255) / 256)) })
    Chan.moveRows q seq raw src (opdGlobal seg raw 32) (copyLen raw) (copySrcStride raw) (copyDstStride raw) (copyRows raw) 0 c

/-- Does an operand name FABRIC or HOST space? -/
def isRemote (seg : Option Seg) (raw : List Byte) (off : Nat) : Bool :=
  match operand seg raw off false 0 with
  | .addr g => match locOf g with | .lcl _ => false | .bad => false | _ => true
  | _ => false

/-- R49, R72: the outstanding-operation place that a command needs first is free: a read's where an operand at `srcs` lies in FABRIC
or HOST space, else a write's where its destination does. -/
def Chan.placeFree (c : Chan) (seg : Option Seg) (raw : List Byte) (srcs : List Nat) (dst : Nat) : Bool :=
  if srcs.any (isRemote seg raw) then c.room 0 else if isRemote seg raw dst then c.room 1 else true

def noBaseRow (seg : Option Seg) (raw : List Byte) (offs : List Nat) : List Nat :=
  if offs.any (opdNoBase seg raw) then [1] else []

def specCopy : CmdSpec where
  fields _ _ seg raw :=
    opdField seg raw 24 true (rowsExtent (copyRows raw) (copyLen raw) (copySrcStride raw)) ++ opdField seg raw 32 false 0 ++
    mustBe 40 (copyLen raw != 0) ++ mustBe 44 (copyRows raw != 0) ++ zeroField raw 46 47 ++ zeroField raw 56 63
  addrs _ _ seg raw :=
    opdAddr seg raw 24 true (rowsExtent (copyRows raw) (copyLen raw) (copySrcStride raw)) ++
    opdAddr seg raw 32 false (rowsExtent (copyRows raw) (copyLen raw) (copyDstStride raw))
  rows c q seg raw := noBaseRow seg raw [24, 32] ++ (if c.inRegion q ∧ isRemote seg raw 32 then [4] else [])
  credit c _ seg raw := c.placeFree seg raw [24] 32
  start c q seq := c.copyStart q seq

/-! ### DELIVER -/

def dlvLen (raw : List Byte) : Nat := fieldOf raw 40 43
/-- AUX of a DELIVER's packets: RX_SLOT and RX_QUEUE. -/
def dlvAux (raw : List Byte) : Nat := fieldOf raw 44 44 % 8 + fieldOf raw 45 45 % 2 * 8

/-- A DELIVER operand must name FABRIC space (R567). -/
def fabOnly (seg : Option Seg) (raw : List Byte) (off n : Nat) : List Nat :=
  match operand seg raw off false 0 with
  | .addr g => match locOf g with
    | .fab _ a => if inMem a n then [] else [off]
    | _ => [off]
  | _ => []

/-- The packets of a DELIVER with its payload and descriptor at hand: data in ascending OFFSET order, the descriptor last. -/
def Chan.deliverSend (c : Chan) (q seq : Nat) (raw : List Byte) (g : Nat) (payload desc : List Byte) : Chan :=
  match locOf g with
  | .fab node a =>
    let n := payload.length
    if extOf raw then
      c.cmdOp q seq { op0 with
        kind := 1, pkt := { pkt0 with ptype := pDELIVER_X, dst := node, len := n + 64, aux := dlvAux raw, addr := fabAddr node a,
                                      aux2 := n, data := payload ++ desc } }
    else
      let c := (cut n).foldl (fun c e => c.cmdOp q seq { op0 with
        kind := 1, pkt := { pkt0 with ptype := pDELIVER_DATA, dst := node, len := e.2, aux := dlvAux raw,
                                      addr := fabAddr node (a + e.1), aux2 := n + e.1 * 2 ^ 32, data := (payload.drop e.1).take e.2 } }) c
      c.cmdOp q seq { op0 with
        kind := 1, pkt := { pkt0 with ptype := pDELIVER_DESC, dst := node, len := 64, aux := dlvAux raw, addr := fabAddr node a,
                                      aux2 := n, data := desc } }
  | _ => c

/-- Bytes of an operand at hand: inline or local; `none` where they must be fetched. -/
def Chan.atHand (c : Chan) (seg : Option Seg) (raw : List Byte) (off n : Nat) : Option (Option (List Byte)) × Chan :=
  match operand seg raw off true n with
  | .inl p => (some (some ((raw.drop p).take n)), c)
  | .addr g =>
    match locOf g with
    | .lcl a => let (r, c) := c.load a n; (some r, c)
    | _ => (none, c)
  | _ => (some none, c)

/-- What a DELIVER has fetched: its payload and its descriptor. -/
def Chan.gatheredOf (c : Chan) (q seq : Nat) (desc : Bool) : List Byte :=
  ((c.gathered.filter (fun e => e.1 == q && e.2.1 == seq && decide (sideAt ≤ e.2.2.1) == desc)).map (fun e => e.2.2.2)).flatten

/-- A piece fetched for a DELIVER is put in its place. -/
def Chan.gatherPut (c : Chan) (q seq off : Nat) (bs : List Byte) : Chan :=
  let before := c.gathered.filter (fun e => !(e.1 == q && e.2.1 == seq) || e.2.2.1 < off)
  let after := c.gathered.filter (fun e => e.1 == q && e.2.1 == seq && off ≤ e.2.2.1)
  (c.withGathered (before ++ (q, seq, off, bs) :: after))

/-- Are pieces of a DELIVER still to come? -/
def Chan.gathering (c : Chan) (q seq : Nat) : Bool :=
  (c.ops ++ c.opq).any (fun o => o.q == q && o.cmd == seq && (match o.cont with | .gather _ => true | _ => false))

/-- A DELIVER whose bytes have all been fetched sends its packets. -/
def Chan.deliverGathered (c : Chan) (q seq : Nat) : Chan :=
  if c.gathering q seq then c
  else
    match (c.queue q).cmd? seq with
    | none => c
    | some h =>
      let payload := c.gatheredOf q seq false
      let desc := c.gatheredOf q seq true
      let c := (c.withGathered (c.gathered.filter (fun e => !(e.1 == q && e.2.1 == seq))))
      c.deliverSend q seq h.raw h.pos payload desc

def Chan.deliverStart (c : Chan) (q seq : Nat) : Chan :=
  match (c.queue q).cmd? seq with
  | none => c
  | some h =>
    let raw := h.raw
    let seg := c.segOf q
    let g := opdGlobal seg raw 32
    let c := c.onCmd q seq (fun h => { h with pos := g })
    let (pl, c) := c.atHand seg raw 24 (dlvLen raw)
    let (ds, c) := c.atHand seg raw 48 64
    match pl, ds with
    | some none, _ | _, some none => c.fail q seq haltMEM 0
    | some (some p), some (some d) => c.deliverSend q seq raw g p d
    | pl, ds =>
      let fetch (c : Chan) (r : Option (Option (List Byte))) (off n : Nat) (isDesc : Bool) : Chan :=
        match r, operand seg raw off true n with
        | some (some b), _ => c.gatherPut q seq (if isDesc then sideAt else 0) b
        | _, .addr g => c.getRemote q seq (locOf g) n (fun o => .gather (if isDesc then sideAt else o))
        | _, _ => c
      fetch (fetch c pl 24 (dlvLen raw) false) ds 48 64 true

def specDeliver : CmdSpec where
  fields _ _ seg raw :=
    let inl (off : Nat) : Bool := match operand seg raw off true 0 with | .inl _ => true | _ => false
    opdField seg raw 24 true (dlvLen raw) ++ opdField seg raw 32 false 0 ++ opdField seg raw 48 true 64 ++
    mustBe 44 (fieldOf raw 44 44 < 8) ++ mustBe 45 (fieldOf raw 45 45 ≤ 1) ++ zeroField raw 46 47 ++ zeroField raw 56 63 ++
    (if extOf raw then mustBe 40 (dlvLen raw ≤ 128) ++ mustBe 24 (inl 24) ++ mustBe 48 (inl 48) else [])
  addrs _ _ seg raw :=
    opdAddr seg raw 24 true (dlvLen raw) ++ fabOnly seg raw 32 (dlvLen raw) ++ opdAddr seg raw 48 true 64
  rows c q seg raw :=
    noBaseRow seg raw [24, 32, 48] ++ (if c.inRegion q then [4] else []) ++
    (if extOf raw then
      match locOf (opdGlobal seg raw 32) with
      | .fab node _ => if c.route { pkt0 with ptype := pDELIVER_X, dst := node } = .unsup then [7] else []
      | _ => []
    else [])
  credit c _ seg raw := c.placeFree seg raw [24, 48] 32
  start c q seq := c.deliverStart q seq

/-! ### ATOMIC and FENCE -/

def specAtomic : CmdSpec where
  fields _ _ seg raw :=
    opdField seg raw 24 false 0 ++ opdField seg raw 48 false 0 ++ mustBe 56 (fieldOf raw 56 56 ≤ 2) ++ zeroField raw 57 63
  addrs _ _ seg raw :=
    fabOnly seg raw 24 8 ++ mustBe 24 (opdGlobal seg raw 24 % 8 = 0) ++ opdAddr seg raw 48 false 8
  rows c q seg raw := noBaseRow seg raw [24, 48] ++ (if c.inRegion q then [4] else [])
  credit c _ seg raw := c.placeFree seg raw [24] 48
  start c q seq :=
    match (c.queue q).cmd? seq with
    | none => c
    | some h =>
      let seg := c.segOf q
      match locOf (opdGlobal seg h.raw 24) with
      | .fab node a =>
        let op := fieldOf h.raw 56 56
        let data := if op = 2 then leBytes 8 (fieldOf h.raw 40 47) else []
        c.cmdOp q seq { op0 with
          cont := .result (opdGlobal seg h.raw 48)
          pkt := { pkt0 with ptype := pATOMIC, dst := node, len := data.length, aux := op, addr := fabAddr node a,
                             aux2 := fieldOf h.raw 32 39, data := data } }
      | _ => c

/-- FENCE. -/
def specFence : CmdSpec where
  fields _ _ _ raw := zeroField raw 24 63

/-- A remote write, or a read whose data will be written to another channel or to the host. -/
def Op.writes (o : Op) : Bool :=
  o.kind == 1 ||
  (match o.cont with
   | .toGlobal g | .result g => (match locOf g with | .lcl _ => false | _ => true)
   | .gather _ => true
   | _ => false)

/-- A FENCE may complete: every earlier remote write of its transfer engine is acknowledged, those of failed commands and those
whose data are still being fetched among them (R54). -/
def Chan.fenceMayEnd (c : Chan) (q seq : Nat) : Bool :=
  !(c.ops ++ c.opq).any (fun o => o.writes && o.q == q && decide (o.cmd < seq))

end Sys2Proof.Machine
end

