-- ==== Sys2Proof/Machine/Slots.lean ====
section
/-!
DEFINITION. Stage slots (R232 to R243), the version store (R261 to R266) and the receiver of a DELIVER (R237, R238,
R367).
-/
namespace Sys2Proof.Machine

def Chan.slot (c : Chan) (s : Nat) : Slot := tget (fun _ => {}) c.slots s
def Chan.setSlot (c : Chan) (s : Nat) (x : Slot) : Chan := (c.withSlots (tput (fun _ => {}) c.slots s x))
def Chan.onSlot (c : Chan) (s : Nat) (f : Slot → Slot) : Chan := c.setSlot s (f (c.slot s))

/-- Slot states (Table 9-1). -/
def ssUNBOUND : Nat := 0
def ssBOUND : Nat := 1
def ssACTIVE : Nat := 2
def ssDRAINING : Nat := 3
def ssFENCED : Nat := 4

def Chan.ssState (c : Chan) (s : Nat) : Nat := c.gf (SS_STAT.STATE s)

/-- Entries not yet launched. -/
def waitingEnts (l : List DescEnt) : List DescEnt := l.filter (fun e => !e.taken && !e.released)

/-- The status fields that count (R253): INFLIGHT, FQ_FILL, BQ_FILL, LAUNCHES and END_PENDING. -/
def Chan.syncSlot (c : Chan) (s : Nat) : Chan :=
  let x := c.slot s
  let c := (c.sf (SS_STAT.INFLIGHT s) x.recs.length).sf (SS_STAT.LAUNCHES s) x.launches.length
  let c := (c.sf (SS_STAT.FQ_FILL s) (waitingEnts x.fq).length).sf (SS_STAT.BQ_FILL s) (waitingEnts x.bq).length
  c.sf (SS_STAT.END_PENDING s) (b2n (!x.ends.isEmpty && (c.flag (SS_STAT.STOPPING s) || c.ssState s != ssACTIVE)))

/-- SLOT_ACTION_IGNORED. -/
def Chan.slotIgnored (c : Chan) (s action off : Nat) : Chan :=
  c.ev 0x07 0x60 0 (det [(16, 1, s), (17, 1, action), (18, 1, c.ssState s), (19, 2, off)])

/-! ### The version store (R261 to R266) -/

/-- Table 10-1: entries per virtual stage and the staleness bound. -/
def Chan.vsE (c : Chan) (s : Nat) : Nat :=
  match c.gf (VS_CFG.MODE s) with | 0 => 1 | 1 => 2 | _ => 4
def Chan.vsStale (c : Chan) (s : Nat) : Nat :=
  match c.gf (VS_CFG.MODE s) with | 0 => 0 | 1 => 1 | _ => c.gf (VS_CFG.STALE s)

/-- The virtual stage that owns an entry. -/
def Chan.vsOwner (c : Chan) (s k : Nat) : Nat := k / c.vsE s

def Chan.vsReady (c : Chan) (s k : Nat) : Bool := c.flag (VS_ENT_A.STATE s k)

/-- R264: the entry named for step `st` of virtual stage `v`. -/
def Chan.vsNames (c : Chan) (s v st : Nat) : Option Nat :=
  let ok (k : Nat) : Bool :=
    c.vsReady s k && !c.claimed (VS_ENT_A.off s k) && c.vsOwner s k == v &&
    (let d := toSigned 32 (st + 2 ^ 32 - c.gf (VS_ENT_A.BASE_STEP s k)); decide (0 ≤ d) && decide (d ≤ (c.vsStale s : Int)))
  ((List.range 4).filter ok).foldl (fun b k =>
    match b with
    | none => some k
    | some j => if later 32 (c.gf (VS_ENT_A.BASE_STEP s k)) (c.gf (VS_ENT_A.BASE_STEP s j)) then some k else some j) none

/-- Naming an entry for a step. -/
def Chan.vsTake (c : Chan) (s k st : Nat) : Chan :=
  let c := c.count (VS_ENT_A.REFS s k) 1
  if later 32 st (c.gf (VS_ENT_B.LAST_STEP s k)) then c.sf (VS_ENT_B.LAST_STEP s k) st else c

/-- Freeing a record drops its reference. -/
def Chan.vsDrop (c : Chan) (s k : Nat) : Chan := c.sf (VS_ENT_A.REFS s k) (c.gf (VS_ENT_A.REFS s k) - 1)

/-- The three conditions of R265. -/
def Chan.vsRetires (c : Chan) (s k : Nat) : Bool :=
  let d := c.gf (VS_DONE.DONE_STEP s)
  let b := c.gf (VS_ENT_A.BASE_STEP s k)
  let newer := (List.range 4).any (fun j => c.vsReady s j && c.vsOwner s j == c.vsOwner s k && later 32 (c.gf (VS_ENT_A.BASE_STEP s j)) b)
  s < 8 && k < 4 && c.vsReady s k && c.gf (VS_ENT_A.REFS s k) == 0 && notEarlier 32 d (c.gf (VS_ENT_B.LAST_STEP s k)) &&
    (newer || later 32 (d + 1) (b + c.vsStale s))

/-- R265: an entry retires once its conditions hold. -/
def Chan.vsRetire (c : Chan) (s k : Nat) : Chan :=
  if c.vsRetires s k then
    let b := c.gf (VS_ENT_A.BASE_STEP s k)
    let c := c.sf (VS_ENT_A.STATE s k) 0
    let c := if c.flag (VS_CFG.FREE_TOK_EN s) then c.signal (c.gf (VS_CFG.FREE_TOK s)) 1 else c
    c.ev 0x08 0x81 0 (det [(16, 1, s), (17, 1, k), (18, 4, b)])
  else c

/-- VS_RETIRED: the entry is to retire.  It does so when the MCLK cycle ends, behind the namings of the cycle, if the conditions
still hold then (R265). -/
def Chan.vsMark (c : Chan) (s k : Nat) : Chan :=
  if c.vsRetires s k && !c.retiring.contains (s, k) then c.withRetiring (c.retiring ++ [(s, k)]) else c

/-- The retirements at the end of an MCLK cycle. -/
def Chan.vsRetireAll (c : Chan) : Chan :=
  if c.retiring.isEmpty then c else c.retiring.foldl (fun c e => c.vsRetire e.1 e.2) (c.withRetiring [])

/-- A write of VS_PUB (R263); retirements that are due come before it, namings of its cycle do not see it (R265).  A launch that
stands behind it in the same cycle and would name an entry that it has replaced finds that entry gone (DESIGN CHOICE,
notes/assumptions/132.md). -/
def Chan.vsPub (c : Chan) (s v : Nat) : Chan :=
  let c := (List.range 4).foldl (fun c j => c.vsRetire s j) c
  let k := bits v 0 2
  let b := bits v 32 32
  let refuse (r : Nat) : Chan := c.ev 0x08 0x80 2 (det [(16, 1, s), (17, 1, k), (18, 1, r), (19, 4, b)])
  if c.vsReady s k then refuse 0
  else if c.gf (SS_CFG.VSTAGES s) < c.vsOwner s k then refuse 1
  else if (List.range 4).any (fun j => c.vsReady s j && c.vsOwner s j == c.vsOwner s k &&
      notEarlier 32 (c.gf (VS_ENT_A.BASE_STEP s j)) b) then refuse 2
  else
    let c := ((c.sf (VS_ENT_A.STATE s k) 1).sf (VS_ENT_A.VSTAGE s k) (c.vsOwner s k)).sf (VS_ENT_A.REFS s k) 0
    ((c.sf (VS_ENT_A.BASE_STEP s k) b).sf (VS_ENT_B.LAST_STEP s k) (b + 2 ^ 32 - 1)).claimReg (VS_ENT_A.off s k)

/-! ### Doors and queues (R236 to R240) -/

/-- A door's registers: address of slot 0, slots, stride, sender node, slot and binding, TOKMODE. -/
structure Door where
  addr : Nat
  depth : Nat
  stride : Nat
  node : Nat
  slot : Nat
  out : Nat
  tok : Bool
  deriving DecidableEq, Repr

def Chan.door (c : Chan) (s : Nat) (bwd : Bool) (d : Nat) : Door :=
  if bwd then
    { addr := c.gf (SS_BDOOR_A.ADDR s d) * 64, depth := c.gf (SS_BDOOR_A.DEPTH s d), stride := c.gf (SS_BDOOR_B.STRIDE s d)
      node := c.gf (SS_BDOOR_B.SRC_NODE s d), slot := c.gf (SS_BDOOR_B.SRC_SLOT s d), out := c.gf (SS_BDOOR_B.SRC_OUT s d)
      tok := c.flag (SS_BDOOR_B.TOKMODE s d) }
  else
    { addr := c.gf (SS_FDOOR_A.ADDR s d) * 64, depth := c.gf (SS_FDOOR_A.DEPTH s d), stride := c.gf (SS_FDOOR_B.STRIDE s d)
      node := c.gf (SS_FDOOR_B.SRC_NODE s d), slot := c.gf (SS_FDOOR_B.SRC_SLOT s d), out := c.gf (SS_FDOOR_B.SRC_OUT s d)
      tok := c.flag (SS_FDOOR_B.TOKMODE s d) }

def Chan.qRing (c : Chan) (s : Nat) (bwd : Bool) : Nat × Nat :=
  if bwd then (c.gf (SS_BQ.ADDR s) * 64, c.gf (SS_BQ.DEPTH s)) else (c.gf (SS_FQ.ADDR s) * 64, c.gf (SS_FQ.DEPTH s))

def doorKey (bwd : Bool) (d : Nat) : Nat := b2n bwd * 4 + d
def slotKey (bwd : Bool) (d i : Nat) : Nat := doorKey bwd d * 64 + i

def Slot.doorSlot (x : Slot) (bwd : Bool) (d i : Nat) : DoorSlot := tget (fun _ => {}) x.doors (slotKey bwd d i)
def Slot.setDoor (x : Slot) (bwd : Bool) (d i : Nat) (v : DoorSlot) : Slot :=
  { x with doors := tput (fun _ => {}) x.doors (slotKey bwd d i) v }

/-- The door slot that contains a local address: door and slot number. -/
def Chan.findDoor (c : Chan) (s : Nat) (bwd : Bool) (a : Nat) : Option (Nat × Nat) :=
  ((List.range 4).filterMap (fun d =>
    let r := c.door s bwd d
    if r.depth ≠ 0 ∧ r.stride ≠ 0 ∧ r.addr ≤ a ∧ a < r.addr + r.depth * r.stride then some (d, (a - r.addr) / r.stride)
    else none)).head?

/-- One hall pass goes back to the sender of a door (R240). -/
def Chan.returnPass (c : Chan) (r : Door) : Chan :=
  if r.tok then c.signal (r.node % 256) 1
  else c.inject 2 { pkt0 with ptype := pPASS, src := c.node, dst := r.node, aux2 := r.slot + r.out * 8 + 256 }

/-- A door returns its released slots in ring order. -/
def Chan.returnSlots (s : Nat) (bwd : Bool) (d : Nat) : Nat → Chan → Chan
  | 0, c => c
  | fuel + 1, c =>
    let x := c.slot s
    let i := tget (fun _ => 0) x.ret (doorKey bwd d)
    if (x.doorSlot bwd d i).st = 3 then
      let r := c.door s bwd d
      let x := x.setDoor bwd d i {}
      let c := c.setSlot s { x with ret := tput (fun _ => 0) x.ret (doorKey bwd d) ((i + 1) % max 1 r.depth) }
      Chan.returnSlots s bwd d fuel (c.returnPass r)
    else c

/-- Released entries leave the front of a queue; each gives back its door slot. -/
def Chan.popReleased (s : Nat) (bwd : Bool) : Nat → Chan → Chan
  | 0, c => c
  | fuel + 1, c =>
    let x := c.slot s
    match (if bwd then x.bq else x.fq) with
    | [] => c
    | e :: r =>
      if !e.released then c
      else
        let x := x.setDoor bwd e.door e.dslot { st := 3 }
        let c := c.setSlot s (if bwd then { x with bq := r } else { x with fq := r })
        Chan.popReleased s bwd fuel (Chan.returnSlots s bwd e.door 64 c)

/-- The entry at ring place `idx` of a queue is released (R240). -/
def Chan.release (c : Chan) (s : Nat) (bwd : Bool) (idx : Nat) : Chan :=
  let upd (l : List DescEnt) : List DescEnt := l.map (fun e => if e.idx = idx then { e with released := true } else e)
  let c := c.onSlot s (fun x => if bwd then { x with bq := upd x.bq } else { x with fq := upd x.fq })
  Chan.popReleased s bwd 64 c

/-- The descriptor of a full door slot is pushed (R238). -/
def Chan.pushDesc (c : Chan) (s : Nat) (bwd : Bool) (d i : Nat) (desc : List Byte) : Chan :=
  let x := c.slot s
  let (base, depth) := c.qRing s bwd
  let t := if bwd then x.btail else x.ftail
  let (_, c) := c.store (base + 64 * t) (desc.take 64)
  let e : DescEnt := { idx := t, door := d, dslot := i, stamp := x.stamp, taken := false, released := false }
  let x := (x.setDoor bwd d i { st := 2 })
  let x := { x with stamp := (x.stamp + 1) % 2 ^ 32 }
  let t' := (t + 1) % max 1 depth
  (c.setSlot s (if bwd then { x with bq := x.bq ++ [e], btail := t' } else { x with fq := x.fq ++ [e], ftail := t' })).syncSlot s

/-- R367: the descriptor is pushed once it and the total LEN bytes are there. -/
def Chan.pushReady (c : Chan) (s : Nat) (bwd : Bool) (d i : Nat) : Chan :=
  let v := (c.slot s).doorSlot bwd d i
  match v.desc with
  | some b => if v.got = v.total then c.pushDesc s bwd d i b else c
  | none => c

/-! ### Arriving DELIVERs (R237, R367) -/

def rxSlot (k : Pkt) : Nat := bits k.aux 0 3
def rxBwd (k : Pkt) : Bool := bit k.aux 3
def dlvTotal (k : Pkt) : Nat := bits k.aux2 0 32
def dlvOffset (k : Pkt) : Nat := bits k.aux2 32 32

/-- A refused DELIVER packet. -/
def Chan.dlvRefuse (c : Chan) (k : Pkt) (reason : Nat) : Chan :=
  (c.ev 0x07 0x64 1 (det [(16, 1, rxSlot k), (17, 1, b2n (rxBwd k)), (18, 1, reason), (19, 3, k.src)])).respond k pERROR_RESP 6 []

/-- The checks on the opening packet, whose DELIVER goes to `a` with `total` bytes: the door slot, or the reason. -/
def Chan.dlvOpen (c : Chan) (k : Pkt) (a total : Nat) : Except Nat (Nat × Nat) :=
  let s := rxSlot k
  let st := c.ssState s
  if st = ssUNBOUND ∨ st = ssFENCED then .error 0
  else
    match c.findDoor s (rxBwd k) a with
    | none => .error 1
    | some (d, i) =>
      let r := c.door s (rxBwd k) d
      let v := (c.slot s).doorSlot (rxBwd k) d i
      if a ≠ r.addr + i * r.stride then .error 1
      else if ¬ (v.st = 0 ∨ v.st = 1 ∧ v.src = k.src) then .error 2
      else if r.stride < total then .error 3
      else .ok (d, i)

/-- A packet of a DELIVER is written: the door slot's new state, the bytes and their place; the descriptor when it came. -/
def Chan.dlvWrite (c : Chan) (k : Pkt) (d i a : Nat) (v : DoorSlot) (bs : List Byte) : Chan :=
  let s := rxSlot k
  let c := c.onSlot s (fun x => x.setDoor (rxBwd k) d i v)
  match c.store a bs with
  | (true, c) => c.respond k pERROR_RESP 5 []
  | (false, c) =>
    let c := c.onSlot s (fun x => x.setDoor (rxBwd k) d i { v with got := v.got + bs.length })
    (c.pushReady s (rxBwd k) d i).respond k pWRITE_ACK 0 []

/-- A packet that is not the opening one: its slot must be FILLING for its sender. -/
def Chan.dlvLater (c : Chan) (k : Pkt) (a : Nat) : Except Nat (Nat × Nat) :=
  match c.findDoor (rxSlot k) (rxBwd k) a with
  | none => .error 1
  | some (d, i) =>
    let v := (c.slot (rxSlot k)).doorSlot (rxBwd k) d i
    if v.st = 1 ∧ v.src = k.src then .ok (d, i) else .error 4

/-- DELIVER_DATA at the receiver. -/
def Chan.homeDlvData (c : Chan) (k : Pkt) : Chan :=
  let e := c.homeErr
  if e ≠ 0 then c.respond k pERROR_RESP e []
  else
    match c.homeAddr k k.data.length with
    | none => c.respond k pERROR_RESP 4 []
    | some a =>
      if dlvOffset k = 0 then
        match c.dlvOpen k a (dlvTotal k) with
        | .error r => c.dlvRefuse k r
        | .ok (d, i) => c.dlvWrite k d i a { st := 1, src := k.src, total := dlvTotal k } k.data
      else
        match c.dlvLater k a with
        | .error r => c.dlvRefuse k r
        | .ok (d, i) => c.dlvWrite k d i a ((c.slot (rxSlot k)).doorSlot (rxBwd k) d i) k.data

/-- DELIVER_DESC at the receiver. -/
def Chan.homeDlvDesc (c : Chan) (k : Pkt) : Chan :=
  let e := c.homeErr
  if e ≠ 0 then c.respond k pERROR_RESP e []
  else
    match c.homeAddr k 0 with
    | none => c.respond k pERROR_RESP 4 []
    | some a =>
      if dlvTotal k = 0 then
        match c.dlvOpen k a 0 with
        | .error r => c.dlvRefuse k r
        | .ok (d, i) => c.dlvWrite k d i a { st := 1, src := k.src, total := 0, desc := some k.data } []
      else
        match c.dlvLater k a with
        | .error r => c.dlvRefuse k r
        | .ok (d, i) => c.dlvWrite k d i a { (c.slot (rxSlot k)).doorSlot (rxBwd k) d i with desc := some k.data } []

/-- DELIVER_X at the receiver: payload, then the 64-byte descriptor. -/
def Chan.homeDlvX (c : Chan) (k : Pkt) : Chan :=
  let e := c.homeErr
  let n := k.data.length - 64
  if e ≠ 0 then c.respond k pERROR_RESP e []
  else
    match c.homeAddr k n with
    | none => c.respond k pERROR_RESP 4 []
    | some a =>
      match c.dlvOpen k a n with
      | .error r => c.dlvRefuse k r
      | .ok (d, i) => c.dlvWrite k d i a { st := 1, src := k.src, total := n, desc := some (k.data.drop n) } (k.data.take n)

/-- A hall pass returns to an output binding (R241): a pass that would raise PASSES above DEPTH is discarded. -/
def Chan.bindPass (c : Chan) (k : Pkt) : Chan :=
  let s := bits k.aux2 0 3
  let j := bits k.aux2 3 3
  let n := bits k.aux2 8 8
  if c.ssState s = ssUNBOUND then c
  else c.sf (SS_OUT_B.PASSES s j) (max (c.gf (SS_OUT_B.PASSES s j)) (min (c.gf (SS_OUT_B.DEPTH s j)) (c.gf (SS_OUT_B.PASSES s j) + n)))

/-! ### BIND (R234) -/

/-- Does a 64-byte-aligned image carry what Table 3-6 requires of a lesson of a phase? -/
def lessonOk (hdr : List Byte) (entries : List (List Byte)) (phase : Nat) : Bool :=
  leAt hdr 0 2 == 0x4C53 && leAt hdr 3 1 == phase && decide (1 ≤ leAt hdr 2 1) && decide (leAt hdr 2 1 ≤ 32) &&
  leAt hdr 8 56 == 0 &&
  entries.all (fun e => qidOk (leAt e 10 1) && leAt e 11 5 == 0) &&
  (let qs := entries.map (fun e => leAt e 10 1); qs.length == qs.eraseDups.length)

/-- The header and segment entries of a lesson image. -/
def Chan.lesson (c : Chan) (a : Nat) : List Byte × List (List Byte) :=
  let hdr := c.peek a 64
  (hdr, (List.range (min 32 (leAt hdr 2 1))).map (fun k => c.peek (a + 64 + 16 * k) 16))

/-- The image is read through the symbol code (R37, R38): true when a codeword of it is uncorrectable. -/
def Chan.imageBad (c : Chan) (a : Nat) : Bool × Chan :=
  if !inMem a 64 then (false, c)
  else
    let (bad, c) := c.access 0 a 64
    let (bad', c) := c.access 0 (a + 64) (16 * min 32 (c.peekLe (a + 2) 1))
    (bad || bad', c)

/-- The images that BIND reads: those of every used virtual stage. -/
def Chan.bindImages (c : Chan) (s : Nat) : Bool × Chan :=
  (List.range (c.gf (SS_CFG.VSTAGES s) + 1)).foldl (fun r v =>
    [c.gf (SS_VS_FLESSON.ADDR s v), c.gf (SS_VS_BLESSON.ADDR s v), c.gf (SS_VS_ELESSON.ADDR s v)].foldl (fun r a =>
      if a = 0 then r else let (bad, c) := r.2.imageBad (a * 64); (r.1 || bad, c)) r) (false, c)

def Chan.imageOk (c : Chan) (a phase : Nat) : Bool :=
  inMem a 64 && (let l := c.lesson a; lessonOk l.1 l.2 phase && inMem a (64 + 16 * l.2.length))

def Chan.bindPolicy (c : Chan) (s : Nat) : Bool :=
  (c.gf (SS_CFG.VSTAGES s) == 0 || c.gf (SS_CFG.POLICY s) == 3) &&
  c.gf (SS_CFG.WARMUP s) != 0 && decide (c.gf (SS_CFG.WARMUP s) ≤ c.gf (SS_CFG.NSTASH s)) &&
  decide (1 ≤ c.gf (SS_CFG.LAUNCH_AHEAD s)) && decide (c.gf (SS_CFG.LAUNCH_AHEAD s) ≤ 4)

def Chan.bindQueue (c : Chan) (s : Nat) : Bool :=
  [false, true].all (fun b => let (a, d) := c.qRing s b; d != 0 && decide (d ≤ 64) && inMem a (64 * d))

def Chan.bindDoors (c : Chan) (s : Nat) : Bool :=
  let used (b : Bool) : List Door := ((List.range 4).map (c.door s b)).filter (fun r => r.depth != 0)
  let all := used false ++ used true
  [false, true].all (fun b => ((used b).map (·.depth)).foldl (· + ·) 0 == (c.qRing s b).2) &&
  all.all (fun r => r.stride != 0 && r.stride % 64 == 0) &&
  (List.range all.length).all (fun i => (List.range i).all (fun j =>
    match all[i]?, all[j]? with
    | some x, some y => !overlaps x.addr (x.depth * x.stride) y.addr (y.depth * y.stride)
    | _, _ => true)) &&
  all.all (fun r => inMem r.addr (r.depth * r.stride)) &&
  all.all (fun r => !r.tok || decide (r.node < 256))

def Chan.outUsed (c : Chan) (s j : Nat) : Bool := c.gf (SS_OUT_A.BASE s j) != 0

def Chan.bindOut (c : Chan) (s : Nat) : Bool :=
  (List.range 8).all (fun j => !c.outUsed s j ||
    (c.gf (SS_OUT_B.DEPTH s j) != 0 && decide (c.gf (SS_OUT_B.DEPTH s j) ≤ 64) && c.gf (SS_OUT_A.BASE s j) % 64 == 0 &&
     (match locOf (c.gf (SS_OUT_A.BASE s j)) with | .fab .. => true | _ => false) && c.gf (SS_OUT_B.STRIDE s j) % 64 == 0))

def Chan.bindLesson (c : Chan) (s : Nat) : Bool :=
  (List.range (c.gf (SS_CFG.VSTAGES s) + 1)).all (fun v =>
    let f := c.gf (SS_VS_FLESSON.ADDR s v) * 64
    let b := c.gf (SS_VS_BLESSON.ADDR s v) * 64
    let e := c.gf (SS_VS_ELESSON.ADDR s v) * 64
    f != 0 && b != 0 && c.imageOk f 0 && c.imageOk b 1 && (e == 0 || c.imageOk e 1))

def Chan.bindStash (c : Chan) (s : Nat) : Bool :=
  let n := c.gf (SS_CFG.NSTASH s)
  let st := c.gf (SS_STASH_STRIDE.STRIDE s)
  let a := c.gf (SS_STASH.ADDR s) * 64
  decide (1 ≤ n) && decide (n ≤ 64) && st % 64 == 0 && (if st = 0 then inMem a 64 else inMem a (n * st))

def Chan.bindOff (c : Chan) (s : Nat) : Bool :=
  let k := c.gf (SS_CFG.OFF_K s)
  let stride := c.gf (SS_STAGE_STRIDE.STRIDE s)
  let ends := (List.range k).map (fun i => c.gf (SS_LAYER_END.END s i))
  let rec asc : List Nat → Bool
    | a :: b :: r => decide (a < b) && asc (b :: r)
    | _ => true
  if k = 0 then true
  else
    decide (k ≤ 16) &&
    decide (2 * c.gf (SS_CFG.PREFETCH s) + c.gf (SS_CFG.LAUNCH_AHEAD s) + 1 ≤ c.gf (SS_CFG.NSTAGE s)) &&
    stride % 64 == 0 && c.gf (SS_OFF_STRIDE.STRIDE s) % 64 == 0 &&
    inMem (c.gf (SS_STAGE.ADDR s) * 64) (c.gf (SS_CFG.NSTAGE s) * stride) && asc ends &&
    decide (ends.getLastD 0 ≤ stride) && c.gf (SS_OFF.BASE s) % 64 == 0 &&
    (match locOf (c.gf (SS_OFF.BASE s)) with | .lcl a => inHbm a 1 | .fab _ a => inHbm a 1 | _ => false) &&
    c.qDepth (0x18 + c.gf (SS_CFG.OFF_TE s)) != 0

/-- The first failing check of Table 9-3. -/
def Chan.bindCheck (c : Chan) (s : Nat) : Nat :=
  if !c.bindPolicy s then 1 else if !c.bindQueue s then 2 else if !c.bindDoors s then 3 else if !c.bindOut s then 4
  else if !c.bindLesson s then 5 else if !c.bindStash s then 6 else if !c.bindOff s then 7 else 0

/-- BIND.  It has no effect on a slot whose lesson images cannot be read (notes/assumptions/119.md). -/
def Chan.bindSlot (c : Chan) (s : Nat) : Chan :=
  if c.ssState s ≠ ssUNBOUND then c.slotIgnored s 1 0
  else
    let early := c.bindPolicy s && c.bindQueue s && c.bindDoors s && c.bindOut s
    let (bad, c) := if early then c.bindImages s else (false, c)
    if bad then c
    else
      let r := c.bindCheck s
      if r ≠ 0 then (c.sf (SS_STAT.BIND_ERR s) r).ev 0x07 0x61 2 (det [(16, 1, s), (17, 1, r)])
      else
        let c := (c.setSlot s {}).sf (SS_STAT.STATE s) ssBOUND
        let c := (List.range 8).foldl (fun c j =>
          (c.sf (SS_OUT_B.PASSES s j) (c.gf (SS_OUT_B.DEPTH s j))).sf (SS_OUT_B.NEXT s j) 0) c
        let c := (List.range 4).foldl (fun c k => (c.sf (VS_ENT_A.STATE s k) 0).sf (VS_ENT_A.REFS s k) 0) c
        (c.sf (SS_STAT.LAST_PHASE s) 1).syncSlot s

/-- START. -/
def Chan.startSlot (c : Chan) (s : Nat) : Chan :=
  if c.ssState s ≠ ssBOUND then c.slotIgnored s 2 0
  else
    let c := (c.sf (SS_STAT.STATE s) ssACTIVE).syncSlot s
    let v := c.gf (SS_CFG.VSTAGES s)
    if 4 < (v + 1) * c.vsE s then c.ev 0x08 0x82 2 (det [(16, 1, s), (17, 1, c.gf (VS_CFG.MODE s)), (18, 1, v)]) else c

/-- The launches of a slot all of whose LESSON_CALLs have started. -/
def Chan.callsStarted (c : Chan) (s : Nat) : Bool :=
  (c.slot s).launches.all (fun l => (tget (fun _ => {}) c.calls l.id).unstarted == 0)

/-- A stopping slot goes on to DRAINING, and a draining one to BOUND (Table 9-2). -/
def Chan.slotSettle (c : Chan) (s : Nat) : Chan :=
  let c :=
    if c.flag (SS_STAT.STOPPING s) ∧ c.callsStarted s then
      ((c.sf (SS_STAT.STOPPING s) 0).sf (SS_STAT.STATE s) ssDRAINING).syncSlot s
    else c
  let x := c.slot s
  if c.ssState s = ssDRAINING ∧ x.launches.isEmpty ∧ x.copies.isEmpty then
    ((c.sf (SS_STAT.STATE s) ssBOUND).sf (SS_STAT.DRAINED s) 1).syncSlot s
  else c

/-- DRAIN. -/
def Chan.drainSlot (c : Chan) (s : Nat) : Chan :=
  if c.ssState s ≠ ssACTIVE then c.slotIgnored s 3 0
  else ((c.sf (SS_STAT.STOPPING s) 1).syncSlot s).slotSettle s

/-- UNBIND. -/
def Chan.unbindSlot (c : Chan) (s : Nat) : Chan :=
  let x := c.slot s
  if c.ssState s ≠ ssBOUND ∨ ¬ x.recs.isEmpty ∨ ¬ x.fq.isEmpty ∨ ¬ x.bq.isEmpty then c.slotIgnored s 4 0
  else c.sf (SS_STAT.STATE s) ssUNBOUND

/-- The record at place `pos` of the slot's forward-launch order is freed (R243): its version loses a reference.  A stash index
passes to a later record, a place never does. -/
def Chan.freeRec (c : Chan) (s pos : Nat) : Chan :=
  match (c.slot s).recs.find? (fun r => r.pos == pos) with
  | none => c
  | some r => (c.onSlot s (fun x => { x with recs := x.recs.filter (fun q => q.pos != pos) })).vsDrop s r.ver

/-- ABANDON. -/
def Chan.abandonSlot (c : Chan) (s : Nat) : Chan :=
  if c.ssState s ≠ ssBOUND then c.slotIgnored s 5 0
  else
    let c := (c.slot s).recs.foldl (fun c r => c.freeRec s r.pos) c
    let all (l : List DescEnt) : List DescEnt := l.map (fun e => { e with released := true })
    let c := c.onSlot s (fun x => { x with ends := [], fq := all x.fq, bq := all x.bq })
    (Chan.popReleased s true 64 (Chan.popReleased s false 64 c)).syncSlot s

/-- The head of a queue: its first entry not yet launched. -/
def Slot.headEnt (x : Slot) (bwd : Bool) : Option DescEnt := (waitingEnts (if bwd then x.bq else x.fq)).head?

/-- DISCARD_F and DISCARD_B; FAULT clears when the faulty head goes (R248). -/
def Chan.discard (c : Chan) (s : Nat) (bwd : Bool) : Chan :=
  let st := c.ssState s
  if ¬ (st = ssBOUND ∨ st = ssACTIVE ∨ st = ssDRAINING) then c.slotIgnored s (if bwd then 7 else 6) 0
  else
    match (c.slot s).headEnt bwd with
    | none => c
    | some e =>
      let c := c.release s bwd e.idx
      let c :=
        if c.flag (SS_STAT.FAULT s) ∧ c.gf (SS_STAT.FAULT_Q s) = b2n bwd then
          (c.sf (SS_STAT.FAULT s) 0).sf (SS_STAT.FAULT_CODE s) 0
        else c
      c.syncSlot s

/-- A write of SS_CTL.ACTION (R232). -/
def Chan.ssAction (c : Chan) (s v : Nat) : Chan :=
  match v % 8 with
  | 0 => c
  | 1 => c.bindSlot s
  | 2 => c.startSlot s
  | 3 => c.drainSlot s
  | 4 => c.unbindSlot s
  | 5 => c.abandonSlot s
  | 6 => c.discard s false
  | _ => c.discard s true

/-- A fence finds the slot (R232). -/
def Chan.fenceSlot (c : Chan) (s : Nat) : Chan :=
  ((c.setSlot s {}).sf (SS_STAT.STATE s) ssFENCED).sf (SS_STAT.STOPPING s) 0 |>.syncSlot s

end Sys2Proof.Machine
end

