-- ==== Sys2Proof/Machine/Vector.lean ====
section
/-!
DEFINITION. Vector engines and function stages (R161 to R189).  Vector engine k has queue 0x10 + k.
-/
namespace Sys2Proof.Machine

def Chan.ve (c : Chan) (k : Nat) : Ve := tget (fun _ => {}) c.ves k
def Chan.setVe (c : Chan) (k : Nat) (x : Ve) : Chan := (c.withVes (tput (fun _ => {}) c.ves k x))
def Chan.fs (c : Chan) (k : Nat) : Fs := tget (fun _ => {}) c.fss k
def Chan.setFs (c : Chan) (k : Nat) (x : Fs) : Chan := (c.withFss (tput (fun _ => {}) c.fss k x))

/-- The present vector length of queue `q` (R166). -/
def Chan.vl (c : Chan) (q : Nat) : Nat := c.gf (VE_VL.VL (q - 0x10))

/-! ### Operand streams (R161 to R165) -/

/-- A format field: Table 4-1 or MASK. -/
def vfmtOk (f : Nat) : Bool := fmtOk f || f == 0x10

/-- Element bytes of a stream, rounded up to 32 for MX. -/
def mxBase (f n : Nat) : Nat := (elemBytes f n + 31) / 32 * 32

/-- Bytes of a stream of `n` elements, with the scales that follow an MX operand (R163). -/
def streamBytes (f n : Nat) : Nat := if isMx f then mxBase f n + n / 32 else elemBytes f n

/-- Alignment of a stream (R162). -/
def streamAlign (f : Nat) : Nat :=
  if isMx f then 32 else if f = 8 ∨ f = 9 then 2 else if f = 0x0C then 4 else 1

/-- Is the operand given inline? -/
def isInline (seg : Option Seg) (raw : List Byte) (off : Nat) : Bool :=
  match operand seg raw off true 0 with | .inl _ => true | _ => false

/-- Bytes that an operand names: one element when inline. -/
def opdBytes (seg : Option Seg) (raw : List Byte) (off f n : Nat) : Nat :=
  if isInline seg raw off then elemBytes f 1 else streamBytes f n

/-- Field checks of one operand: its form, its format, and R164 for an inline one. -/
def streamField (seg : Option Seg) (raw : List Byte) (off fo f : Nat) (src : Bool) (n : Nat) : List Nat :=
  opdField seg raw off src (opdBytes seg raw off f n) ++ mustBe fo (vfmtOk f) ++
  (if isInline seg raw off && (isMx f || f == 0x10) then [fo] else [])

def streamAddr (seg : Option Seg) (raw : List Byte) (off f : Nat) (src : Bool) (n : Nat) : List Nat :=
  if isInline seg raw off then [] else localAddr seg raw off src (streamBytes f n) (streamAlign f)

/-- R165: one element as an FP32 value. -/
def elemF32 (f code : Nat) (sc : Option Int) : Nat :=
  if f = 0x10 then (if code = 0 then 0 else one32)
  else if isMx f then toF32 (scaledNum ((fmtOf f).decode code) sc)
  else toF32 ((fmtOf f).decode code)

/-- The FP32 values of a byte string that holds a stream of `n` elements. -/
def streamVals (f n : Nat) (bs : List Byte) : List Nat :=
  (List.range n).map (fun j =>
    let sc := if isMx f then e8m0 (nth 0 bs (mxBase f n + j / 32)).toNat else some 0
    elemF32 f (elemAt f bs j) sc)

/-- A source read as `n` FP32 values (R164, R165). -/
def Chan.readStream (c : Chan) (seg : Option Seg) (raw : List Byte) (off f n : Nat) : Option (List Nat) × Chan :=
  match c.fetchOpd seg raw off (opdBytes seg raw off f n) with
  | (none, c) => (none, c)
  | (some bs, c) =>
    (some (if isInline seg raw off then List.replicate n (elemF32 f (elemAt f bs 0) (some 0)) else streamVals f n bs), c)

/-- Results written at a destination (R170): converted elements, MX scales after them, or mask bits. -/
def Chan.writeStream (c : Chan) (a f n : Nat) (bs sc : List Byte) : Bool × Chan :=
  let (bad, c) := c.store a bs
  let (bad', c) := if isMx f then c.store (a + mxBase f n) sc else (false, c)
  (bad || bad', c)

/-! ### Operations (R169) -/

/-- The result of one element of a VE_OP (Table 7-2); `mask` is the bit of C for SEL. -/
def veResult (kind cond a b cc : Nat) (mask : Bool) : Nat :=
  match kind with
  | 0 => add32 a b
  | 1 => mul32 a b
  | 2 => fma32 a b cc
  | 3 =>
    let t := match cond with
      | 0 => eq32 a b
      | 1 => !eq32 a b
      | 2 => lt32 a b
      | _ => lt32 a b || eq32 a b
    if t then one32 else 0
  | 4 => if mask then a else b
  | 5 => min32 a b
  | _ => max32 a b

/-! ### Summaries (R174, R175) -/

/-- FP32 addition that remembers the first overflow: (first infinity met, result). -/
def addO (ov : Option Nat) (a b : Nat) : Option Nat × Nat :=
  let r := add32 a b
  ((if ov.isNone && isInf32 r then some r else ov), r)

/-- TwoSum with the memory of the first overflow: (memory, sum, error). -/
def twoSumO (ov : Option Nat) (a b : Nat) : Option Nat × Nat × Nat :=
  let (ov, s) := addO ov a b
  let (ov, bb) := addO ov s (negate32 a)
  let (ov, u) := addO ov s (negate32 bb)
  let (ov, v) := addO ov a (negate32 u)
  let (ov, w) := addO ov b (negate32 bb)
  let (ov, t) := addO ov v w
  (ov, s, t)

/-- One chunk of results into the lanes, in ascending order. -/
def sumChunk : Option Nat → List (Nat × Nat) → List Nat → Option Nat × List (Nat × Nat)
  | ov, (s, e) :: ls, r :: rs =>
    let (ov, s, t) := twoSumO ov s r
    let (ov, e) := addO ov e t
    let (ov, rest) := sumChunk ov ls rs
    (ov, (s, e) :: rest)
  | ov, ls, _ => (ov, ls)

/-- All chunks of 256 results. -/
def sumLanes : Nat → Option Nat → List (Nat × Nat) → List Nat → Option Nat × List (Nat × Nat)
  | 0, ov, ls, _ => (ov, ls)
  | fuel + 1, ov, ls, rs =>
    if rs.isEmpty then (ov, ls)
    else
      let (ov, ls) := sumChunk ov ls (rs.take 256)
      sumLanes fuel ov ls (rs.drop 256)

/-- One level of the tree: lane l takes lane l + w. -/
def sumPair : Option Nat → List (Nat × Nat) → List (Nat × Nat) → Option Nat × List (Nat × Nat)
  | ov, (s, e) :: ls, (s', e') :: rs =>
    let (ov, s, t) := twoSumO ov s s'
    let (ov, e1) := addO ov e e'
    let (ov, e2) := addO ov e1 t
    let (ov, rest) := sumPair ov ls rs
    (ov, (s, e2) :: rest)
  | ov, ls, _ => (ov, ls)

/-- The tree from 2^k lanes down to one. -/
def sumTree : Nat → Option Nat → List (Nat × Nat) → Option Nat × List (Nat × Nat)
  | 0, ov, ls => (ov, ls)
  | k + 1, ov, ls =>
    let (ov, ls) := sumPair ov (ls.take (2 ^ k)) (ls.drop (2 ^ k))
    sumTree k ov ls

/-- R175: SUM. -/
def sumAll (rs : List Nat) : Nat :=
  if rs.any isNan32 then nan32
  else if rs.contains 0x7F800000 then (if rs.contains 0xFF800000 then nan32 else 0x7F800000)
  else if rs.contains 0xFF800000 then 0xFF800000
  else
    let (ov, ls) := sumLanes (rs.length / 256 + 1) none (List.replicate 256 (0, 0)) rs
    let (ov, ls) := sumTree 8 ov ls
    let p := ls.headD (0, 0)
    let (ov, r) := addO ov p.1 p.2
    match ov with
    | some i => i
    | none => r

/-- A result counts as true when it is neither +0 nor −0. -/
def truthy (r : Nat) : Bool := !isZero32 r

/-- The value of a summary (Table 7-3). -/
def summary (kind : Nat) (rs : List Nat) : Nat :=
  match kind with
  | 0 => sumAll rs
  | 1 => rs.tail.foldl max32 (rs.headD 0)
  | 2 => rs.tail.foldl min32 (rs.headD 0)
  | 3 => (rs.filter truthy).length
  | 4 => b2n (rs.any truthy)
  | 5 => b2n (rs.all truthy)
  | _ => if rs.any isNan32 then nan32 else rs.foldl (fun m r => max m (abs32 r)) 0

/-- Byte [25] of a vector command: register, enable, kind. -/
def sumReg (raw : List Byte) : Nat := bits (fieldOf raw 25 25) 0 4
def sumEn (raw : List Byte) : Bool := bit (fieldOf raw 25 25) 4
def sumKind (raw : List Byte) : Nat := bits (fieldOf raw 25 25) 5 3
def sumField (raw : List Byte) : List Nat :=
  mustBe 25 (if sumEn raw then sumKind raw != 7 else sumReg raw == 0 && sumKind raw == 0)

/-- A summary is written (R174, R188). -/
def Chan.putSum (c : Chan) (k reg word : Nat) : Chan :=
  let seq := c.gf (VE_SUM.SEQ k reg)
  c.wr (VE_SUM.off k reg) (word % 2 ^ 36 + (seq + 1) % 2 ^ 16 * 2 ^ 48)

/-! ### Timing (R183) -/

/-- Thirty-seconds of a byte per element of a memory operand. -/
def unitBytes (f : Nat) : Nat := if f = 0x10 then 4 else if isMx f then elemBits f * 4 + 1 else elemBits f * 4

/-- A command takes its share of the engine's port and lanes: `lat` cycles of fixed latency, and a data phase of `chunks` chunks
and `bytes` cycles at the port. -/
def Chan.vePort (c : Chan) (q seq lat chunks bytes : Nat) (grants : Bool) : Chan :=
  c.addPhase q { seq := seq, grants := grants, chunks := chunks, bytes := bytes, lat := lat, start := none }

/-! ### VE_OP -/

def veKind (raw : List Byte) : Nat := bits (fieldOf raw 24 24) 0 3
def veNegB (raw : List Byte) : Bool := bit (fieldOf raw 24 24) 3
def veNegC (raw : List Byte) : Bool := bit (fieldOf raw 24 24) 4
def veCond (raw : List Byte) : Nat := bits (fieldOf raw 24 24) 5 2

/-- Does the operation read C? -/
def veReadsC (raw : List Byte) : Bool := veKind raw == 2 || veKind raw == 4

/-- The first format field in an MX format (R163). -/
def firstMx (l : List (Nat × Nat)) : List Nat := ((l.find? (fun e => isMx e.2)).map (·.1)).toList

/-- Results leave through the output conversion; the summary waits for completion; elements are counted. -/
def Chan.veFinish (c : Chan) (q seq fd a : Nat) (sat : Bool) (rs : List Nat) : Bool × Chan :=
  match (c.queue q).cmd? seq with
  | none => (false, c)
  | some h =>
    let n := rs.length
    let k := q - 0x10
    let (bad, c) :=
      if fd = 0x10 then c.writeStream a fd n (packElems 0x10 (rs.map (fun r => b2n (truthy r)))) []
      else
        let (bs, sc, cnt) := convertAll fd .rne sat c.e2 rs
        let (bad, c) := c.writeStream a fd n bs sc
        (bad, c.rptConv q seq (tagOf h.raw) cnt)
    let c := c.count (VE_CNT_ELEMS.COUNT k) n
    let c := if sumEn h.raw then
        let word := summary (sumKind h.raw) rs + sumKind h.raw * 2 ^ 32 + 2 ^ 35
        let x := c.ve k
        c.setVe k { x with sums := x.sums ++ [(seq, sumReg h.raw, word)] }
      else c
    (bad, c)

/-- VE_OP's start.  Its inputs are read before its destination is written, so an element read from an overlap has the value from before
the command, of the two that R168 allows (DESIGN CHOICE, notes/assumptions/22.md). -/
def Chan.veOpStart (c : Chan) (q seq : Nat) : Chan :=
  match (c.queue q).cmd? seq with
  | none => c
  | some h =>
    let raw := h.raw
    let seg := c.segOf q
    let n := c.vl q
    let k := q - 0x10
    let (fa, fb, fc) := (fieldOf raw 26 26, fieldOf raw 27 27, fieldOf raw 28 28)
    let fd := c.promote q (fieldOf raw 29 29)
    let a := opdPlace seg raw 56
    let sat := c.flag (VE_CTL.SAT k)
    match c.readStream seg raw 32 fa n with
    | (none, c) => c.fail q seq haltMEM 0
    | (some as, c) =>
      match c.readStream seg raw 40 fb n with
      | (none, c) => c.fail q seq haltMEM 0
      | (some bs, c) =>
        match (if veReadsC raw then c.readStream seg raw 48 fc n else (some (List.replicate n 0), c)) with
        | (none, c) => c.fail q seq haltMEM 0
        | (some cs, c) =>
          let one (e : Nat × Nat × Nat) : Nat :=
            let b := if veNegB raw && !isNan32 e.2.1 then negate32 e.2.1 else e.2.1
            let cc := if veNegC raw && !isNan32 e.2.2 then negate32 e.2.2 else e.2.2
            veResult (veKind raw) (veCond raw) e.1 b cc (e.2.2 != 0)
          let rs := (as.zip (bs.zip cs)).map one
          match c.veFinish q seq fd a sat rs with
          | (true, c) => c.fail q seq haltMEM 0
          | (false, c) =>
            let u (off f : Nat) : Nat := if isInline seg raw off then 0 else unitBytes f
            let b := u 32 fa + u 40 fb + (if veReadsC raw then u 48 fc else 0) + unitBytes fd
            c.vePort q seq (20 + (if sumEn raw then 8 else 0)) (ceilDiv n 256) (ceilDiv (n * b) (32 * 3072)) false

/-- VE_OP (R169). -/
def specVeOp : CmdSpec where
  fields := fun c q seg raw =>
    let n := c.vl q
    let (fa, fb, fc) := (fieldOf raw 26 26, fieldOf raw 27 27, fieldOf raw 28 28)
    let fd := c.promote q (fieldOf raw 29 29)
    let useC := veReadsC raw
    mustBe 24 (fieldOf raw 24 24 < 128 && veKind raw != 7 && (!veNegC raw || veKind raw == 2) &&
      (veCond raw == 0 || veKind raw == 3) && (useC || (fc == 0 && fieldOf raw 48 55 == 0))) ++
    sumField raw ++ streamField seg raw 32 26 fa true n ++ streamField seg raw 40 27 fb true n ++
    (if useC then streamField seg raw 48 28 fc true n ++
       (if veKind raw = 4 ∧ fc ≠ 0x10 then [28] else []) else []) ++
    streamField seg raw 56 29 fd false n ++ mustBe 29 (if veKind raw = 3 then fd == 0x10 else fd != 0x10) ++
    zeroField raw 30 31 ++
    (if n % 32 = 0 then [] else firstMx ([(26, fa), (27, fb)] ++ (if useC then [(28, fc)] else []) ++ [(29, fd)]))
  addrs := fun c q seg raw =>
    let n := c.vl q
    streamAddr seg raw 32 (fieldOf raw 26 26) true n ++ streamAddr seg raw 40 (fieldOf raw 27 27) true n ++
    (if veReadsC raw then streamAddr seg raw 48 (fieldOf raw 28 28) true n else []) ++
    streamAddr seg raw 56 (c.promote q (fieldOf raw 29 29)) false n
  rows := fun c q seg raw =>
    basedRow seg raw ([32, 40, 56] ++ (if veReadsC raw then [48] else [])) ++
    (if c.e2 && (isMx (fieldOf raw 26 26) || isMx (fieldOf raw 27 27) || isMx (fieldOf raw 28 28) ||
      isMx (c.promote q (fieldOf raw 29 29))) then [6] else [])
  start := fun c q seq => c.veOpStart q seq

/-! ### VE_FUNC -/

/-- VE_FUNC's start: its chunks of 256 elements then wait for grants (R182). -/
def Chan.veFuncStart (c : Chan) (q seq : Nat) : Chan :=
  match (c.queue q).cmd? seq with
  | none => c
  | some h =>
    let raw := h.raw
    let seg := c.segOf q
    let n := c.vl q
    let k := q - 0x10
    let fa := fieldOf raw 26 26
    let fd := c.promote q (fieldOf raw 27 27)
    match c.readStream seg raw 32 fa n with
    | (none, c) => c.fail q seq haltMEM 0
    | (some as, c) =>
      let rs := as.map (funcStage (fieldOf raw 24 24))
      match c.veFinish q seq fd (opdPlace seg raw 40) (c.flag (VE_CTL.SAT k)) rs with
      | (true, c) => c.fail q seq haltMEM 0
      | (false, c) =>
        let b := (if isInline seg raw 32 then 0 else unitBytes fa) + unitBytes fd
        c.vePort q seq (44 + (if sumEn raw then 8 else 0)) (ceilDiv n 256) (ceilDiv (n * b) (32 * 3072)) true

/-- VE_FUNC (R180). -/
def specVeFunc : CmdSpec where
  fields := fun c q seg raw =>
    let n := c.vl q
    let fa := fieldOf raw 26 26
    let fd := c.promote q (fieldOf raw 27 27)
    mustBe 24 (actGrant (fieldOf raw 24 24)) ++ sumField raw ++ streamField seg raw 32 26 fa true n ++
    streamField seg raw 40 27 fd false n ++ mustBe 27 (fd != 0x10) ++ zeroField raw 28 31 ++ zeroField raw 48 63 ++
    (if n % 32 = 0 then [] else firstMx [(26, fa), (27, fd)])
  addrs := fun c q seg raw =>
    let n := c.vl q
    streamAddr seg raw 32 (fieldOf raw 26 26) true n ++ streamAddr seg raw 40 (c.promote q (fieldOf raw 27 27)) false n
  rows := fun c q seg raw =>
    basedRow seg raw [32, 40] ++
    (if c.e2 && (isMx (fieldOf raw 26 26) || isMx (c.promote q (fieldOf raw 27 27))) then [6] else [])
  start := fun c q seq => c.veFuncStart q seq

/-! ### VE_COMPRESS, VE_EXPAND, VE_SETVL -/

/-- R179: the formats that are copied bit for bit. -/
def packFmtOk (f : Nat) : Bool := f == 0 || f == 1 || f == 8 || f == 9 || f == 0x0C

/-- The field step of VE_COMPRESS and VE_EXPAND.  Their MASK operand has no format field of its own: where it is INLINE, DETAIL is that
of the format byte 26 (R164; DESIGN CHOICE, notes/assumptions/150.md). -/
def packFields (isExp : Bool) (n : Nat) (seg : Option Seg) (raw : List Byte) : List Nat :=
  let f := fieldOf raw 26 26
  zeroField raw 24 25 ++ mustBe 26 (packFmtOk f) ++ zeroField raw 27 31 ++
  opdField seg raw 32 true (opdBytes seg raw 32 f n) ++ opdField seg raw 40 true (elemBytes 0x10 n) ++
  (if isInline seg raw 40 then [26] else []) ++ opdField seg raw 48 false (streamBytes f n) ++
  (if isExp then zeroField raw 56 63 else opdField seg raw 56 false 8)

def packAddrs (isExp : Bool) (n : Nat) (seg : Option Seg) (raw : List Byte) : List Nat :=
  let f := fieldOf raw 26 26
  streamAddr seg raw 32 f true n ++ localAddr seg raw 40 true (elemBytes 0x10 n) 1 ++ streamAddr seg raw 48 f false n ++
  (if isExp then [] else localAddr seg raw 56 false 8 8)

/-- The positions of the set bits of a mask of `n` bits. -/
def maskSet (n : Nat) (bs : List Byte) : List Nat := (List.range n).filter (fun j => elemAt 0x10 bs j == 1)

/-- Bytes of element `j` of a source of `e`-byte elements; an inline source gives its one element each time. -/
def elemBytesAt (inl : Bool) (e : Nat) (bs : List Byte) (j : Nat) : List Byte :=
  (bs.drop (if inl then 0 else e * j)).take e

/-- A command's share of time for COMPRESS and EXPAND (Table 7-5). -/
def Chan.packTime (c : Chan) (q seq n m e : Nat) : Chan :=
  (c.count (VE_CNT_ELEMS.COUNT (q - 0x10)) n).vePort q seq 20 (ceilDiv n 256) (ceilDiv (n * (8 * e + 1) + 8 * m * e) (8 * 3072)) false

/-- VE_COMPRESS's start (R177). -/
def Chan.compressStart (c : Chan) (q seq : Nat) : Chan :=
  match (c.queue q).cmd? seq with
  | none => c
  | some h =>
    let raw := h.raw
    let seg := c.segOf q
    let n := c.vl q
    let f := fieldOf raw 26 26
    let e := elemBits f / 8
    let inl := isInline seg raw 32
    match c.fetchOpd seg raw 32 (opdBytes seg raw 32 f n) with
    | (none, c) => c.fail q seq haltMEM 0
    | (some src, c) =>
      match c.fetchOpd seg raw 40 (elemBytes 0x10 n) with
      | (none, c) => c.fail q seq haltMEM 0
      | (some mask, c) =>
        let ix := maskSet n mask
        let (bad, c) := c.store (opdPlace seg raw 48) (ix.flatMap (elemBytesAt inl e src))
        let (bad', c) := c.store (opdPlace seg raw 56) (leBytes 8 ix.length)
        if bad || bad' then c.fail q seq haltMEM 0 else c.packTime q seq n ix.length e

/-- VE_COMPRESS (R177). -/
def specCompress : CmdSpec where
  fields := fun c q seg raw => packFields false (c.vl q) seg raw
  addrs := fun c q seg raw => packAddrs false (c.vl q) seg raw
  rows := fun _ _ seg raw => basedRow seg raw [32, 40, 48, 56]
  start := fun c q seq => c.compressStart q seq

/-- The set positions of EXPAND written one after another. -/
def Chan.expandPut (c : Chan) (dst e : Nat) (inl : Bool) (src : List Byte) : Nat → List Nat → Bool × Chan
  | _, [] => (false, c)
  | i, j :: r =>
    let (bad, c) := c.store (dst + e * j) (elemBytesAt inl e src i)
    let (bad', c) := Chan.expandPut c dst e inl src (i + 1) r
    (bad || bad', c)

/-- VE_EXPAND's start (R178): it reads exactly as many source elements as there are set bits. -/
def Chan.expandStart (c : Chan) (q seq : Nat) : Chan :=
  match (c.queue q).cmd? seq with
  | none => c
  | some h =>
    let raw := h.raw
    let seg := c.segOf q
    let n := c.vl q
    let f := fieldOf raw 26 26
    let e := elemBits f / 8
    let inl := isInline seg raw 32
    match c.fetchOpd seg raw 40 (elemBytes 0x10 n) with
    | (none, c) => c.fail q seq haltMEM 0
    | (some mask, c) =>
      let ix := maskSet n mask
      match c.fetchOpd seg raw 32 (if inl then e else e * ix.length) with
      | (none, c) => c.fail q seq haltMEM 0
      | (some src, c) =>
        match c.expandPut (opdPlace seg raw 48) e inl src 0 ix with
        | (true, c) => c.fail q seq haltMEM 0
        | (false, c) => c.packTime q seq n ix.length e

/-- VE_EXPAND (R178). -/
def specExpand : CmdSpec where
  fields := fun c q seg raw => packFields true (c.vl q) seg raw
  addrs := fun c q seg raw => packAddrs true (c.vl q) seg raw
  rows := fun _ _ seg raw => basedRow seg raw [32, 40, 48]
  start := fun c q seq => c.expandStart q seq

/-- VE_SETVL (R166): the length is set when it starts; it completes one cycle later. -/
def specSetvl : CmdSpec where
  fields := fun _ _ _ raw => mustBe 24 (1 ≤ fieldOf raw 24 25) ++ zeroField raw 26 63
  start := fun c q seq =>
    match (c.queue q).cmd? seq with
    | none => c
    | some h => (c.sf (VE_VL.VL (q - 0x10)) (fieldOf h.raw 24 25)).onCmd q seq (fun h => { h with ready := c.now + 8 })

/-- May a vector command complete: summaries are written in queue order (R176). -/
def Chan.veMayEnd (c : Chan) (q seq : Nat) : Bool :=
  match (c.ve (q - 0x10)).sums with
  | [] => true
  | s :: _ => s.1 == seq || !((c.ve (q - 0x10)).sums.any (fun s => s.1 == seq))

/-- A vector command completes: its summary is written before its signals apply (R176). -/
def Chan.veDone (c : Chan) (q seq : Nat) : Chan :=
  let k := q - 0x10
  let x := c.ve k
  match x.sums.find? (fun s => s.1 == seq) with
  | none => c
  | some s => (c.setVe k { x with sums := x.sums.filter (fun s => s.1 ≠ seq) }).putSum k s.2.1 s.2.2

/-! ### Function-stage grants (R182) -/

/-- The VE_FUNC in its data phase that waits for a grant on vector engine `k`. -/
def Chan.veWants (c : Chan) (k : Nat) : Option Phase :=
  match c.phasesOf (0x10 + k) with
  | p :: _ => if p.grants ∧ p.chunks ≠ 0 ∧ p.start.isSome then some p else none
  | [] => none

/-- The drain of matrix engine `k` that waits for a grant. -/
def Chan.meWants (c : Chan) (k : Nat) : Option (MePort × Started) :=
  match (c.me k).port with
  | [] => none
  | pt :: _ =>
    match (c.queue k).cmd? pt.seq with
    | none => none
    | some h => if pt.began.isSome && pt.pos < pt.rows && portGrant h then some (pt, h) else none

/-- Does requester `r` of stage `k` wait: 0 the vector engine, 1 to 4 the matrix engines? -/
def Chan.fsWants (c : Chan) (k r : Nat) : Bool :=
  if r = 0 then (c.veWants k).isSome else (c.meWants (4 * k + (r - 1))).isSome

/-- Since when the requester waits. -/
def Chan.fsSince (c : Chan) (k r : Nat) : Nat :=
  let s := tget (fun _ => 0) (c.fs k).since r
  if r = 0 then max s (((c.veWants k).bind (·.start)).getD 0)
  else max s (((c.meWants (4 * k + (r - 1))).bind (fun p => p.1.began)).getD 0)

/-- Cycles up to cycle `hi`, from cycle `lo` on, that the requesters of stage `k` wait (R187, R189). -/
def Chan.fsWaits (c : Chan) (lo hi k : Nat) : Chan :=
  (List.range 5).foldl (fun c r =>
    let n := if c.fsWants k r then hi - max lo (c.fsSince k r) else 0
    let c := if n = 0 then c else c.count (FS_CNT_WAIT.COUNT k) n
    if r = 0 ∧ n ≠ 0 then c.count (VE_CNT_FSWAIT.COUNT k) n else c) c

/-- ACLK cycles `lo` up to `hi` pass in which no command has an effect: waits are counted and data phases run on. -/
def Chan.runCycles (c : Chan) (lo hi : Nat) : Chan :=
  if hi ≤ lo then c
  else
    let c := (c.mes.map (·.1)).foldl (fun c k => c.meWaits lo hi k) c
    let c := (c.phases.map (·.1)).foldl (fun c q => Chan.runPhases lo hi q (c.phasesOf q).length c) c
    (List.range 4).foldl (fun c k => c.fsWaits lo hi k) c

/-- FS_GRANT: two ACLK cycles to the next pending requester in rotation. -/
def Chan.fsGrant (c : Chan) (k : Nat) : Chan :=
  let x := c.fs k
  let cyc := c.cyc8
  if cyc < x.busy ∨ ¬ c.openCycle cyc then c
  else
    match ((List.range 5).map (fun i => (x.last + 1 + i) % 5)).find? (fun r => c.fsWants k r) with
    | none => c
    | some r =>
      let c := c.setFs k { x with last := r, busy := cyc + 2, since := tput (fun _ => 0) x.since r (cyc + 2) }
      if r = 0 then
        let c := c.count (FS_CNT_VE.COUNT k) 1
        match c.veWants k with
        | none => c
        | some p =>
          (c.setPhases (0x10 + k) ({ p with chunks := p.chunks - 1, edge := cyc + 2 } :: (c.phasesOf (0x10 + k)).drop 1)).onCmd
            (0x10 + k) p.seq (fun h => { h with ready := max h.ready (8 * (cyc + 24)) })
      else
        let m := 4 * k + (r - 1)
        let c := c.count (FS_CNT_ME.COUNT k) 1
        match c.meWants m with
        | none => c
        | some (pt, h) =>
          let (bad, c) := c.portRow m pt h pt.pos
          if bad then (c.meFail m pt.seq).portBegin m cyc
          else
            let c := c.onMe m (fun x => { x with port := { pt with pos := pt.pos + 1, grants := pt.grants ++ [cyc] } :: x.port.drop 1 })
            if pt.pos + 1 = pt.rows then
              c.onCmd m pt.seq (fun h => { h with out := 0, ready := 8 * (cyc + 2 + 32 - 1) })
            else c

end Sys2Proof.Machine
end

