-- ==== Sys2Proof/Machine/Collective.lean ====
section
/-!
DEFINITION. The collective engine and the gradebook (R289 to R324).  Its queue is 0x20.
-/
namespace Sys2Proof.Machine

def qCE : Nat := 0x20

/-! ### Contexts -/

def Chan.ceN (c : Chan) (g : Nat) : Nat := c.gf (CE_GRP_CFG.SIZE_M1 g) + 1
def Chan.cePos (c : Chan) (g : Nat) : Nat := c.gf (CE_GRP_CFG.POS g)
def Chan.ceEn (c : Chan) (g : Nat) : Bool := c.flag (CE_GRP_CFG.EN g)
def Chan.ceTerm (c : Chan) (g : Nat) : Nat := c.gf (CE_GRP_TERM.TERM g)

/-- R291: is the group treated as containing an Ivell 2 member? -/
def Chan.ceIv2 (c : Chan) (g : Nat) : Bool :=
  let ax := c.gf (CE_GRP_CFG.AXIS g)
  c.flag (CE_GRP_CFG.LEGACY g) || c.gf (IV_VER.NEG_VER (2 * ax)) == 2 || c.gf (IV_VER.NEG_VER (2 * ax + 1)) == 2

/-- The enabled contexts whose GID is `gid`. -/
def Chan.ceCtx (c : Chan) (gid : Nat) : List Nat := (List.range 8).filter (fun g => c.ceEn g && c.gf (CE_GRP_CFG.GID g) == gid)

def Chan.syncCe (c : Chan) (g : Nat) : Chan :=
  c.sf (CE_GRP_STAT.OPEN g) (c.bkts.filter (fun b => b.g == g)).length

def Chan.onBkt (c : Chan) (id : Nat) (f : Bkt → Bkt) : Chan :=
  (c.withBkts (c.bkts.map (fun b => if b.id = id then f b else b)))
def Chan.bkt? (c : Chan) (id : Nat) : Option Bkt := c.bkts.find? (fun b => b.id == id)
def Chan.findBkt (c : Chan) (g term step bkt : Nat) : Option Bkt :=
  c.bkts.find? (fun b => b.g == g && b.term == term && b.step == step && b.bkt == bkt)

/-- A bucket opened, unless it is open already. -/
def Chan.openBkt (c : Chan) (g term step bkt : Nat) : Nat × Chan :=
  match c.findBkt g term step bkt with
  | some b => (b.id, c)
  | none =>
    (c.nextBkt, (((c.withNextBkt (c.nextBkt + 1)).withBkts (c.bkts ++ [{ id := c.nextBkt, g := g, term := term, step := step, bkt := bkt }])) : Chan).syncCe g)

/-- The bucket record's address, and whether it shows the bucket complete for a step and term (R294, R295). -/
def Chan.recAddr (c : Chan) (g bkt : Nat) : Nat := c.gf (CE_GRP_REC.ADDR g) * 64 + 64 * bkt
def Chan.bktDone (c : Chan) (g term step bkt : Nat) : Bool :=
  let a := c.recAddr g bkt
  c.peekLe a 4 == step && c.peekLe (a + 4) 2 == term && bit (c.peekLe (a + 6) 1) 0

/-- A bucket that is not open: has its record, which is read for it, shown it complete (R294)?  None where the record's codeword
is uncorrectable (R38). -/
def Chan.ceOver (c : Chan) (g term step bkt : Nat) : Option Bool × Chan :=
  if (c.findBkt g term step bkt).isSome then (some false, c)
  else
    let (bad, c) := c.access 0 (c.recAddr g bkt) 8
    (if bad then none else some (c.bktDone g term step bkt), c)

def Chan.ceStale (c : Chan) (g what term step : Nat) : Chan :=
  ((c.count (CE_GRP_CNT_STALE.COUNT g) 1).sf (CE_GRP_STAT.STALE g) 1).ev 0x06 0x91 1
    (det [(16, 1, g), (17, 1, what), (18, 2, term), (20, 2, c.ceTerm g), (22, 4, step)])

/-! ### The gradebook (R318, R319) -/

def crc64Bits : Nat → Nat → Nat
  | 0, r => r
  | n + 1, r => crc64Bits n (if r < 2 ^ 63 then 2 * r else (2 * r) % 2 ^ 64 ^^^ 0x42F0E1EBA9EA3693)

/-- CRC-64 of ECMA-182, most significant bit first. -/
def crc64 (bs : List Byte) : Nat := bs.foldl (fun r b => crc64Bits 8 (r ^^^ (b.toNat * 2 ^ 56))) 0

/-- A record enters the gradebook entry of (context, step, term). -/
def Chan.gbRecord (c : Chan) (g term step : Nat) (sent : Bool) (bs : List Byte) : Chan :=
  let i := step % 64
  let c :=
    if c.gf (GB_E_A.STEP g i) = step ∧ c.gf (GB_E_A.TERM g i) = term ∧ c.flag (GB_E_A.VALID g i) then c
    else
      let c := c.wr (GB_E_A.off g i) (step + term * 2 ^ 32 + 2 ^ 48)
      ((c.wr (GB_E_B.off g i) 0).sf (GB_E_SENT.DIGEST g i) 0).sf (GB_E_RECV.DIGEST g i) 0
  if sent then (c.sf (GB_E_SENT.DIGEST g i) (c.gf (GB_E_SENT.DIGEST g i) ^^^ crc64 bs)).count (GB_E_B.NSENT g i) 1
  else (c.sf (GB_E_RECV.DIGEST g i) (c.gf (GB_E_RECV.DIGEST g i) ^^^ crc64 bs)).count (GB_E_B.NRECV g i) 1

/-- R572: what the gradebook holds of the step of a bucket that its members issued differently is undefined. -/
def Chan.gbUndefined (c : Chan) (g step : Nat) : Chan :=
  let i := step % 64
  let (f, c) := c.free
  let w (k : Nat) : Nat := leAt ((List.range 8).map (fun j => Config.ceUndefined f (8 * k + j))) 0 8
  (((c.wr (GB_E_B.off g i) (w 0)).sf (GB_E_SENT.DIGEST g i) (w 1)).sf (GB_E_RECV.DIGEST g i) (w 2))

/-- R319: a command of the entry's step is resumed after failing during execution. -/
def Chan.gbResumed (c : Chan) (g term step : Nat) : Chan :=
  let i := step % 64
  if c.gf (GB_E_A.STEP g i) = step ∧ c.gf (GB_E_A.TERM g i) = term ∧ c.flag (GB_E_A.VALID g i) then c.sf (GB_E_A.RESUMED g i) 1
  else c

/-- GB_CTL.CLR. -/
def Chan.gbClr (c : Chan) (g : Nat) : Chan := (List.range 64).foldl (fun c i => c.sf (GB_E_A.VALID g i) 0) c

/-! ### Partials on the wire (R295, R300) -/

def fSC : Nat := 0
def fRESC : Nat := 1
def fEMPTY : Nat := 2
def setFlag (f i : Nat) (on : Bool) : Nat := setBits f i 1 (b2n on)

/-- A partial with its chunk header. -/
def Chan.msgBytes (c : Chan) (b : Bkt) (m : CeMsg) : List Byte :=
  leBytes 2 (c.gf (CE_GRP_CFG.GID b.g)) ++ leBytes 2 b.term ++ leBytes 4 b.step ++ leBytes 2 b.bkt ++ leBytes 1 m.chunk ++
  leBytes 1 m.phase ++ leBytes 1 m.flags ++ leBytes 3 0 ++ leBytes 32 m.attend ++ leBytes 16 0 ++ m.data

/-- The low virtual channel of a context's pair (Table 13-10). -/
def Chan.ceVc (c : Chan) (g : Nat) : Nat := 4 + 2 * c.gf (CE_GRP_CFG.VCP g)

/-- Packets of a bucket leave while NEXT has room; the gradebook records a partial as its last packet leaves (R318). -/
def Chan.ceSendOne (c : Chan) (id : Nat) : Nat → Chan
  | 0 => c
  | fuel + 1 =>
    match c.bkt? id with
    | none => c
    | some b =>
      match b.toSend with
      | [] => c
      | (i, k) :: r =>
        let n := tget (fun _ => 0) c.cePass b.g
        if n = 0 then c
        else
          let c := (c.withCePass (tput (fun _ => 0) c.cePass b.g (n - 1)))
          let c := c.onBkt id (fun b => { b with toSend := r, unacked := b.unacked ++ [(i, k)], digests := terase i b.digests })
          let c := match tget? i b.digests with | some bs => c.gbRecord b.g b.term b.step true bs | none => c
          let c := c.request { op0 with kind := 2, cont := .unit 1 id i, pkt := k }
          Chan.ceSendOne c id fuel

/-- R572: `bs`, or undefined bytes in its place where the members issued the bucket differently. -/
def Chan.ceBytes (c : Chan) (b : Bkt) (bs : List Byte) : List Byte × Chan :=
  if b.odd then
    let (f, c) := c.free
    ((List.range bs.length).map (Config.ceUndefined f), c)
  else (bs, c)

/-- A partial goes to NEXT; it is cut into packets that each carry the chunk header. -/
def Chan.ceSend (c : Chan) (b : Bkt) (m : CeMsg) : Chan :=
  let (data, c) := c.ceBytes b m.data
  let m := { m with data := data }
  let bs := c.msgBytes b m
  let hdr := bs.take 64
  let room := maxData - 64
  let n := max 1 ((m.data.length + room - 1) / room)
  let ks := (List.range n).map (fun i =>
    (b.nsend + i, { pkt0 with
      ptype := pCE_PARTIAL, dst := c.gf (CE_GRP_NEXT.NODE b.g), addr := c.ceVc b.g, aux2 := m.data.length + i * room * 2 ^ 32
      len := 64 + ((m.data.drop (i * room)).take room).length, data := hdr ++ (m.data.drop (i * room)).take room }))
  c.onBkt b.id (fun x => { x with
    toSend := x.toSend ++ ks, nsend := x.nsend + n, digests := tput (fun _ => []) x.digests (x.nsend + n - 1) bs })

/-! ### Chunks (R293, R296, R299, R306, R308 to R312) -/

def chunkC (op count n : Nat) : Nat :=
  if op = 0x51 then 128 * ((count + 128 * n - 1) / (128 * n)) else 32 * ((count + 32 * n - 1) / (32 * n))

/-- First element and length of chunk k. -/
def chunkRange (op count n k : Nat) : Nat × Nat :=
  let c := chunkC op count n
  (k * c, min ((k + 1) * c) count - k * c)

def logH (n : Nat) : Nat := if n ≤ 1 then 0 else Nat.log2 (n - 1) + 1

/-- R308: a member's code for a block. -/
def blockCode (n : Nat) (xs : List Nat) : Nat :=
  if xs.any (fun x => !isFin32 x) then 0xFF
  else
    match exp32? (xs.foldl (fun a x => max a (abs32 x)) 0) with
    | none => 0
    | some e => if e + 1 + logH n > 127 then 0xFF else (max e (-127) + 128).toNat

/-- The X of an agreed code. -/
def codeX (n code : Nat) : Int := if code = 0 then -128 else (code : Int) - 128 + 1 + logH n

/-- x × 2^(15 − X) rounded to an integer, ties to even. -/
def mantissa (x : Nat) (bx : Int) : Int :=
  match f32 x with
  | .fin s m q =>
    let e := q + 15 - bx
    let r : Nat :=
      if 0 ≤ e then m * 2 ^ e.toNat
      else
        let sh := (-e).toNat
        let lo := m / 2 ^ sh
        let rem := m % 2 ^ sh
        if 2 * rem > 2 ^ sh ∨ 2 * rem = 2 ^ sh ∧ lo % 2 = 1 then lo + 1 else lo
    if s then -(r : Int) else r
  | _ => 0

/-- A scaled-16 block: X, whether it is in FP32 (wide or from the start), WPOS and its 32 numbers (mantissas or codes). -/
structure SBlock where
  x : Int
  wide : Bool
  fstart : Bool
  wpos : Nat
  ms : List Int
  deriving DecidableEq, Repr

def SBlock.isF (b : SBlock) : Bool := b.wide || b.fstart

def SBlock.bytes (b : SBlock) : List Byte :=
  leBytes 1 (b.x + 128).toNat ++ leBytes 1 (b2n b.wide + 2 * b2n b.fstart) ++ leBytes 1 b.wpos ++ leBytes 1 0 ++
  b.ms.flatMap (fun m => if b.isF then leBytes 4 m.toNat else leBytes 2 (ofSigned 16 m))

/-- The blocks of a payload. -/
def parseBlocks : Nat → List Byte → List SBlock
  | 0, _ => []
  | fuel + 1, bs =>
    if bs.isEmpty then []
    else
      let fl := leAt bs 1 1
      let isF := fl % 4 != 0
      let w := if isF then 4 else 2
      let ms := (List.range 32).map (fun i => let v := leAt bs (4 + w * i) w; if isF then (v : Int) else toSigned 16 v)
      { x := (leAt bs 0 1 : Int) - 128, wide := bit fl 0, fstart := bit fl 1, wpos := leAt bs 2 1, ms := ms } ::
        parseBlocks fuel (bs.drop (4 + 32 * w))

/-- The FP32 values of a block (R311). -/
def SBlock.vals (b : SBlock) : List Nat := b.ms.map (fun m => if b.isF then m.toNat else rnInt m (b.x - 15))

/-- A member's own block under an agreed code (R309). -/
def ownBlock (n code : Nat) (xs : List Nat) : SBlock :=
  if code = 0xFF then { x := 127, wide := false, fstart := true, wpos := 0, ms := xs.map (fun (x : Nat) => (x : Int)) }
  else { x := codeX n code, wide := false, fstart := false, wpos := 0, ms := xs.map (fun x => mantissa x (codeX n code)) }

/-- R310: a member at position `pos` adds its values to a block; true when it widened it. -/
def addBlock (pos : Nat) (b : SBlock) (xs : List Nat) : Bool × SBlock :=
  if b.fstart then (false, { b with ms := (b.ms.zip xs).map (fun e => ((add32 e.1.toNat e.2 : Nat) : Int)) })
  else
    let own := xs.map (fun x => mantissa x b.x)
    let f (m : Int) : Nat := rnInt m (b.x - 15)
    if b.wide then (false, { b with ms := (b.ms.zip own).map (fun e => ((add32 e.1.toNat (f e.2) : Nat) : Int)) })
    else
      let sums := (b.ms.zip own).map (fun e => e.1 + e.2)
      if sums.any (fun s => decide (s < -32768) || decide (32767 < s)) then
        (true, { b with wide := true, wpos := pos, ms := (b.ms.zip own).map (fun e => ((add32 (f e.1) (f e.2) : Nat) : Int)) })
      else (false, { b with ms := sums })

/-- R312: the pair of a chunk of final values. -/
def chunkPair (vs : List Nat) : Nat × Nat :=
  let rs := vs.map (fun v => mul32 v v)
  if rs.any (fun r => !isFin32 r) then (sumAll rs, 0)
  else
    let (ov, ls) := sumLanes (rs.length / 256 + 1) none (List.replicate 256 (0, 0)) rs
    let (ov, ls) := sumTree 8 ov ls
    match ov with
    | some i => (i, 0)
    | none => ls.headD (0, 0)

/-- R313: the pairs folded in ascending k. -/
def foldPairs (ps : List (Nat × Nat)) : Nat × Nat :=
  if ps.any (fun p => !isFin32 p.1) then ((ps.map (·.1)).foldl add32 0, 0)
  else ps.foldl (fun a p => let (s, t) := twoSum a.1 p.1; (s, add32 (add32 a.2 p.2) t)) (0, 0)

/-- The final FP32 values of a chunk's result. -/
def CeMsg.vals (m : CeMsg) : List Nat :=
  if bit m.flags fSC then (parseBlocks (m.data.length / 68 + 1) m.data).flatMap SBlock.vals
  else words32 (m.data.length / 4) m.data

/-! ### What a member does with a partial -/

def cePrev (n pos : Nat) : Nat := (pos + n - 1) % n

def Bkt.scaled (b : Bkt) : Bool := bit b.par 0
def Bkt.parFlags (b : Bkt) : Nat :=
  b2n (bit b.par 2) * 8 + b2n (b.op == 0x52) * 16 + b2n (bit b.par 3) * 32 + b2n (bit b.par 0)

/-- The member's contribution to chunk k. -/
def Bkt.xs (b : Bkt) (n k : Nat) : List Nat :=
  let r := chunkRange b.op b.count n k
  (b.contrib.drop r.1).take r.2

/-- R572: does a partial agree with the member's own command, as far as its phase, flags and length tell? -/
def Bkt.fits (n : Nat) (b : Bkt) (m : CeMsg) : Bool :=
  let len := (chunkRange b.op b.count n m.chunk).2
  let blocks := (len + 31) / 32
  let whole :=
    if bit m.flags fSC then (parseBlocks (m.data.length / 68 + 1) m.data).length == blocks else m.data.length == 4 * len
  let shape :=
    if m.phase ≤ 1 then b.op != 0x51 && b.scaled && m.data.length == blocks
    else if m.phase = 2 then b.op != 0x51 && whole
    else if m.phase = 3 then if b.op = 0x51 then m.data.length == len else b.op == 0x52 && whole
    else b.op == 0x50 && bit b.par 3 && m.data.length == 8
  bit m.flags fEMPTY && b.op != 0x51 || shape && m.flags &&& 0x39 == b.parFlags

/-- R572: do the partials and codes that came before the command agree with it? -/
def Bkt.fitsAll (n : Nat) (b : Bkt) : Bool :=
  (b.held ++ b.res.map (·.2)).all (b.fits n) &&
  b.codes.all (fun e => b.scaled && e.2.length == ((chunkRange b.op b.count n e.1).2 + 31) / 32)

/-- A present member's contribution joins an agreement partial. -/
def agreeAdd (n : Nat) (b : Bkt) (pos : Nat) (m : CeMsg) : CeMsg :=
  let own := (blocks32 b.contrib.length (b.xs n m.chunk)).map (blockCode n)
  let old := m.data.map BitVec.toNat
  let new := if bit m.flags fEMPTY then own else (old.zip own).map (fun e => max e.1 e.2)
  { m with data := new.map (BitVec.ofNat 8), attend := m.attend ||| 2 ^ pos, flags := setFlag m.flags fEMPTY false ||| b.parFlags }

/-- A present member's contribution joins a reduction partial; the number of blocks it widened. -/
def reduceAdd (n : Nat) (b : Bkt) (pos : Nat) (m : CeMsg) : Nat × CeMsg :=
  let xs := b.xs n m.chunk
  let flags := setFlag m.flags fEMPTY false ||| b.parFlags
  if b.scaled then
    let own := blocks32 b.contrib.length xs
    if bit m.flags fEMPTY then
      let codes := tget (fun _ => []) b.codes m.chunk
      (0, { m with data := (own.zip codes).flatMap (fun e => (ownBlock n e.2 e.1).bytes), attend := m.attend ||| 2 ^ pos, flags := flags })
    else
      let r := ((parseBlocks (m.data.length / 68 + 1) m.data).zip own).map (fun e => addBlock pos e.1 e.2)
      ((r.filter (·.1)).length, { m with data := r.flatMap (fun e => e.2.bytes), attend := m.attend ||| 2 ^ pos, flags := flags })
  else
    let new := if bit m.flags fEMPTY then xs else ((words32 xs.length m.data).zip xs).map (fun e => add32 e.1 e.2)
    (0, { m with data := new.flatMap (leBytes 4), attend := m.attend ||| 2 ^ pos, flags := flags })

/-- R306, R311: the owner's result of a completed fold. -/
def finalMsg (n : Nat) (m : CeMsg) : CeMsg :=
  let p := popcount 256 m.attend
  if bit m.flags 3 && p != 0 && p != n then
    let f := div32 (rnInt n 0) (rnInt p 0)
    let sc (v : Nat) : Nat := if isFin32 v then mul32 v f else v
    if bit m.flags fSC then
      { m with
        flags := setFlag m.flags fRESC true
        data := (parseBlocks (m.data.length / 68 + 1) m.data).flatMap (fun b =>
          SBlock.bytes { b with fstart := true, ms := b.vals.map (fun v => ((sc v : Nat) : Int)) }) }
    else { m with flags := setFlag m.flags fRESC true, data := (words32 (m.data.length / 4) m.data).flatMap (fun v => leBytes 4 (sc v)) }
  else m

/-- The owner has the fold of its chunk: norm pair, gather (R298, R303, R313). -/
def Chan.ceFinal (c : Chan) (b : Bkt) (m : CeMsg) : Chan :=
  let n := c.ceN b.g
  let f := finalMsg n m
  let c := c.onBkt b.id (fun b => { b with res := tput (fun _ => ceMsg0) b.res f.chunk f })
  if bit f.flags fEMPTY then c
  else if bit f.flags 4 then c.ceSend b { f with phase := 3 }
  else if bit f.flags 5 then
    let p := chunkPair f.vals
    let c := c.onBkt b.id (fun b => { b with norms := tput (fun _ => (0, 0)) b.norms f.chunk p })
    c.ceSend b { f with phase := 4, data := leBytes 4 p.1 ++ leBytes 4 p.2 }
  else c

/-- A held partial is acted on; `none` while it must wait. -/
def Chan.ceAct (c : Chan) (b : Bkt) (m : CeMsg) : Option Chan :=
  let n := c.ceN b.g
  let pos := c.cePos b.g
  let last := (m.chunk + n - 1) % n == pos
  if m.phase = 3 then
    let c := c.onBkt b.id (fun b => { b with res := tput (fun _ => ceMsg0) b.res m.chunk m })
    some (if last then c else c.ceSend b m)
  else if m.phase = 4 then
    let c := c.onBkt b.id (fun b => { b with norms := tput (fun _ => (0, 0)) b.norms m.chunk (leAt m.data 0 4, leAt m.data 4 4) })
    some (if last then c else c.ceSend b m)
  else if m.phase = 1 then
    let c := c.onBkt b.id (fun b => { b with codes := tput (fun _ => []) b.codes m.chunk (m.data.map BitVec.toNat) })
    some (if last then c else c.ceSend b m)
  else if b.mode = 0 then none
  else if m.phase = 0 then
    let m := if b.mode = 1 then agreeAdd n b pos m else m
    if m.chunk = pos then
      let c := c.onBkt b.id (fun b => { b with codes := tput (fun _ => []) b.codes m.chunk (m.data.map BitVec.toNat) })
      some (c.ceSend b { m with phase := 1 })
    else some (c.ceSend b m)
  else if b.mode = 1 ∧ b.scaled ∧ bit m.flags fEMPTY ∧ (tget? m.chunk b.codes).isNone then
    if b.seen.contains (0, m.chunk) then none
    else
      let c := c.onBkt b.id (fun b => { b with seen := (0, m.chunk) :: b.seen.filter (· != (2, m.chunk)), held := { m with phase := 0 } :: b.held })
      some (c.withCeStage (c.ceStage.map (fun u => if u.id = b.id ∧ u.phase = 2 ∧ u.chunk = m.chunk then { u with phase := 0 } else u)))
  else
    let c := if b.mode = 2 ∧ bit m.flags fEMPTY ∧ (tget? m.chunk b.codes).isNone then
        c.onBkt b.id (fun b => { b with early := m.chunk :: b.early }) else c
    let (w, m) := if b.mode = 1 then reduceAdd n b pos m else (0, m)
    let c := if w = 0 then c else (c.onBkt b.id (fun b => { b with wide := b.wide + w })).count (CE_GRP_CNT_WIDE.COUNT b.g) w
    some (if m.chunk = pos then c.ceFinal b m else c.ceSend b m)

/-- The first chunk of a lap, which position POS sends (chunk POS − 1). -/
def Chan.ceBegin (c : Chan) (b : Bkt) : Option Chan :=
  let n := c.ceN b.g
  let pos := c.cePos b.g
  let k := cePrev n pos
  let mk (phase : Nat) (m : CeMsg) : Option Chan :=
    some ((c.onBkt b.id (fun b => { b with begun := phase :: b.begun })).ceSend b { m with phase := phase })
  let empty : CeMsg := { ceMsg0 with chunk := k, flags := 2 ^ fEMPTY }
  if b.op = 0x51 then
    if b.cmd.isSome ∧ ¬ b.begun.contains 3 then
      let r := chunkRange b.op b.count n pos
      let m : CeMsg := { ceMsg0 with chunk := pos, phase := 3, attend := 2 ^ pos, data := (b.contrib.take r.2).map (BitVec.ofNat 8) }
      some ((c.onBkt b.id (fun b => { b with begun := 3 :: b.begun, res := tput (fun _ => ceMsg0) b.res pos m })).ceSend b m)
    else none
  else if b.mode = 1 then
    if b.scaled then
      if !b.begun.contains 0 then mk 0 (agreeAdd n b pos empty)
      else if !b.begun.contains 2 && (tget? k b.codes).isSome then mk 2 (reduceAdd n b pos empty).2
      else none
    else if b.begun.contains 2 then none else mk 2 (reduceAdd n b pos empty).2
  else if b.mode = 2 then
    let sc := b.held.any (fun m => bit m.flags fSC || decide (m.phase ≤ 1)) || b.seen.any (fun s => decide (s.1 ≤ 1))
    if b.begun.isEmpty then mk (if sc then 0 else 2) empty
    else if sc ∧ ¬ (b.begun.contains 2 ∧ b.begun.contains 0) ∧ (tget? k b.codes).isSome then
      some ((c.onBkt b.id (fun b => { b with begun := [0, 2] })).ceSend b { empty with phase := 2 })
    else none
  else none

/-- A bucket goes on as far as it can; `fuel` bounds the actions. -/
def Chan.ceRun : Nat → Chan → Nat → Chan
  | 0, c, _ => c
  | fuel + 1, c, id =>
    match c.bkt? id with
    | none => c
    | some b =>
      if b.term ≠ c.ceTerm b.g ∨ ¬ c.ceEn b.g then c
      else
        match c.ceBegin b with
        | some c => Chan.ceRun fuel c id
        | none =>
          match (List.range b.held.length).findSome? (fun i =>
              match b.held[i]? with
              | some m => (c.onBkt id (fun b => { b with held := b.held.eraseIdx i })).ceAct { b with held := b.held.eraseIdx i } m
              | none => none) with
          | some c => Chan.ceRun fuel c id
          | none => c

/-! ### Completion (R307, R313, R314) -/

/-- Has everything of the bucket arrived and been acknowledged, and does its command run?  One that has failed must start again
first (R82). -/
def Chan.ceComplete (c : Chan) (b : Bkt) : Bool :=
  let n := c.ceN b.g
  let pos := c.cePos b.g
  let got (ph : Nat) : Bool := (b.seen.filter (fun s => s.1 == ph)).length == n - 1
  let got0 : Bool := ((List.range n).filter (fun k => b.seen.contains (0, k) || b.early.contains k)).length == n - 1
  -- nobody is present: every chunk is +0, and nothing was agreed, gathered or squared (R296, R302, R303)
  let nobody : Bool := match tget? pos b.res with | some m => m.attend == 0 | none => false
  b.cmd.any (c.isRunning qCE) && b.held.isEmpty && b.toSend.isEmpty && b.unacked.isEmpty && b.lost.isEmpty &&
  (if b.op = 0x51 then got 3
   else got 2 && (tget? pos b.res).isSome &&
    (nobody ||
      ((!b.scaled || (got0 && got 1 && b.early.all b.again.contains)) && (b.op != 0x52 || got 3) &&
        (b.op != 0x50 || !bit b.par 3 || got 4))))

/-- The result of chunk k as bytes of DST. -/
def Bkt.dstBytes (b : Bkt) (n k : Nat) : List Byte :=
  let m := tget (fun _ => ceMsg0) b.res k
  let r := chunkRange b.op b.count n k
  if b.op = 0x51 then padTo r.2 m.data else padTo (4 * r.2) (m.vals.flatMap (leBytes 4))

/-- The chunks that this member writes. -/
def Bkt.mine (b : Bkt) (n pos : Nat) : List Nat := if b.op = 0x50 then [pos] else List.range n

/-- The bucket record. -/
def Chan.ceRecord (c : Chan) (b : Bkt) : List Byte :=
  let n := c.ceN b.g
  let ms := (b.mine n (c.cePos b.g)).map (fun k => tget (fun _ => ceMsg0) b.res k)
  let att := ms.foldl (fun a m => a ||| m.attend) 0
  let wide := ms.foldl (fun a m =>
    if bit m.flags fSC then a + ((parseBlocks (m.data.length / 68 + 1) m.data).filter (·.wide)).length else a) 0
  let fl := 1 + b2n b.tardy * 2 + b2n (ms.any (fun m => bit m.flags fRESC)) * 4 + b2n b.scaled * 16
  leBytes 4 b.step ++ leBytes 2 b.term ++ leBytes 1 fl ++ leBytes 1 0 ++ leBytes 2 (popcount 256 att) ++ leBytes 2 wide ++
  leBytes 4 0 ++ leBytes 32 att ++ leBytes 16 0

/-- R310, R325: the bucket's one CE_WIDENED, with the blocks that this member widened. -/
def Chan.ceWidened (c : Chan) (b : Bkt) : Chan :=
  if b.wide = 0 then c
  else c.ev 0x06 0x92 0 (det [(16, 1, b.g), (17, 2, b.bkt), (19, 4, b.step), (23, 2, b.wide)])

/-- The carry slot of a bucket (R305). -/
def Chan.carryAt (c : Chan) (g bkt : Nat) : Nat := c.gf (CE_GRP_CARRY.ADDR g) * 64 + bkt * c.gf (CE_GRP_CARRY_STRIDE.STRIDE g)

/-- The bucket's norm pair is written where its command asks for it; true where the codeword is uncorrectable. -/
def Chan.ceNorm (c : Chan) (b : Bkt) (n : Nat) : Bool × Chan :=
  if bit b.par 3 then
    let pairs := if b.op = 0x52 then (List.range n).map (fun k => chunkPair (words32 (chunkRange b.op b.count n k).2 (b.dstBytes n k)))
      else (List.range n).map (fun k => tget (fun _ => (0, 0)) b.norms k)
    let (s, e) := foldPairs pairs
    let (bs, c) := c.ceBytes b (leBytes 4 s ++ leBytes 4 e)
    c.store (c.gf (CE_GRP_NORM.ADDR b.g) * 8 + 8 * b.bkt) bs
  else (false, c)

/-- DST, norm pair and record are written, and the command completes; a bucket that its members issued differently may stay
open for ever (R572). -/
def Chan.ceFinish (c : Chan) (b : Bkt) : Chan :=
  match b.cmd with
  | none => c
  | some seq =>
    let (f, c) := if b.odd then c.free else (0, c)
    if b.odd && Config.ceStuck f then c
    else
      let n := c.ceN b.g
      let pos := c.cePos b.g
      let es := if b.op = 0x51 then 1 else 4
      let (bad, c) := (b.mine n pos).foldl (fun acc k =>
        let at_ := if b.op = 0x50 then b.dst else b.dst + es * (chunkRange b.op b.count n k).1
        let (bs, c) := acc.2.ceBytes b (b.dstBytes n k)
        let (x, c) := c.store at_ bs
        (acc.1 || x, c)) (false, c)
      let (bad, c) := if bad then (bad, c) else c.ceNorm b n
      let (bad, c) := if bad || !b.carried then (bad, c) else c.store (c.carryAt b.g b.bkt + 8) [0]
      if bad then c.fail qCE seq haltMEM 0
      else
        let (bs, c) := c.ceBytes b (c.ceRecord b)
        let c := ((c.store (c.recAddr b.g b.bkt) bs).2).ceWidened b
        let c := if b.odd then c.gbUndefined b.g b.step else c
        let c := (((c.withBkts (c.bkts.filter (fun x => x.id != b.id))) : Chan).count (CE_GRP_CNT_BKT.COUNT b.g) 1).syncCe b.g
        c.complete qCE seq

/-- The bucket's command has failed and not started again. -/
def Chan.ceFell (c : Chan) (b : Bkt) : Bool :=
  match b.cmd.bind (c.queue qCE).cmd? with
  | some h => h.st == .failed
  | none => false

/-- Lost partials are sent again, once the CE queue is no longer halted and the bucket's command, where it has failed, has
started again (R82, R295, R316). -/
def Chan.ceResend (c : Chan) (id : Nat) : Chan :=
  match c.bkt? id with
  | none => c
  | some b =>
    if b.lost.isEmpty ∨ (c.queue qCE).st = .halted ∨ c.ceFell b then c
    else
      let ks := b.unacked.filter (fun u => b.lost.contains u.1)
      let c := c.onBkt id (fun b => { b with lost := [], unacked := b.unacked.filter (fun u => !b.lost.contains u.1) })
      let c := (c.withCePass (tput (fun _ => 0) c.cePass b.g (tget (fun _ => 0) c.cePass b.g + ks.length)))
      c.onBkt id (fun b => { b with toSend := ks ++ b.toSend })

/-! ### The staging area (R295) -/

/-- Passes for freed staging units go back to the member that filled them, at most 255 in a packet. -/
def Chan.cePassBack (c : Chan) (g src n : Nat) : Chan :=
  (List.range ((n + 254) / 255)).foldl (fun c i =>
    c.inject (c.ceVc g) { pkt0 with ptype := pPASS, src := c.node, dst := src, aux2 := g + min 255 (n - 255 * i) * 256 }) c

/-- A packet of a partial lands in the lowest free unit of the context's staging area. -/
def Chan.ceLand (c : Chan) (g id phase chunk src : Nat) (bs : List Byte) : Chan :=
  let used := (c.ceStage.filter (fun u => u.g == g)).map (·.unit)
  let u := ((List.range (used.length + 1)).find? (fun i => !used.contains i)).getD used.length
  let at_ := c.gf (CE_GRP_STAGE.ADDR g) * 64 + 4096 * u
  let c := c.withCeStage (c.ceStage ++ [{ g := g, unit := u, id := id, phase := phase, chunk := chunk, src := src }])
  if u < c.gf (CE_GRP_STAGE_SIZE.BYTES g) / 4096 ∧ inMem at_ 4096 then
    (c.store at_ (padTo (32 * ((bs.length + 31) / 32)) bs)).2
  else c

/-- Units that are no longer needed are freed, and their passes go back. -/
def Chan.ceFree (c : Chan) (p : CeUnit → Bool) : Chan :=
  let us := (c.ceStage.filter p).map (fun u => (u.g, u.src))
  let ends := us.foldl (fun l x => if l.contains x then l else l ++ [x]) []
  ends.foldl (fun c x => c.cePassBack x.1 x.2 (us.filter (· == x)).length) (c.withCeStage (c.ceStage.filter (fun u => !p u)))

/-- Is a unit still needed?  A partial stays in staging until it is acted on, and a result until the member's own command
has started (R297, R303, R304). -/
def Chan.ceNeeds (c : Chan) (u : CeUnit) : Bool :=
  match c.bkt? u.id with
  | none => false
  | some b =>
    (tget? (u.phase * 256 + u.chunk) b.asm).isSome || b.held.any (fun m => m.phase == u.phase && m.chunk == u.chunk) ||
    (b.cmd.isNone && (u.phase == 3 || (u.phase == 2 && u.chunk == c.cePos b.g)))

/-- The bucket is taken as far as it goes: partials, sends, completion, and the staging that this frees. -/
def Chan.ceAdvance (c : Chan) (id : Nat) : Chan :=
  let c := (c.ceResend id)
  let c := Chan.ceRun 4096 c id
  let c := match c.bkt? id with | some b => c.ceSendOne id b.toSend.length | none => c
  let c :=
    match c.bkt? id with
    | none => c
    | some b => if c.ceComplete b then c.ceFinish b else c
  c.ceFree (fun u => u.id == id && !c.ceNeeds u)

/-- Once the CE queue is no longer halted, lost partials of every bucket go out again, whether or not the member has a
command for it (R295). -/
def Chan.ceSettle (c : Chan) : Chan :=
  if (c.queue qCE).st = .halted then c
  else ((c.bkts.filter (fun b => !b.lost.isEmpty)).map (·.id)).foldl Chan.ceAdvance c

/-- Every open bucket of a context. -/
def Chan.ceAdvanceAll (c : Chan) (g : Nat) : Chan :=
  ((c.bkts.filter (fun b => b.g == g)).map (·.id)).foldl (fun c id => c.ceAdvance id) c

/-! ### Commands (R292 to R294, R301, R304, R305) -/

def ceGROUP (raw : List Byte) : Nat := fieldOf raw 24 25
def ceTERM (raw : List Byte) : Nat := fieldOf raw 26 27
def ceSTEP (raw : List Byte) : Nat := fieldOf raw 28 31
def ceBUCKET (raw : List Byte) : Nat := fieldOf raw 32 33
def cePAR (raw : List Byte) : Nat := fieldOf raw 35 35
def ceCOUNT (raw : List Byte) : Nat := fieldOf raw 36 39

/-- Bytes that SRC and DST name (R293). -/
def Chan.ceExtent (c : Chan) (raw : List Byte) (dst : Bool) : Nat :=
  match c.ceCtx (ceGROUP raw) with
  | g :: _ =>
    let op := opcodeOf raw
    let r := chunkRange op (ceCOUNT raw) (c.ceN g) (c.cePos g)
    if op = 0x52 then 4 * ceCOUNT raw
    else if op = 0x50 then (if dst then 4 * r.2 else 4 * ceCOUNT raw)
    else if dst then ceCOUNT raw else r.2
  | [] => 0

def specCe : CmdSpec where
  fields c _ seg raw :=
    let op := opcodeOf raw
    let par := cePAR raw
    let gs := c.ceCtx (ceGROUP raw)
    let g := gs.headD 0
    opdField seg raw 40 true (c.ceExtent raw false) ++ opdField seg raw 48 false 0 ++ zeroField raw 56 63 ++
    mustBe 24 (gs.length = 1) ++ mustBe 32 (ceBUCKET raw ≤ 4095) ++
    (if gs.length = 1 then
      mustBe 34 (fieldOf raw 34 34 = c.gf (CE_GRP_CFG.AXIS g)) ++
      mustBe 35 (par < 16 && (op != 0x51 || par == 0) &&
        (!bit par 3 || c.gf (CE_GRP_NORM.ADDR g) != 0 || c.ceIv2 g) &&
        (op == 0x51 || bit par 1 || c.gf (CE_GRP_CARRY.ADDR g) != 0))
     else mustBe 35 (par < 16)) ++
    mustBe 36 (ceCOUNT raw != 0 && ceCOUNT raw % (if op = 0x51 then 128 else 32) == 0)
  addrs c _ seg raw := localAddr seg raw 40 true (c.ceExtent raw false) 32 ++ localAddr seg raw 48 false (c.ceExtent raw true) 32
  rows c q seg raw :=
    basedRow seg raw [40, 48] ++ (if c.inRegion q then [4] else []) ++
    (match c.ceCtx (ceGROUP raw) with
     | g :: _ => if c.ceIv2 g ∧ (bit (cePAR raw) 0 ∨ bit (cePAR raw) 2 ∨ bit (cePAR raw) 3) then [8] else []
     | [] => [])
  credit c _ _ raw :=
    match c.ceCtx (ceGROUP raw) with
    | g :: _ => !later 16 (ceTERM raw) (c.ceTerm g)
    | [] => true

/-- An attendance bell (R301). -/
def Chan.ceBell (c : Chan) (b : Bkt) : Chan :=
  c.injectBell (bell 6 c.node (c.gf (CE_GRP_NEXT.NODE b.g))
    (leBytes 2 (c.gf (CE_GRP_CFG.GID b.g)) ++ leBytes 2 b.term ++ leBytes 4 b.step ++ leBytes 2 b.bkt))

def Chan.ceTimer (c : Chan) (id : Nat) : Chan :=
  c.onBkt id (fun b => if b.timer.isNone then { b with timer := some c.now } else b)

/-- R305: a present command takes a valid carry slot into its contribution, and says whether the slot is to be cleared: none
where a codeword of the slot is uncorrectable. -/
def Chan.ceCarryIn (c : Chan) (b : Bkt) (xs : List Nat) : Option (List Nat × Bool) × Chan :=
  let a := c.carryAt b.g b.bkt
  if c.gf (CE_GRP_CARRY.ADDR b.g) = 0 then (some (xs, false), c)
  else
    match c.load a 12 with
    | (none, c) => (none, c)
    | (some hd, c) =>
      if ¬ bit (leAt hd 8 1) 0 ∨ leAt hd 10 2 ≠ c.ceTerm b.g then (some (xs, false), c)
      else if leAt hd 4 4 ≠ b.count then
        (some (xs, true), (c.sf (CE_GRP_STAT.CARRY_LOST b.g) 1).ev 0x06 0x95 2 (det [(16, 1, b.g), (17, 2, b.bkt)]))
      else
        match c.load (a + 64) (4 * b.count) with
        | (some bs, c) => (some (xs.zip (words32 b.count bs) |>.map (fun e => add32 e.1 e.2), true), c)
        | (none, c) => (none, c)

/-- R304, R305: a tardy contribution is folded into the carry slot; true where a codeword of the slot is uncorrectable. -/
def Chan.ceCarryOut (c : Chan) (b : Bkt) (xs : List Nat) : Bool × Chan :=
  let a := c.carryAt b.g b.bkt
  match c.load a 12 with
  | (none, c) => (true, c)
  | (some hd, c) =>
    if bit (leAt hd 8 1) 0 && leAt hd 10 2 == c.ceTerm b.g && leAt hd 4 4 == b.count then
      match c.load (a + 64) (4 * b.count) with
      | (some bs, c) => c.store (a + 64) (((words32 b.count bs).zip xs).flatMap (fun e => leBytes 4 (add32 e.1 e.2)))
      | (none, c) => (true, c)
    else
      let hdr := leBytes 4 b.step ++ leBytes 4 b.count ++ leBytes 1 1 ++ leBytes 1 0 ++ leBytes 2 b.term ++ leBytes 52 0
      c.store a (hdr ++ xs.flatMap (leBytes 4))

/-- A command takes its place in its bucket and sends the attendance bell, unless one was received already (R301). -/
def Chan.ceJoin (c : Chan) (seq : Nat) (h : Started) (op g : Nat) (b : Bkt) (dst : Nat) : Chan :=
  let c := c.ceTimer b.id
  let c := c.onBkt b.id (fun b => { b with
    cmd := some seq, op := op, par := cePAR h.raw, count := ceCOUNT h.raw, src := 0, dst := dst })
  let (f, c) := c.free
  let c := c.onBkt b.id (fun b => { b with odd := !b.fitsAll (c.ceN g) || Config.ceIssuedApart f })
  if op ≠ 0x51 ∧ ¬ b.bell then c.ceBell b else c

/-- The first start of a bucket's command. -/
def Chan.ceFirst (c : Chan) (q seq : Nat) (h : Started) (op g id : Nat) : Chan :=
  let raw := h.raw
  let seg := c.segOf q
  let n := if op = 0x51 then c.ceExtent raw false else 4 * ceCOUNT raw
  match c.fetchOpd seg raw 40 n with
  | (none, c) => c.fail q seq haltMEM 0
  | (some bs, c) =>
    let xs := if op = 0x51 then bs.map BitVec.toNat else words32 (ceCOUNT raw) bs
    match c.bkt? id with
    | none => c
    | some b =>
      let par := cePAR raw
      let b := { b with count := ceCOUNT raw }
      let dst := opdPlace seg raw 48
      if b.mode = 2 then
        match (if bit par 1 then (false, c) else c.ceCarryOut b xs) with
        | (true, c) => c.fail q seq haltMEM 0
        | (false, c) =>
          let c := c.ceJoin seq h op g b dst
          let c := ((c.count (CE_GRP_CNT_TARDY.COUNT g) 1).sf (CE_GRP_STAT.TARDY g) 1).ev 0x06 0x90 1
            (det [(16, 1, g), (17, 2, b.bkt), (19, 4, b.step), (23, 1, b2n (bit par 1))])
          (c.onBkt id (fun b => { b with tardy := true })).ceAdvance id
      else
        match (if op = 0x51 then (some (xs, false), c) else c.ceCarryIn b xs) with
        | (none, c) => c.fail q seq haltMEM 0
        | (some (xs, carried), c) =>
          let c := c.ceJoin seq h op g b dst
          (c.onBkt id (fun b => { b with mode := 1, contrib := xs, carried := carried })).ceAdvance id

/-- A CE command starts. -/
def Chan.ceStart (c : Chan) (q seq : Nat) : Chan :=
  match (c.queue q).cmd? seq with
  | none => c
  | some h =>
    let raw := h.raw
    let op := opcodeOf raw
    let g := (c.ceCtx (ceGROUP raw)).headD 0
    let term := ceTERM raw
    let step := ceSTEP raw
    let c := if h.redone then c.gbResumed g term step else c
    if term ≠ c.ceTerm g then (c.ceStale g 0 term step).complete q seq
    else
      match c.findBkt g term step (ceBUCKET raw) with
      | some b =>
        -- a resumed command goes on where it was (R295)
        if b.cmd = some seq then c.ceAdvance b.id
        else c.ceFirst q seq h op g b.id
      | none =>
        match c.ceOver g term step (ceBUCKET raw) with
        | (none, c) => c.fail q seq haltMEM 0
        | (some true, c) => (c.ceStale g 2 term step).complete q seq
        | (some false, c) =>
          let (id, c) := c.openBkt g term step (ceBUCKET raw)
          c.ceFirst q seq h op g id


def specCeCmd : CmdSpec := { specCe with start := fun c q seq => c.ceStart q seq }

/-! ### Arrivals -/

/-- A bucket with news of it: its deadline timer starts. -/
def Chan.ceHears (c : Chan) (g term step bkt : Nat) : Nat × Chan :=
  let (id, c) := c.openBkt g term step bkt
  (id, c.ceTimer id)

/-- A packet of a partial arrives (R294, R295).  The packets of a partial may come in any order, one that was lost after those
behind it; one that comes twice is discarded.  Its acceptance is final; an EMPTY header that comes a second time for a
chunk whose first an absent member passed on before it knew the agreed codes is no copy (R303). -/
def Chan.homePartial (c : Chan) (k : Pkt) : Chan :=
  let e := c.homeErr
  let gid := leAt k.data 0 2
  let term := leAt k.data 2 2
  let step := leAt k.data 4 4
  let bkt := leAt k.data 8 2
  let chunk := leAt k.data 10 1
  let phase := leAt k.data 11 1
  if e ≠ 0 then c.respond k pERROR_RESP e []
  else
    match c.ceCtx gid with
    | [] => c.respond k pERROR_RESP 8 []
    | g :: _ =>
      let c := c.respond k pWRITE_ACK 0 []
      if later 16 (c.ceTerm g) term then
        (if bits k.aux2 32 32 = 0 then c.ceStale g 1 term step else c).cePassBack g k.src 1
      else
        let (done, c) := c.ceOver g term step bkt
        if done = some true then c.cePassBack g k.src 1
        else
          let (id, c) := c.ceHears g term step bkt
          match c.bkt? id with
          | none => c
          | some b =>
            let second := phase == 2 && b.early.contains chunk && !b.again.contains chunk && (tget? chunk b.codes).isSome
            let key := phase * 256 + chunk
            let off := bits k.aux2 32 32
            let came := tget (fun _ => []) b.asm key
            if (b.seen.contains (phase, chunk) ∧ !second) ∨ (tget? off came).isSome then c.cePassBack g k.src 1
            else
              let c := c.ceLand g id phase chunk k.src k.data
              let total := bits k.aux2 0 32
              let came := tins off (k.data.drop 64) came
              let buf := came.flatMap (·.2)
              if buf.length < total then c.onBkt id (fun b => { b with asm := tput (fun _ => []) b.asm key came })
              else
                let m : CeMsg := { chunk := chunk, phase := phase, flags := leAt k.data 12 1, attend := leAt k.data 16 32, data := buf }
                let c := c.gbRecord g term step false (k.data.take 64 ++ buf)
                let c := c.onBkt id (fun b => { b with
                  asm := terase key b.asm, seen := (phase, chunk) :: b.seen.filter (· != (phase, chunk)), held := b.held ++ [m]
                  again := if second then chunk :: b.again else b.again
                  odd := b.odd || (b.cmd.isSome && !b.fits (c.ceN g) m) })
                c.ceAdvance id

/-- A pass for a context (R295). -/
def Chan.cePassIn (c : Chan) (k : Pkt) : Chan :=
  let g := bits k.aux2 0 3
  ((c.withCePass (tput (fun _ => 0) c.cePass g (tget (fun _ => 0) c.cePass g + bits k.aux2 8 8))) : Chan).ceAdvanceAll g

/-- An attendance bell arrives (R301). -/
def Chan.homeAttendance (c : Chan) (k : Pkt) : Chan :=
  match c.ceCtx (leAt k.data 0 2) with
  | [] => c
  | g :: _ =>
    let term := leAt k.data 2 2
    let step := leAt k.data 4 4
    let bkt := leAt k.data 8 2
    if later 16 (c.ceTerm g) term then c
    else
      let (done, c) := c.ceOver g term step bkt
      if done = some true then c
      else
        let (id, c) := c.ceHears g term step bkt
        match c.bkt? id with
        | none => c
        | some b => if b.bell then c else (c.onBkt id (fun b => { b with bell := true })).ceBell b

/-- A partial of a gather phase has come, or a part of one: an undecided member has then a CE_AG bucket, since the folds of a
CE_AR wait for it. -/
def Bkt.gathers (b : Bkt) : Bool :=
  b.held.any (fun m => m.phase == 3) || b.seen.any (fun s => s.1 == 3) || b.asm.any (fun e => e.1 / 256 == 3)

/-- A member's deadline expires before its command starts (R302, R303).  A CE_AG has no deadline. -/
def Chan.deadlineExpiry (c : Chan) (g bkt : Nat) : Chan :=
  let lim := c.gf (CE_GRP_DEADLINE.DEADLINE_US g)
  match c.bkts.find? (fun b => b.g == g && b.bkt == bkt && b.mode == 0 && b.term == c.ceTerm g) with
  | none => c
  | some b =>
    match b.timer with
    | some t =>
      if lim = 0 ∨ c.now < t + lim * tUs ∨ (b.gathers ∧ ¬ b.seen.any (fun s => s.1 ≤ 2)) then c
      else (c.onBkt b.id (fun b => { b with mode := 2 })).ceAdvance b.id
    | none => c

/-- Acknowledgement of a packet of a bucket. -/
def Chan.ceAcked (c : Chan) (id i : Nat) : Chan :=
  (c.onBkt id (fun b => { b with unacked := b.unacked.filter (fun u => u.1 != i) })).ceAdvance id

/-- A packet of a bucket fails: the CE queue halts, whether the bucket's command runs, has failed before or is no longer there
(R316). -/
def Chan.ceFailed (c : Chan) (id i code : Nat) : Chan :=
  match c.bkt? id with
  | none => c
  | some b =>
    let c := c.onBkt id (fun b => { b with lost := b.lost ++ [i] })
    match b.cmd.filter (c.isRunning qCE) with
    | some seq => c.fail qCE seq code 0
    | none => if (c.queue qCE).st = .halted then c else c.haltQuiet qCE code

/-! ### Abandoning and configuration (R290, R315) -/

/-- Open buckets of a context that satisfy a condition are closed with ABANDONED records; how many. -/
def Chan.ceClose (c : Chan) (g : Nat) (p : Bkt → Bool) : Nat × Chan :=
  let bs := c.bkts.filter (fun b => b.g == g && p b)
  let c := (c.withBkts (c.bkts.filter (fun b => !(b.g == g && p b))))
  let c := bs.foldl (fun c b =>
    let c := ((c.store (c.recAddr g b.bkt) (leBytes 4 b.step ++ leBytes 2 b.term ++ leBytes 1 8 ++ leBytes 57 0)).2).ceWidened b
    match b.cmd with
    | some seq => c.complete qCE seq
    | none => c) c
  (bs.length, (c.ceFree (fun u => u.g == g && !c.ceNeeds u)).syncCe g)

def Chan.ceAbandonEv (c : Chan) (g n : Nat) : Chan := c.ev 0x06 0x93 2 (det [(16, 1, g), (17, 2, n)])

/-- CE_GRPg_CTL.ABANDON. -/
def Chan.ceAbandon (c : Chan) (g : Nat) : Chan :=
  let (n, c) := c.ceClose g (fun b => b.term != c.ceTerm g)
  c.ceAbandonEv g n

/-- A write of CE_GRPg_TERM. -/
def Chan.ceTermWrite (c : Chan) (g v : Nat) : Chan := (c.sf (CE_GRP_TERM.TERM g) v).ceAdvanceAll g

def Chan.ceRefused (c : Chan) (g reason : Nat) : Chan := c.ev 0x06 0x94 2 (det [(16, 1, g), (17, 1, reason)])

/-- Table 11-1, for a context whose new configuration stands in its registers with EN = 0. -/
def Chan.ceCheck (c : Chan) (g : Nat) : Option Nat :=
  let n := c.ceN g
  let ax := c.gf (CE_GRP_CFG.AXIS g)
  let st := c.gf (CE_GRP_STAGE.ADDR g) * 64
  let sz := c.gf (CE_GRP_STAGE_SIZE.BYTES g)
  let ca := c.gf (CE_GRP_CARRY.ADDR g) * 64
  let re := c.gf (CE_GRP_REC.ADDR g) * 64
  let no := c.gf (CE_GRP_NORM.ADDR g) * 8
  if n < 2 ∨ (ax = 2 ∧ 4 < n) ∨ n ≤ c.cePos g then some 0
  else if (List.range 8).any (fun j => j != g && c.ceEn j && c.gf (CE_GRP_CFG.AXIS j) == ax && c.gf (CE_GRP_CFG.VCP j) == c.gf (CE_GRP_CFG.VCP g)) then some 1
  else if st = 0 ∨ re = 0 ∨ ¬ inMem st 1 ∨ ¬ inMem re 1 ∨ (ca ≠ 0 ∧ ¬ inMem ca 1) ∨ (no ≠ 0 ∧ ¬ inMem no 1) ∨ sz < 65536 ∨ sz % 4096 ≠ 0 then some 2
  else none

/-- A write of CE_GRPg_CFG (R290). -/
def Chan.ceCfgWrite (c : Chan) (g v : Nat) : Chan :=
  let off := CE_GRP_CFG.off g
  if c.ceEn g then
    if bit v 0 then c.ceRefused g 3
    else
      let (n, c) := c.ceClose g (fun _ => true)
      let c := c.wrFields off v
      let c := (c.withCePass (terase g c.cePass))
      if n = 0 then c else c.ceAbandonEv g n
  else
    let c := c.wrFields off (v - v % 2)
    if !bit v 0 then c
    else
      match c.ceCheck g with
      | some r => c.ceRefused g r
      | none =>
        let c := c.sf (CE_GRP_CFG.EN g) 1
        (c.withCePass (tput (fun _ => 0) c.cePass g (c.gf (CE_GRP_STAGE_SIZE.BYTES g) / 4096)))

/-- A write of another configuration register of a context. -/
def Chan.ceConfWrite (c : Chan) (g off v : Nat) : Chan := if c.ceEn g then c.ceRefused g 3 else c.wrFields off v

end Sys2Proof.Machine
end

