-- ==== Sys2Proof/Machine/Chart.lean ====
section
/-!
DEFINITION. Seating charts and term switches (R326 to R345).
-/
namespace Sys2Proof.Machine

/-! ### Sections delivered to the channel (R512, R518) -/

def secPOSITION : Nat := 0x0001
def secFABRIC : Nat := 0x0002
def secENVIRONMENT : Nat := 0x0003
def secCHART : Nat := 0x0004
def secPOWER : Nat := 0x0005
def secPOLICY : Nat := 0x0006
def secBOOTSTRAP : Nat := 0x0007
def secPROGRAM : Nat := 0x0008
def secFWSVC : Nat := 0x0010
def secFWHPD : Nat := 0x0011

/-- The sections of a type in the boot store. -/
def Chan.sectionsOf (c : Chan) (ty : Nat) : List (List Byte) :=
  (c.sections.filter (fun e => e.2.1 == ty)).map (fun e => e.2.2)

/-- The first section of a type; empty where there is none. -/
def Chan.section1 (c : Chan) (ty : Nat) : List Byte := (c.sectionsOf ty).headD []

/-! ### FABRIC (R514) -/

def Chan.fabric (c : Chan) : List Byte := c.section1 secFABRIC
def fabLeader (f : List Byte) : Nat := leAt f 8 3
def fabAlternate (f : List Byte) : Nat := leAt f 11 3
def fabDeclared (f : List Byte) : Nat := leAt f 16 4

/-- Is the X ring, or the Y ring, through a node declared cabled? -/
def xCabled (f : List Byte) (node : Nat) : Bool := bit (leAt f 64 64) (4 * nodeY node + nodeZ node)
def yCabled (f : List Byte) (node : Nat) : Bool := bit (leAt f 128 256) (4 * nodeX node + nodeZ node)

/-- The Ivell version that the plan records for a link, by its minus end and axis. -/
def fabVer (f : List Byte) (node axis : Nat) : Nat :=
  let n := leAt f 14 2
  match (List.range n).find? (fun j => leAt f (384 + 8 * j) 3 == node && leAt f (387 + 8 * j) 1 == axis) with
  | some j => leAt f (388 + 8 * j) 1
  | none => leAt f 3 1

/-! ### Chart images (R328, R329) -/

def chJOB (m : List Byte) : Nat := leAt m 0 2
def chTERM (m : List Byte) : Nat := leAt m 2 2
def chGEN (m : List Byte) : Nat := leAt m 4 2
def chPX (m : List Byte) : Nat := leAt m 6 1 + 1
def chDY (m : List Byte) : Nat := leAt m 7 1 + 1
def chSeats (px dy : Nat) : Nat := px * dy * 4
/-- Entry `i` of an image; 0 beyond the job. -/
def chEnt (m : List Byte) (i : Nat) : Nat := if i < chSeats (chPX m) (chDY m) then leAt m (16 + 4 * i) 4 else 0
def chNode (m : List Byte) (i : Nat) : Nat := bits (chEnt m i) 0 18

def dupFree : List Nat → Bool
  | [] => true
  | a :: r => !r.contains a && dupFree r

/-- Do the coordinates lie within the rings, and are the rings cabled (R328, clause 4)? -/
def nodeCabled (f : List Byte) (node : Nat) : Bool :=
  nodeX node ≤ leAt f 0 2 && nodeY node ≤ leAt f 2 1 && xCabled f node && yCabled f node

/-- The checks of R328 that one channel makes. -/
def chartOk (f m : List Byte) : Bool :=
  let n := chSeats (chPX m) (chDY m)
  m.length == 16 + 4 * n && leAt m 7 1 ≤ 63 && leAt m 8 8 == 0 &&
  (List.range n).all (fun i =>
    let e := chEnt m i
    bit e 31 && bits e 18 12 == 0 && nodeZ (bits e 0 18) == i % 4 && nodeCabled f (bits e 0 18)) &&
  dupFree ((List.range n).map (chNode m))

/-- The seat index that a node holds in an image. -/
def chSeatOf (m : List Byte) (node : Nat) : Option Nat :=
  if m.isEmpty then none
  else (List.range (chSeats (chPX m) (chDY m))).find? (fun i => chNode m i == node)

/-- The seat index of ⟨x, y, z⟩ (R329) and the coordinates of an index. -/
def seatIdx (dy x y z : Nat) : Nat := (x * dy + y) * 4 + z
def seatX (dy i : Nat) : Nat := i / 4 / dy
def seatY (dy i : Nat) : Nat := i / 4 % dy
def seatZ (i : Nat) : Nat := i % 4

/-- An image is installed: the channel's copy and CH_SEAT (R331, R342). -/
def Chan.install (c : Chan) (m : List Byte) : Chan :=
  let c := (c.withChart m)
  let c := (c.sf CH_SEAT.JOB (chJOB m)).sf CH_SEAT.GEN (chGEN m)
  match chSeatOf m c.node with
  | some i =>
    ((((c.sf CH_SEAT.SX (seatX (chDY m) i)).sf CH_SEAT.SY (seatY (chDY m) i)).sf CH_SEAT.SZ (seatZ i)).sf CH_SEAT.SEATED 1).sf
      CH_SEAT.SUB (bits (chEnt m i) 30 1)
  | none => ((((c.sf CH_SEAT.SX 0).sf CH_SEAT.SY 0).sf CH_SEAT.SZ 0).sf CH_SEAT.SEATED 0).sf CH_SEAT.SUB 0

/-- CH_CHART_ENT as it reads (R344). -/
def Chan.chartEnt (c : Chan) : Nat := chEnt c.chart (c.gf CH_CHART_IDX.INDEX) + chTERM c.chart * 2 ^ 32

/-- The image at CH_CHART_SRC; none where it does not lie in memory or cannot be read. -/
def Chan.chartAt (c : Chan) : Option (List Byte) × Chan :=
  let a := c.gf CH_CHART_SRC.ADDR * 64
  if !inMem a 16 then (none, c)
  else
    match c.load a 16 with
    | (none, c) => (none, c)
    | (some h, c) =>
      let n := 16 + 4 * chSeats (chPX h) (chDY h)
      if leAt h 7 1 > 63 ∨ !inMem a n then (none, c) else c.load a n

/-! ### Term switches (R337 to R341) -/

def Chan.termIgnored (c : Chan) (new reason : Nat) : Chan :=
  (c.sf CH_TERM.REASON reason).ev 0x0C 0xA1 2 (det [(16, 2, new), (18, 1, reason)])

/-- Contexts of a mask. -/
def groupsOf (m : Nat) : List Nat := (List.range 8).filter (fun g => bit m g)

/-- The writes of R337: they take precedence over register writes of the same cycle. -/
def Chan.termWrites (c : Chan) (new groups : Nat) : Chan :=
  let c := (groupsOf groups).foldl (fun c g => (c.ceTermWrite g new).claimReg (CE_GRP_TERM.off g)) c
  let c := (List.range 8).foldl (fun c s =>
    if c.ssState s = 1 ∨ c.ssState s = 2 ∨ c.ssState s = 3 then (c.sf (SS_TERM.TERM s) new).claimReg (SS_TERM.off s) else c) c
  ((c.sf UU_TERM.TERM new).claimReg UU_TERM.off).sf CH_TERM.CUR new

/-- Phases 3 and 4 of Table 12-4; `late` when the drain timed out. -/
def Chan.termSwitch (c : Chan) (w : TermSw) (late : Bool) : Chan :=
  let old := c.gf CH_TERM.CUR
  let open_ := if late then (groupsOf w.groups).filter (fun g => c.gf (CE_GRP_STAT.OPEN g) != 0) else []
  let c := c.termWrites w.new w.groups
  let c := open_.foldl Chan.ceAbandon c
  let ab := b2n !open_.isEmpty
  let c := c.sf CH_TERM.ABANDONED ab
  let c := match w.image with | some m => c.install m | none => c
  let c := ((c.sf CH_TERM.STATE 0).withTermSw none)
  let c := match w.tok with | some i => c.signal i 1 | none => c
  c.ev 0x0C 0xA0 (if ab = 1 then 2 else 0)
    (det [(16, 2, old), (18, 2, w.new), (20, 1, ab), (21, 1, open_.foldl (fun m g => m + 2 ^ g) 0), (22, 1, b2n w.image.isSome)])

/-- A switch whose checks have passed enters its drain, or goes through at once: an adopting one, and one without a drain
limit. -/
def Chan.termBegin (c : Chan) (w : TermSw) (adopt : Bool) : Chan :=
  let c := c.sf CH_TERM.NEXT w.new
  if adopt then c.termSwitch { w with groups := 0 } false
  else if c.gf CH_TERM_TIMEOUT.TIMEOUT_US = 0 then c.termSwitch w true
  else ((c.sf CH_TERM.STATE 1).withTermSw (some w))

/-- A write of CH_TERM_CTL (R338). -/
def Chan.termCtl (c : Chan) (v : Nat) : Chan :=
  let new := bits v 0 16
  let groups := bits v 16 8
  let chart := bit v 25
  let tok := if bit v 26 then some (bits v 32 8) else none
  if !bit v 24 then c
  else if bit v 27 then
    if c.flag CH_SEAT.SEATED then c.termIgnored new 5
    else if c.gf CH_TERM.STATE ≠ 0 then c.termIgnored new 2
    else if !chart then c.termIgnored new 4
    else
      match c.chartAt with
      | (some m, c) =>
        if chartOk c.fabric m && chTERM m == new then
          c.termBegin { new := new, groups := 0, image := some m, tok := tok, began := c.now } true
        else c.termIgnored new 4
      | (none, c) => c.termIgnored new 4
  else if !later 16 new (c.gf CH_TERM.CUR) then c.termIgnored new 1
  else if c.gf CH_TERM.STATE ≠ 0 then c.termIgnored new 2
  else if !(groupsOf groups).all c.ceEn then c.termIgnored new 3
  else if chart then
    match c.chartAt with
    | (some m, c) =>
      if chartOk c.fabric m && chTERM m == new && !c.chart.isEmpty && chJOB m == chJOB c.chart then
        c.termBegin { new := new, groups := groups, image := some m, tok := tok, began := c.now } false
      else c.termIgnored new 4
    | (none, c) => c.termIgnored new 4
  else c.termBegin { new := new, groups := groups, image := none, tok := tok, began := c.now } false

/-- TERM_DRAIN_END: every selected context has OPEN = 0. -/
def Chan.termDrainEnd (c : Chan) : Chan :=
  match c.termSw with
  | none => c
  | some w => if (groupsOf w.groups).all (fun g => c.gf (CE_GRP_STAT.OPEN g) == 0) then c.termSwitch w false else c

/-- TERM_DRAIN_TIMEOUT. -/
def Chan.termDrainTimeout (c : Chan) : Chan :=
  match c.termSw with
  | none => c
  | some w =>
    if c.now < w.began + c.gf CH_TERM_TIMEOUT.TIMEOUT_US * tUs then c else c.termSwitch w true

/-- A fence abandons a switch (R341). -/
def Chan.termFence (c : Chan) : Chan := ((c.sf CH_TERM.STATE 0).withTermSw none)

end Sys2Proof.Machine
end

