-- ==== Sys2Proof/Machine/Timetable.lean ====
section
/-!
DEFINITION. The timetable and activation off-load (R244 to R252).
-/
namespace Sys2Proof.Machine

/-- The descriptor in ring place `idx` of a queue. -/
def Chan.descAt (c : Chan) (s : Nat) (bwd : Bool) (idx : Nat) : List Byte := c.peek ((c.qRing s bwd).1 + 64 * idx) 64

/-- The timetable reads the head of a queue through the symbol code (R37, R38): true when a codeword of it is
uncorrectable. -/
def Chan.headBad (c : Chan) (s : Nat) (bwd : Bool) : Bool × Chan :=
  match (c.slot s).headEnt bwd with
  | none => (false, c)
  | some e => c.access 0 ((c.qRing s bwd).1 + 64 * e.idx) 64

/-- Fields of a descriptor (Table 9-4). -/
def dMB (d : List Byte) : Nat := leAt d 0 4
def dSTEP (d : List Byte) : Nat := leAt d 4 4
def dTERM (d : List Byte) : Nat := leAt d 8 2
def dVST (d : List Byte) : Nat := leAt d 10 1
def dLAST (d : List Byte) : Bool := leAt d 11 1 % 2 == 1

/-- R235: a malformed descriptor. -/
def Chan.malformed (c : Chan) (s : Nat) (d : List Byte) : Bool :=
  decide (1 < leAt d 11 1) || leAt d 16 8 != 0 || decide (c.gf (SS_CFG.VSTAGES s) < dVST d)

def Slot.rec? (x : Slot) (mb v : Nat) : Option Rec := x.recs.find? (fun r => r.mb == mb && r.vst == v)

/-- The timetable serves a slot that is ACTIVE and not STOPPING. -/
def Chan.serves (c : Chan) (s : Nat) : Bool :=
  decide (s < 8) && c.ssState s == ssACTIVE && !c.flag (SS_STAT.STOPPING s)

/-- R247: the head of a queue is of an older term. -/
def Chan.staleHead (c : Chan) (s : Nat) (bwd : Bool) : Option (DescEnt × List Byte) :=
  match (c.slot s).headEnt bwd with
  | none => none
  | some e =>
    let d := c.descAt s bwd e.idx
    if later 16 (c.gf (SS_TERM.TERM s)) (dTERM d) then some (e, d) else none

/-- STALE_DISCARD. -/
def Chan.staleDiscard (c : Chan) (s : Nat) (bwd : Bool) : Chan :=
  let (bad, c) := if c.serves s then c.headBad s bwd else (true, c)
  if bad then c
  else
    match c.staleHead s bwd with
    | none => c
    | some (e, d) =>
      let c := (c.count (SS_CNT_STALE.COUNT s) 1).ev 0x07 0x62 1
        (det [(16, 1, s), (17, 1, b2n bwd), (18, 4, dMB d), (22, 2, dTERM d)])
      let c := if bwd then
          match (c.slot s).rec? (dMB d) (bits (dVST d) 0 2) with
          | some r => c.freeRec s r.pos
          | none => c
        else c
      let c := c.release s bwd e.idx
      let c := if c.flag (SS_STAT.FAULT s) ∧ c.gf (SS_STAT.FAULT_Q s) = b2n bwd then
          (c.sf (SS_STAT.FAULT s) 0).sf (SS_STAT.FAULT_CODE s) 0 else c
      c.syncSlot s

/-- R248: what is wrong with a head of the current term: 0 nothing, 1 no record, 2 malformed, 3 duplicate. -/
def Chan.headFault (c : Chan) (s : Nat) (bwd : Bool) (d : List Byte) : Nat :=
  let r := (c.slot s).rec? (dMB d) (bits (dVST d) 0 2)
  if c.malformed s d then 2
  else if bwd then
    match r with
    | none => 1
    | some r => if r.bwd then 3 else 0
  else if r.isSome then 3 else 0

/-- The head of a queue with a TERM equal to the slot's (R245, condition 1). -/
def Chan.current (c : Chan) (s : Nat) (bwd : Bool) : Option (DescEnt × List Byte) :=
  match (c.slot s).headEnt bwd with
  | none => none
  | some e =>
    let d := c.descAt s bwd e.idx
    if dTERM d = c.gf (SS_TERM.TERM s) then some (e, d) else none

/-- DESC_FAULT. -/
def Chan.descFault (c : Chan) (s : Nat) (bwd : Bool) : Chan :=
  let (bad, c) := if c.serves s && !c.flag (SS_STAT.FAULT s) then c.headBad s bwd else (true, c)
  if bad then c
  else
    match c.current s bwd with
    | none => c
    | some (_, d) =>
      let f := c.headFault s bwd d
      if f = 0 then c
      else
        let c := ((c.sf (SS_STAT.FAULT s) 1).sf (SS_STAT.FAULT_CODE s) f).sf (SS_STAT.FAULT_Q s) (b2n bwd)
        c.ev 0x07 0x63 2 (det [(16, 1, s), (17, 1, f), (18, 1, b2n bwd), (19, 4, dMB d), (23, 1, dVST d)])

/-! ### Resources -/

/-- The lowest staging buffer that neither a record nor a copy holds. -/
def Chan.freeStage (c : Chan) (s : Nat) : Option Nat :=
  let x := c.slot s
  (List.range (c.gf (SS_CFG.NSTAGE s))).find? (fun k => !x.recs.any (fun r => r.stage == k + 1) && !x.copies.any (fun p => p.buf == k))

def Chan.freeStash (c : Chan) (s : Nat) : Option Nat :=
  (List.range (c.gf (SS_CFG.NSTASH s))).find? (fun i => !(c.slot s).recs.any (fun r => r.i == i))

def Chan.offOn (c : Chan) (s : Nat) : Bool := c.gf (SS_CFG.OFF_K s) != 0

/-- A pass for binding `j`, where it is used. -/
def Chan.passOk (c : Chan) (s j : Nat) : Bool := !c.outUsed s j || c.gf (SS_OUT_B.PASSES s j) != 0

/-- Conditions 2 to 6 of R245 for a forward head. -/
def Chan.fwdOk (c : Chan) (s : Nat) (d : List Byte) : Bool :=
  let x := c.slot s
  let lim := if c.gf (SS_CFG.POLICY s) = 0 then c.gf (SS_CFG.NSTASH s) else c.gf (SS_CFG.WARMUP s)
  c.headFault s false d == 0 && decide (x.recs.length < lim) && (c.freeStash s).isSome &&
  (!c.offOn s || (c.freeStage s).isSome) && (c.vsNames s (dVST d) (dSTEP d)).isSome && c.passOk s (2 * dVST d) &&
  decide (x.launches.length < c.gf (SS_CFG.LAUNCH_AHEAD s))

/-- The conditions for a backward head. -/
def Chan.bwdOk (c : Chan) (s : Nat) (d : List Byte) : Bool :=
  let x := c.slot s
  c.headFault s true d == 0 && c.passOk s (2 * dVST d + 1) && decide (x.launches.length < c.gf (SS_CFG.LAUNCH_AHEAD s)) &&
  (match x.rec? (dMB d) (dVST d) with
   | some r => !c.offOn s || (r.off == 0 && r.stage != 0)
   | none => false)

/-! ### Appending (R63, R75) -/

/-- Is an append of the timetable still waiting for queue slots? -/
def Chan.ttBusy (c : Chan) : Bool := c.waiting.any (fun w => w.launch.isSome)

/-- The timetable appends, each append after its earlier ones. -/
def Chan.ttPush (c : Chan) (q : Nat) (raw : List Byte) (launch : Nat) : Chan :=
  if c.ttBusy then (c.withWaiting (c.waiting ++ [{ q := q, raw := raw, launch := some launch, core := none, fwd := none }]))
  else c.push q raw (some launch) none none

/-- A LESSON_CALL (Table 3-4). -/
def callBytes (addr count slot phase mb ver twin tbias : Nat) (bases : List Nat) : List Byte :=
  leBytes 1 0x02 ++ leBytes 1 1 ++ leBytes 19 0 ++ leBytes 1 8 ++ leBytes 2 0 ++ leBytes 8 addr ++ leBytes 2 count ++
  leBytes 1 slot ++ leBytes 1 phase ++ leBytes 4 mb ++ leBytes 1 ver ++ leBytes 1 twin ++ leBytes 2 0 ++ leBytes 4 tbias ++
  leBytes 16 0 ++ (bases.map (leBytes 8)).flatten

/-- R75: one LESSON_CALL for each segment of the image, in segment order. -/
def Chan.appendLesson (c : Chan) (s img : Nat) (l : Launch) : Chan :=
  let (hdr, segs) := c.lesson img
  let n := tget (fun _ => 0) (c.slot s).count img
  let c := c.onSlot s (fun x => { x with count := tput (fun _ => 0) x.count img (n + 1) })
  let c := (c.withCalls (tput (fun _ => {}) c.calls l.id { unstarted := segs.length, unended := segs.length }))
  segs.foldl (fun c e =>
    c.ttPush (leAt e 10 1)
      (callBytes (leAt e 0 8) (leAt e 8 2) s (min l.phase 1) l.mb l.ver (c.gf (SS_CFG.TWIN s)) (n * leAt hdr 4 4 % 2 ^ 32) l.bases)
      l.id) c

/-- A COPY of an off-load or a fetch (R252). -/
def copyBytes (src dst len : Nat) : List Byte :=
  leBytes 1 0x20 ++ leBytes 23 0 ++ leBytes 8 src ++ leBytes 8 dst ++ leBytes 4 len ++ leBytes 2 1 ++ leBytes 18 0

def Chan.offBytes (c : Chan) (s : Nat) : Nat := c.gf (SS_LAYER_END.END s (c.gf (SS_CFG.OFF_K s) - 1))
def Chan.stageAddr (c : Chan) (s buf : Nat) : Nat := c.gf (SS_STAGE.ADDR s) * 64 + buf * c.gf (SS_STAGE_STRIDE.STRIDE s)
def Chan.offAddr (c : Chan) (s i : Nat) : Nat := c.gf (SS_OFF.BASE s) + i * c.gf (SS_OFF_STRIDE.STRIDE s)

def Chan.onRec (c : Chan) (s i : Nat) (f : Rec → Rec) : Chan :=
  c.onSlot s (fun x => { x with recs := x.recs.map (fun r => if r.i = i then f r else r) })

def Chan.appendCopy (c : Chan) (s i pos buf : Nat) (fetch : Bool) : Chan :=
  let id := c.nextLaunch
  let a := c.stageAddr s buf
  let o := c.offAddr s i
  let c := ((c.withNextLaunch (id + 1)).withCalls (tput (fun _ => {}) c.calls id { unstarted := 1, unended := 1 }))
  let c := c.onSlot s (fun x => { x with copies := x.copies ++ [{ id := id, i := i, pos := pos, buf := buf, fetch := fetch }] })
  let c := if fetch then c else c.count (SS_CNT_OFFLOAD.COUNT s) 1
  c.ttPush (0x18 + c.gf (SS_CFG.OFF_TE s)) (if fetch then copyBytes o a (c.offBytes s) else copyBytes a o (c.offBytes s)) id

/-- Fetches that are due take a free staging buffer and append their COPY. -/
def Chan.fetchDue (c : Chan) (s : Nat) : Chan :=
  (c.slot s).recs.foldl (fun c r =>
    if r.want && r.off == 2 then
      match c.freeStage s with
      | some b => (c.onRec s r.i (fun r => { r with off := 3, stage := b + 1, want := false })).appendCopy s r.i r.pos b true
      | none => c
    else c) c

/-- The backward descriptor at the head asks for its record's fetch. -/
def Chan.headWants (c : Chan) (s : Nat) : Chan :=
  if !c.offOn s then c
  else
    match c.current s true with
    | none => c
    | some (_, d) =>
      match (c.slot s).rec? (dMB d) (dVST d) with
      | some r => if r.off = 1 ∨ r.off = 2 then c.onRec s r.i (fun r => { r with want := true }) else c
      | none => c

/-! ### Launching (R249) -/

/-- Takes one pass of binding `j`: the receiver slot B2, or 0. -/
def Chan.takePass (c : Chan) (s j : Nat) : Nat × Chan :=
  if !c.outUsed s j then (0, c)
  else
    let n := c.gf (SS_OUT_B.NEXT s j)
    let c := (c.sf (SS_OUT_B.PASSES s j) (c.gf (SS_OUT_B.PASSES s j) - 1)).sf (SS_OUT_B.NEXT s j)
      ((n + 1) % max 1 (c.gf (SS_OUT_B.DEPTH s j)))
    (c.gf (SS_OUT_A.BASE s j) + n * c.gf (SS_OUT_B.STRIDE s j), c)

def markTaken (idx : Nat) (l : List DescEnt) : List DescEnt := l.map (fun e => if e.idx = idx ∧ !e.released then { e with taken := true } else e)

def Chan.setCur (c : Chan) (s : Nat) (bases : List Nat) : Chan :=
  (List.range 8).foldl (fun c n => c.sf (SS_CUR.BASE s n) (nth 0 bases n)) c

/-- The current registers of Table 9-6. -/
def Chan.curOf (c : Chan) (s : Nat) (bwd : Bool) (e : DescEnt) (d : List Byte) (b2 ver i stage : Nat) : List Nat :=
  let r := c.door s bwd e.door
  [(c.qRing s bwd).1 + 64 * e.idx, r.addr + e.dslot * r.stride, b2,
   c.gf (VS_WC.BASE s) * 64 + ver * c.gf (VS_WC_STRIDE.STRIDE s), c.gf (SS_STASH.ADDR s) * 64 + i * c.gf (SS_STASH_STRIDE.STRIDE s),
   if c.offOn s then c.stageAddr s (stage - 1) else 0, leAt d 24 8, leAt d 32 8]

def Chan.launchFwd (c : Chan) (s : Nat) (e : DescEnt) (d : List Byte) : Chan :=
  let v := dVST d
  match c.freeStash s, c.vsNames s v (dSTEP d) with
  | some i, some k =>
    let stage := if c.offOn s then match c.freeStage s with | some b => b + 1 | none => 0 else 0
    let (b2, c) := c.takePass s (2 * v)
    let c := c.vsTake s k (dSTEP d)
    let bases := c.curOf s false e d b2 k i stage
    let l : Launch := { id := c.nextLaunch, phase := 0, i := i, pos := (c.slot s).nfwd, idx := e.idx, bwd := false, vst := v, mb := dMB d, ver := k, last := false, bases := bases }
    let r : Rec := { i := i, mb := dMB d, step := dSTEP d, term := dTERM d, vst := v, ver := k, stage := stage, off := 0, want := false, pos := (c.slot s).nfwd, bwd := false }
    let c := (c.withNextLaunch (c.nextLaunch + 1))
    let c := c.onSlot s (fun x => { x with fq := markTaken e.idx x.fq, recs := x.recs ++ [r], nfwd := x.nfwd + 1, launches := x.launches ++ [l] })
    let c := ((c.setCur s bases).count (SS_CNT_FWD.COUNT s) 1).sf (SS_STAT.LAST_PHASE s) 0
    (c.appendLesson s (c.gf (SS_VS_FLESSON.ADDR s v) * 64) l).syncSlot s
  | _, _ => c

/-- The record `n` places after another, in forward-launch order, when it still exists. -/
def Slot.placesAfter (x : Slot) (i n : Nat) : Option Rec :=
  match x.recs.find? (fun r => r.i == i) with
  | some r => x.recs.find? (fun q => q.pos == r.pos + n)
  | none => none

def Chan.launchBwd (c : Chan) (s : Nat) (e : DescEnt) (d : List Byte) : Chan :=
  let v := dVST d
  match (c.slot s).rec? (dMB d) v with
  | none => c
  | some r =>
    let (b2, c) := c.takePass s (2 * v + 1)
    let bases := c.curOf s true e d b2 r.ver r.i r.stage
    let l : Launch := { id := c.nextLaunch, phase := 1, i := r.i, pos := r.pos, idx := e.idx, bwd := true, vst := v, mb := dMB d, ver := r.ver, last := dLAST d, bases := bases }
    let c := (c.withNextLaunch (c.nextLaunch + 1))
    let next := (c.slot s).placesAfter r.i (c.gf (SS_CFG.PREFETCH s))
    let c := c.onSlot s (fun x => { x with bq := markTaken e.idx x.bq, launches := x.launches ++ [l] })
    let c := c.onRec s r.i (fun r => { r with bwd := true })
    let c := ((c.setCur s bases).count (SS_CNT_BWD.COUNT s) 1).sf (SS_STAT.LAST_PHASE s) 1
    let c := (c.appendLesson s (c.gf (SS_VS_BLESSON.ADDR s v) * 64) l).syncSlot s
    match next with
    | some q => if c.offOn s ∧ q.i ≠ r.i then (c.onRec s q.i (fun q => { q with want := q.want || q.off == 1 || q.off == 2 })).fetchDue s else c
    | none => c

/-- The end lesson of a LAST backward launch (R250). -/
def Chan.launchEnd (c : Chan) (s : Nat) (l : Launch) : Chan :=
  let e : Launch := { l with id := c.nextLaunch, phase := 2 }
  let c := (c.withNextLaunch (c.nextLaunch + 1))
  let c := c.onSlot s (fun x => { x with ends := x.ends.tail, launches := x.launches ++ [e] })
  let c := ((c.setCur s l.bases).sf (SS_STAT.LAST_PHASE s) 1).sf (SS_STAT.STEP_END s) 1
  (c.appendLesson s (c.gf (SS_VS_ELESSON.ADDR s l.vst) * 64) e).syncSlot s

/-- R246: the choice between two eligible heads; true is backward. -/
def pickBwd (policy stampF stampB last : Nat) : Bool :=
  if policy = 0 then !(decide (toSigned 32 (stampF + 2 ^ 32 - stampB) < 0))
  else if policy = 2 then true
  else last == 0

/-! ### Completion (R250, R252) -/

/-- R252: the forward launch of the record at place `pos` completes in a slot that off-loads.  The count alone decides, even when
the record's own backward lesson has been launched by then. -/
def Chan.offLoad (c : Chan) (s pos : Nat) : Chan :=
  if !c.offOn s then c
  else
    let x := c.slot s
    match x.recs.find? (fun r => r.pos == pos) with
    | none => c
    | some r =>
      let n := ((x.recs.takeWhile (fun q => q.pos != pos)).filter (fun q => !q.bwd)).length
      if n < c.gf (SS_CFG.PREFETCH s) then c
      else (c.onRec s r.i (fun r => { r with off := 1, stage := 0 })).appendCopy s r.i pos (r.stage - 1) false

/-- LAUNCH_COMPLETE: launch number `k` of the slot's list has no LESSON_CALL left to end. -/
def Chan.launchComplete (c : Chan) (s k : Nat) : Chan :=
  match (c.slot s).launches[k]? with
  | none => c
  | some l =>
    if (tget (fun _ => {}) c.calls l.id).unended ≠ 0 then c
    else
      let c := c.onSlot s (fun x => { x with launches := x.launches.filter (fun q => q.id != l.id) })
      let c :=
        if l.phase = 0 then (c.release s false l.idx).offLoad s l.pos
        else if l.phase = 2 then c.release s true l.idx
        else
          let c := c.freeRec s l.pos
          if !l.last then c.release s true l.idx
          else if c.gf (SS_VS_ELESSON.ADDR s l.vst) = 0 then (c.release s true l.idx).sf (SS_STAT.STEP_END s) 1
          else c.onSlot s (fun x => { x with ends := x.ends ++ [l] })
      ((c.fetchDue s).syncSlot s).slotSettle s

/-- The launches of a slot that have no LESSON_CALL left to end complete; `fuel` bounds their number. -/
def Chan.completeReady : Nat → Chan → Nat → Chan
  | 0, c, _ => c
  | fuel + 1, c, s =>
    match (c.slot s).launches.findIdx? (fun l => (tget (fun _ => {}) c.calls l.id).unended == 0) with
    | some k => Chan.completeReady fuel (c.launchComplete s k) s
    | none => c

/-- The launches of every slot that are ready complete: completions at one instant come before launches (R250). -/
def Chan.completeAll (c : Chan) : Chan := (List.range 8).foldl (fun c t => Chan.completeReady 8 c t) c

/-! ### The timetable (R245 to R251) -/

/-- The head of a queue was found faulty: it stays in place, unserved, until a discard removes it (R248). -/
def Chan.faulted (c : Chan) (s : Nat) (bwd : Bool) : Bool := c.flag (SS_STAT.FAULT s) && c.gf (SS_STAT.FAULT_Q s) == b2n bwd

/-- The eligible heads of a slot (R245). -/
def Chan.eligible (c : Chan) (s : Nat) (bwd : Bool) : Option (DescEnt × List Byte) :=
  if c.faulted s bwd then none else (c.current s bwd).filter (fun h => if bwd then c.bwdOk s h.2 else c.fwdOk s h.2)

/-- The timetable could launch for a slot. -/
def Chan.launchable (c : Chan) (s : Nat) : Bool :=
  c.serves s && (!(c.slot s).ends.isEmpty || (c.eligible s false).isSome || (c.eligible s true).isSome)

/-- Round-robin service: no slot between the one served last and slot `s` has a launch (R251). -/
def Chan.turn (c : Chan) (s : Nat) : Bool :=
  (List.range 8).all (fun k => (k + 15 - c.ttLast) % 8 ≥ (s + 15 - c.ttLast) % 8 || !c.launchable k)

/-- The lesson image of a launch is read through the symbol code before the launch takes anything. -/
def Chan.withImage (c : Chan) (s img : Nat) (f : Chan → Chan) : Chan :=
  let (bad, c) := c.imageBad (img * 64)
  if bad then c else f (c.withTtLast s)

def Chan.launchHead (c : Chan) (s : Nat) (bwd : Bool) (e : DescEnt) (d : List Byte) : Chan :=
  if bwd then c.withImage s (c.gf (SS_VS_BLESSON.ADDR s (dVST d))) (fun c => c.launchBwd s e d)
  else c.withImage s (c.gf (SS_VS_FLESSON.ADDR s (dVST d))) (fun c => c.launchFwd s e d)

/-- LAUNCH: the timetable evaluates a slot whose turn it is, after the completions of that instant in every slot (R245 to R251);
a faulty head it meets stays faulty (R248). -/
def Chan.launch (c : Chan) (s : Nat) : Chan :=
  if !c.serves s || c.ttBusy then c
  else
    let c := c.completeAll
    let (bad, c) := c.headBad s false
    let (bad', c) := c.headBad s true
    if bad || bad' then c
    else
      let c := (((c.descFault s false).descFault s true).headWants s).fetchDue s
      if !c.serves s || c.ttBusy || !c.turn s then c
      else
        match (c.slot s).ends with
        | l :: _ => c.withImage s (c.gf (SS_VS_ELESSON.ADDR s l.vst)) (fun c => c.launchEnd s l)
        | [] =>
          match c.eligible s false, c.eligible s true with
          | some (e, d), some (e', d') =>
            if pickBwd (c.gf (SS_CFG.POLICY s)) e.stamp e'.stamp (c.gf (SS_STAT.LAST_PHASE s)) then c.launchHead s true e' d'
            else c.launchHead s false e d
          | some (e, d), none => c.launchHead s false e d
          | none, some (e, d) => c.launchHead s true e d
          | none, none => c

/-! ### Off-load copies (R252) -/

/-- An off-load or fetch COPY of the slot has completed, whether or not earlier commands of its queue have, and no FLUSH or SKIP
took it. -/
def Chan.copyDone (c : Chan) (p : OffCopy) : Bool :=
  (tget (fun _ => {}) c.calls p.id).unended == 1 && !c.waiting.any (fun w => w.launch == some p.id) &&
  allQueues.all (fun q => (c.queue q).ents.all (fun e =>
    e.launch != some p.id || e.consumed || (c.queue q).started.any (fun h => !h.inSeg && h.ent == e.seq && h.st == .done)))

/-- OFFLOAD_COPY_DONE for record `i`. -/
def Chan.offDone (c : Chan) (s i : Nat) : Chan :=
  match (c.slot s).copies.find? (fun p => p.i == i && c.copyDone p) with
  | none => c
  | some p =>
    let c := (c.withCalls (tput (fun _ => {}) c.calls p.id {}))
    let c := c.onSlot s (fun x => { x with copies := x.copies.filter (fun q => q.id != p.id) })
    let c := c.onRec s i (fun r => if r.pos ≠ p.pos then r else if p.fetch && r.off == 3 then { r with off := 0 } else if !p.fetch && r.off == 1 then { r with off := 2 } else r)
    ((c.fetchDue s).syncSlot s).slotSettle s

end Sys2Proof.Machine
end

