-- ==== Sys2Proof/Machine/Flags.lean ====
section
/-!
DEFINITION. The status conditions that drive the channel interrupt controller: the level of each of its 512 sources
(R213, R46, R220, R259, R287, R324, R376, R419, R450, R467, R487, R554).
-/
namespace Sys2Proof.Machine

/-! ### Power of the parts (Table 8-5) -/

/-- Has the compute die power?  Not in DOZE, RECESS and OFF, nor after order 5 of a fence. -/
def Chan.computeOn (c : Chan) : Bool := c.gf HR_PSTATE.CUR < 2 && !c.noCompute

/-- Has the base die outside the homeroom and the switch power?  Not in RECESS and OFF. -/
def Chan.baseOn (c : Chan) : Bool := c.gf HR_PSTATE.CUR < 3

/-- Has the homeroom power? -/
def Chan.homeOn (c : Chan) : Bool := c.gf HR_PSTATE.CUR < 4

/-! ### Levels -/

/-- R287: an ACTIVE slot's forward head waits for a version only. -/
def Chan.waitsVersion (c : Chan) (s : Nat) : Bool :=
  c.serves s &&
  (match c.current s false with
   | some (_, d) =>
     (c.vsNames s (dVST d) (dSTEP d)).isNone && c.headFault s false d == 0 &&
     decide ((c.slot s).recs.length < (if c.gf (SS_CFG.POLICY s) = 0 then c.gf (SS_CFG.NSTASH s) else c.gf (SS_CFG.WARMUP s))) &&
     (c.freeStash s).isSome && (!c.offOn s || (c.freeStage s).isSome) && c.passOk s (2 * dVST d) &&
     decide ((c.slot s).launches.length < c.gf (SS_CFG.LAUNCH_AHEAD s))
   | none => false)

/-- Sources of the compute die's blocks. -/
def Chan.levelCompute (c : Chan) (n : Nat) : Bool :=
  if n < 48 then qidOk n && (c.queue n).st == .halted
  else if 64 ≤ n ∧ n < 96 then
    let s := (n - 64) / 4
    if n % 4 = 0 then c.flag (SS_STAT.FAULT s)
    else if n % 4 = 1 then c.flag (SS_STAT.STEP_END s)
    else if n % 4 = 2 then c.flag (SS_STAT.DRAINED s)
    else false
  else if 128 ≤ n ∧ n < 136 then c.waitsVersion (n - 128)
  else if n = 136 then c.flag UU_STAT.STALE
  else if n = 137 then c.flag UU_STAT.SKIPPED
  else if n = 138 then c.flag UU_STAT.BUDDY_LOST
  else if 160 ≤ n ∧ n < 168 then c.flag (CE_GRP_STAT.TARDY (n - 160))
  else if 168 ≤ n ∧ n < 176 then c.flag (CE_GRP_STAT.STALE (n - 168))
  else if 176 ≤ n ∧ n < 184 then c.flag (CE_GRP_STAT.CARRY_LOST (n - 176))
  else if 352 ≤ n ∧ n < 356 then (tget (fun _ => {}) c.cores (n - 352)).expired
  else false

/-- Sources of the fabric (R376). -/
def Chan.levelFabric (c : Chan) (n : Nat) : Bool :=
  if 192 ≤ n ∧ n < 216 then
    let p := (n - 192) / 4
    if n % 4 = 0 then (c.linkState p == linkDOWN || c.linkState p == linkTRAINING) && !c.flag (IV_CTL.DISABLE p)
    else if n % 4 = 1 then c.linkState p == linkHALF || c.gf (IV_LANES.SPARES_USED p) != 0
    else if n % 4 = 2 then c.linkState p == linkMISMATCH
    else false
  else if n = 216 then c.flag CS_RING.X_BRK_VALID
  else if n = 217 then c.flag CS_RING.Y_BRK_VALID
  else if n = 218 then c.flag CS_RING.Z_BRK_VALID
  else if n = 219 then c.flag CS_STAT.TIMEOUT
  else if n = 220 then c.flag CS_STAT.NOROUTE
  else if n = 221 then c.flag CS_STAT.TC0_REFUSED
  else false

/-- Sources of the base die's blocks. -/
def Chan.levelBase (c : Chan) (n : Nat) : Bool :=
  if 48 ≤ n ∧ n < 64 then
    let k := n - 48
    c.flag (CIC_TOKSRC.EN k) && notEarlier 32 (c.tok (c.gf (CIC_TOKSRC.INDEX k))) (c.gf (CIC_TOKSRC.THR k))
  else if 256 ≤ n ∧ n < 260 then c.flag ⟨HBM_IRQ.off, n - 256, 1⟩
  else if 260 ≤ n ∧ n < 264 then c.flag ⟨SP_IRQ.off, n - 260, 1⟩
  else if n = 288 then c.flag EN_CFG.EN && !c.flag EN_STAT.UP
  else if n = 289 then c.gf EN_STAT.QP_ERR != 0
  else if n = 320 then c.gf UC_STAT.STATE == 0 || c.gf UC_STAT.STATE == 1
  else if n = 321 then c.gf UC_STAT.WIDTH != 3
  else if n = 322 then c.gf UC_STAT.STATE == 3
  else if n = 336 then c.ucUp && (c.queue 0x80).st == .halted
  else if n = 337 then !c.ucUp || !c.hostUp
  else if n = 338 then c.ucUp && c.flag HPC_IRQ.HLOG
  else if n = 339 then c.ucUp && c.flag HPC_STAT.MB_H2D_BUSY
  else if 448 ≤ n then bit (c.gf CIC_SWSRC_SET.BITS) (n - 448)
  else false

/-- Sources of the homeroom. -/
def Chan.levelHome (c : Chan) (n : Nat) : Bool :=
  if n = 384 then c.gf HR_THERM.DUTY < 16
  else if n = 385 then c.flag HR_THERM.HOLD
  else if n = 386 then c.flag HR_THERM.SENS_FAULT
  else if n = 387 then c.gf HR_THERM.ENV_CAP < 16
  else if n = 400 then c.gf HR_HB_STAT.SUSPECT != 0
  else if n = 401 then c.flag HR_RECOV_STAT.CLAIMED
  else if n = 402 then c.flag HR_RECOV_STAT.RECOVERED
  else if n = 403 then c.flag HR_RECOV_STAT.NO_SUB
  else if n = 416 then
    c.gf HR_LOG_CFG.THRESH != 0 &&
    c.gf HR_LOG_CFG.THRESH ≤ (c.gf HR_LOG_STAT.WCNT + 2 ^ 32 - c.gf HR_LOG_STAT.RCNT) % 2 ^ 32
  else if n = 417 then 4096 < (c.gf HR_LOG_STAT.WCNT + 2 ^ 32 - c.gf HR_LOG_STAT.RCNT) % 2 ^ 32
  else false

/-- The level of source `n` (R213); the source of a block without power reads as deasserted. -/
def Chan.level (c : Chan) (n : Nat) : Bool :=
  if n < 48 ∨ (64 ≤ n ∧ n < 192) ∨ (352 ≤ n ∧ n < 384) then c.computeOn && c.levelCompute n
  else if 192 ≤ n ∧ n < 256 then c.homeOn && c.levelFabric n
  else if 384 ≤ n ∧ n < 448 then c.homeOn && c.levelHome n
  else n < 512 && c.baseOn && c.levelBase n

/-! ### Presentation (R214, R215) -/

def Chan.stack (c : Chan) (t : Nat) : List (Nat × Nat) := tget (fun _ => []) c.prios t
def Chan.setStack (c : Chan) (t : Nat) (l : List (Nat × Nat)) : Chan :=
  (c.withPrios (tput (fun _ => []) c.prios t l))

/-- The running priority of a target. -/
def Chan.runPrio (c : Chan) (t : Nat) : Nat := ((c.stack t).head?.map (·.2)).getD 0

/-- Is the source on a stack? -/
def Chan.inService (c : Chan) (n : Nat) : Bool := (List.range 6).any (fun t => (c.stack t).any (fun e => e.1 == n))

/-- The best of a list of sources for a running priority: highest priority, then lowest number. -/
def bestSrc : List (Nat × Nat) → Option (Nat × Nat) → Option (Nat × Nat)
  | [], b => b
  | (n, p) :: r, b => bestSrc r (match b with | some (_, q) => if q < p then some (n, p) else b | none => some (n, p))

/-- The source presented to target `t`, with its priority. -/
def Chan.presented (c : Chan) (t : Nat) : Option (Nat × Nat) :=
  if !c.baseOn then none
  else
    let rp := c.runPrio t
    bestSrc ((c.regs.filterMap (fun e =>
      if 0x21000 ≤ e.1 ∧ e.1 < 0x22000 ∧ e.1 % 8 = 0 then
        let n := (e.1 - 0x21000) / 8
        let p := c.gf (CIC_SRC.PRIO n)
        if c.gf (CIC_SRC.TARGET n) = t ∧ rp < p ∧ c.level n ∧ !c.inService n then some (n, p) else none
      else none))) none

end Sys2Proof.Machine
end

