-- ==== Sys2Proof/Machine/Cic.lean ====
section
/-!
DEFINITION. The channel interrupt controller (R213 to R221).
-/
namespace Sys2Proof.Machine

/-- A write of source `src` to CIC_ACKt (R216). -/
def Chan.cicAck (c : Chan) (t src : Nat) : Chan :=
  match c.presented t with
  | some (s, p) =>
    if s = src then (c.setStack t ((s, p) :: c.stack t)).sf (CIC_STAT.ACK_OK t) 1
    else c.sf (CIC_STAT.ACK_OK t) 0
  | none => c.sf (CIC_STAT.ACK_OK t) 0

/-- A write to CIC_EOIt (R217). -/
def Chan.cicEoi (c : Chan) (t : Nat) : Chan :=
  match c.stack t with
  | [] => c.sf (CIC_STAT.ERR t) 1
  | _ :: r => c.setStack t r

/-- Writes of CIC_SWSRC_SET and CIC_SWSRC_CLR, two addresses of the same bits (R221). -/
def Chan.swSet (c : Chan) (v : Nat) : Chan := c.sf CIC_SWSRC_SET.BITS (c.gf CIC_SWSRC_SET.BITS ||| v)
def Chan.swClr (c : Chan) (v : Nat) : Chan :=
  c.sf CIC_SWSRC_SET.BITS (c.gf CIC_SWSRC_SET.BITS - (c.gf CIC_SWSRC_SET.BITS &&& v))

/-- CIC_TOPt, CIC_STATt and CIC_SRCn as they read. -/
def Chan.cicTop (c : Chan) (t : Nat) : Nat :=
  match c.presented t with
  | some (s, p) => s + p * 2 ^ 12 + 2 ^ 16
  | none => 0
def Chan.cicStat (c : Chan) (t : Nat) : Nat :=
  setBits (setBits (c.rd (CIC_STAT.off t)) 0 4 (c.runPrio t)) 4 5 (c.stack t).length
def Chan.cicSrc (c : Chan) (n : Nat) : Nat :=
  setBits (setBits (c.rd (CIC_SRC.off n)) 8 1 (b2n (c.level n))) 9 1 (b2n (c.inService n))

/-- R219: a change of the source presented to target 5 sends vector 16c + PRIO; while a link on the way is down nothing is
sent, and one message follows when both are up. -/
def Chan.msixSettle (c : Chan) : Chan :=
  let p := c.presented 5
  let now := p.map (·.1)
  if c.ucUp ∧ c.hostUp then
    let send := match p with | some _ => c.due5 || c.pres5 != now | none => false
    let c := match p with
      | some (_, prio) => if send then (c.withOut (c.out ++ [HpdMsg.msix (16 * c.num + prio)])) else c
      | none => c
    ((c.withPres5 now).withDue5 false)
  else ((c.withPres5 now).withDue5 true)

end Sys2Proof.Machine
end

