-- ==== Sys2Proof/Machine/Fence.lean ====
section
/-!
DEFINITION. Bells of the homeroom, the coordinator of a seat, and fencing (R84, R341, R402 to R406, R416).
-/
namespace Sys2Proof.Machine

/-! ### Channel states (Table 14-2) -/

def csBOOT : Nat := 0
def csROLLCALL : Nat := 1
def csREADY : Nat := 2
def csSERVICE : Nat := 3
def csSUBSTITUTE : Nat := 4
def csFENCED : Nat := 5
def csBYPASS : Nat := 6

def Chan.cstate (c : Chan) : Nat := c.gf HR_CSTATE.STATE

/-- A change of the channel state, with its event (R382, Table 14-9). -/
def Chan.setCstate (c : Chan) (st : Nat) : Chan :=
  let old := c.cstate
  if old = st then c else (c.sf HR_CSTATE.STATE st).ev 0x0C 0xC6 0 (det [(16, 1, old), (17, 1, st)])

/-! ### Bells -/

def bHEARTBEAT : Nat := 1
def bFAILURE : Nat := 2
def bROLLCALL : Nat := 3
def bALL_PRESENT : Nat := 4
def bSUBSTITUTE : Nat := 5
def bATTENDANCE : Nat := 6
def bBREAK : Nat := 7
def bMEND : Nat := 8

/-- Bytes with `n` bytes from position `p` replaced by a number. -/
def putLe (bs : List Byte) (p n v : Nat) : List Byte := bs.take p ++ leBytes n v ++ bs.drop (p + n)

/-- A routed bell of this channel (R370, R371). -/
def Chan.sendBell (c : Chan) (kind dst : Nat) (data : List Byte) : Chan := c.injectBell (bell kind c.node dst data)

/-- A bell of the homeroom for the node behind a port. -/
def Chan.linkBell (c : Chan) (p kind : Nat) (data : List Byte) : Chan := c.originate (c.hopBell p kind data) 1

/-- The packet at the head of (port, virtual channel) that belongs to this channel whatever its destination: the bells that
travel by single links. -/
def Chan.takeHere (c : Chan) (p vc : Nat) (mine : Pkt → Bool) (home : Chan → Pkt → Chan) : Chan :=
  match c.headPkt p vc with
  | none => c
  | some (bs, flits) =>
    let k := parsePkt bs
    if mine k then home ((c.dropHead p vc).freePlaces (some (p, vc)) flits) k else c

/-! ### Coordinators (R406) -/

/-- The seat index of the coordinator (`plus`) or the alternate of seat `i` in an image. -/
def coordSeat (m : List Byte) (i : Nat) (plus : Bool) : Nat :=
  let px := chPX m
  let dy := chDY m
  let x := seatX dy i
  let y := seatY dy i
  let z := seatZ i
  let next (v n : Nat) : Nat := if plus then (v + 1) % n else (v + n - 1) % n
  if 1 < dy then seatIdx dy x (next y dy) z
  else if 1 < px then seatIdx dy (next x px) y z
  else seatIdx dy x y (next z 4)

/-- The nodes of a seat's coordinator and alternate. -/
def Chan.coordNode (c : Chan) (i : Nat) : Nat := chNode c.chart (coordSeat c.chart i true)
def Chan.altNode (c : Chan) (i : Nat) : Nat := chNode c.chart (coordSeat c.chart i false)

/-- FAILURE bell data (Table 15-2). -/
def failBytes (phase cause failed reporter job old new seat sub gen : Nat) : List Byte :=
  leBytes 1 phase ++ leBytes 1 cause ++ leBytes 3 failed ++ leBytes 3 reporter ++ leBytes 2 job ++ leBytes 2 old ++
  leBytes 2 new ++ leBytes 2 seat ++ leBytes 3 sub ++ leBytes 2 gen ++ leBytes 187 0

def fPHASE (b : List Byte) : Nat := leAt b 0 1
def fCAUSE (b : List Byte) : Nat := leAt b 1 1
def fFAILED (b : List Byte) : Nat := leAt b 2 3 % 2 ^ 18
def fREPORTER (b : List Byte) : Nat := leAt b 5 3 % 2 ^ 18
def fJOB (b : List Byte) : Nat := leAt b 8 2
def fOLD (b : List Byte) : Nat := leAt b 10 2
def fNEW (b : List Byte) : Nat := leAt b 12 2
def fSEAT (b : List Byte) : Nat := leAt b 14 2
def fSUB (b : List Byte) : Nat := leAt b 16 3 % 2 ^ 18
def fGEN (b : List Byte) : Nat := leAt b 19 2

/-- A NOTICE or SUSPECT goes to the coordinator and the alternate of a seat. -/
def Chan.tellCoords (c : Chan) (i : Nat) (data : List Byte) : Chan :=
  let a := c.coordNode i
  let b := c.altNode i
  let c := c.sendBell bFAILURE a data
  if a = b then c else c.sendBell bFAILURE b data

/-! ### The fence (R405) -/

/-- Orders 1 to 4 of Table 15-3, once: a channel already FENCED or in BYPASS is left as it is.  The host queue, which the host-port
die keeps and R430 puts under R82 and R83 but not under R84, runs on (R16). -/
def Chan.fence (c : Chan) (cause : Nat) : Chan :=
  if c.cstate = csFENCED ∨ c.cstate = csBYPASS then c
  else
    let seat := if c.flag CH_SEAT.SEATED then chSeatOf c.chart c.node else none
    let c := c.sf HR_CSTATE.STATE csFENCED
    let c := allQueues.foldl Chan.fenceQ c
    let c := (List.range 8).foldl Chan.fenceSlot c
    let c := (List.range 16).foldl (fun c n =>
      ((c.sf (CH_RTK_STAT.OPEN n) 0).sf (CH_RTK_STAT.ARRIVED n) 0).sf (CH_RTK_STAT.LOG_USED n) 0) (c.withRetakes [])
    let c := c.termFence
    let c := c.ev 0x0C 0xD0 3 (det [(16, 1, cause)])
    let c := c.sf CS_CFG.MODE 1
    let c := match seat with
      | some i => c.tellCoords i (failBytes 0 cause c.node c.node (chJOB c.chart) (c.gf CH_TERM.CUR) 0 i 0 0)
      | none => c
    -- the searches of a coordinator end with it: the alternate recovers the seat (R415)
    ((((((((c.withSearches []).withFencedAt (some c.now)).withBootstrap none).withWaiting (c.waiting.filter (fun w => w.fwd.isSome))).withUu none).withBkts []).withCeStage []).withApplying none)

/-- VACATE, written by the service core or the host (R404, R418). -/
def Chan.vacate (c : Chan) (v : Nat) : Chan := if bit v 0 then c.fence 7 else c

/-- A fence that a unit has asked for. -/
def Chan.fenceDue (c : Chan) : Chan :=
  match c.fenceReq with
  | some cause => ((c.withFenceReq none) : Chan).fence cause
  | none => c

end Sys2Proof.Machine
end

