-- ==== Sys2Proof/Machine/Power.lean ====
section
/-!
DEFINITION. Power states of a channel (R222 to R230), what each loses (Table 8-5), and channel reset (R7, R208, R381).
-/
namespace Sys2Proof.Machine

/-! ### What is lost -/

/-- Only the host queue, which lives in the host-port die, is kept. -/
def keepHq (c : Chan) : Tbl Queue := c.queues.filter (fun e => e.1 == 0x80)

/-- The compute die's state at its channel-reset values: queues, engines, slots, version store, cores, caches, TCMs and
report card. -/
def Chan.loseCompute (c : Chan) : Chan :=
  let c := ((c.resetRange 0x30000 0x90000).resetRange 0x100000 0x158000).resetRange 0x180000 0x200000
  ((((((((((((((((((((c.withQueues (keepHq c)).withRetiring []).withWaiting (c.waiting.filter (fun w => w.fwd.isSome))).withOps (c.ops.filter (fun o => o.q == 0x80))).withOpq (c.opq.filter (fun o => o.q == 0x80))).withRetakes []).withCalls []).withMes []).withPhases []).withVes []).withFss []).withGathered []).withSlots []).withUu none).withBuddies []).withBkts []).withCePass []).withCeStage []).withCores []).withQuietSince (some c.now))

/-- What else RECESS loses: HBM, scratchpad, token counters and the base die but for the homeroom, the corridor switch and
its ports and the trained links (DEDUCED for the die link, notes/assumptions/53.md), whose counters are lost.  The root PLL
stays locked, since the corridor switch runs from it. -/
def Chan.loseBase (c : Chan) : Chan :=
  let lock := c.gf CH_CLK_STAT.ROOT_LOCK
  let c := ((c.resetRange 0x10000 0x30000).resetRange 0xB0000 0xD0000).sf CH_CLK_STAT.ROOT_LOCK lock
  let c := (c.resetRange UC_CNT_RETRY.off UC_CNT_CTL.off).resetRange 0xE0000 0x100000
  (((((((c.withMem []).withFlaws []).withPrios []).withChart []).withTermSw none).withEn ({})).withCyc [])

/-- What the host-port die holds for the channel, which no reset and no power state of the channel changes (R16): its host
queue with the operations of its commands, the held log entries, the conditions of its interrupt, log and mailbox, and that the
loader has found its sections bad (R523). -/
def Chan.hpdPart (c : Chan) : Chan :=
  { num := c.num, now := c.now, t0 := c.now, hpdT0 := c.hpdT0, erase := (c.now, c.now), fresh := c.fresh, hostUp := c.hostUp, out := c.out
    regs := c.regs.filter (fun e => 0x10000000 ≤ e.1), queues := keepHq c
    waiting := c.waiting.filter (fun w => w.fwd.isSome), ops := c.ops.filter (fun o => o.q == 0x80)
    opq := c.opq.filter (fun o => o.q == 0x80), nextTid := c.nextTid
    hlogHeld := c.hlogHeld, hlogFull := c.hlogFull, irqWas := c.irqWas, mbWait := c.mbWait, hpdGen := c.hpdGen
    boot := { secBad := c.boot.secBad } }

/-- A channel without any power. -/
def Chan.loseAll (c : Chan) : Chan := c.hpdPart

/-- Every link of a channel without power is DOWN. -/
def Chan.turnOff (c : Chan) : Chan := c.loseAll.sf HR_PSTATE.CUR 4

/-! ### Requests (R224, R225) -/

/-- Is every engine queue IDLE or HALTED, with no command started? -/
def Chan.queuesQuiet (c : Chan) : Bool :=
  allQueues.all (fun q => ((c.queue q).st == .idle || (c.queue q).st == .halted) && (c.queue q).busy == 0)

/-- The conditions of DOZE: the first reason of Table 8-7 that fails. -/
def Chan.dozeFault (c : Chan) : Option Nat :=
  if !c.queuesQuiet then some 2
  else if (List.range 8).any (fun s => c.ssState s == ssACTIVE || c.ssState s == ssDRAINING) then some 3
  else if (List.range 16).any (fun n => c.flag (CH_RTK_STAT.OPEN n)) then some 4
  else if (List.range 4).any (fun h => c.flag (SC_CTL.RUN h)) then some 5
  else none

/-- Why a request from state `cur` for state `req` is refused, if it is (Table 8-6). -/
def Chan.pstateFault (c : Chan) (cur req : Nat) : Option Nat :=
  let service : Option Nat := if c.cstate = csSERVICE then some 6 else none
  if req = 2 then if cur ≤ 1 then c.dozeFault else some 7
  else if req = 3 then
    if cur ≤ 2 then match c.dozeFault with | some r => some r | none => service else some 7
  else if req = 4 then service
  else if req = 0 then if cur = 2 ∨ cur = 3 then none else some 7
  else some 7

def Chan.pstateRefused (c : Chan) (req reason : Nat) : Chan :=
  (c.sf HR_PSTATE.REFUSAL reason).ev 0x0C 0x51 0 (det [(16, 1, req), (17, 1, reason)])

/-- The exit from a low-power state begins. -/
def Chan.exitBegin (c : Chan) (cause entry : Nat) : Chan :=
  let c := (c.sf HR_PSTATE.BUSY 1).sf HR_WAKE_STAT.BY_REQ (b2n (cause == 0))
  let c := if cause = 1 then c.sf HR_WAKE_STAT.ENTRY entry else c
  (c.withPtrans (some { exit := true, old := c.gf HR_PSTATE.CUR, new := 0, began := c.now, andBack := none, cause := cause, entry := entry }))

/-- A request for a power state. -/
def Chan.pstateReq (c : Chan) (req : Nat) : Chan :=
  let cur := c.gf HR_PSTATE.CUR
  match c.ptrans with
  | some t =>
    if req = 0 ∧ ¬ t.exit ∧ (t.new = 2 ∨ t.new = 3) then
      (c.withPtrans (some { t with andBack := some (t.andBack.getD (0, 0)) }))
    else c.pstateRefused req 1
  | none =>
    if req = cur then c
    else
      match c.pstateFault cur req with
      | some r => c.pstateRefused req r
      | none =>
        if req = 0 then c.exitBegin 0 0
        else ((c.sf HR_PSTATE.BUSY 1).withPtrans (some { exit := false, old := cur, new := req, began := c.now, andBack := none, cause := 0, entry := 0 }))

/-- May the agent write HR_PSTATE (R224)?  Another's write is ignored. -/
def pstateAgent : Agent → Bool
  | .core h => h == 4
  | .host | .monitor => true
  | .te _ | .homeroom => false

/-- A write of HR_PSTATE. -/
def Chan.pstateWrite (c : Chan) (ag : Agent) (v : Nat) : Chan := if pstateAgent ag then c.pstateReq (bits v 0 3) else c

/-- The event of a change. -/
def Chan.pstateEv (c : Chan) (old new cause entry : Nat) : Chan :=
  c.ev 0x0C 0x50 0 (det [(16, 1, old), (17, 1, new), (18, 1, cause), (19, 1, entry)])

/-- PSTATE_ENTRY_DONE. -/
def Chan.entryDone (c : Chan) : Chan :=
  match c.ptrans with
  | none => c
  | some t =>
    if t.exit then c
    else if t.new = 4 then
      let c := (c.pstateEv t.old 4 0 0)
      (c.turnOff.withOut (c.out ++ [HpdMsg.power false]))
    else
      let c := c.loseCompute
      let c := if t.new = 3 then c.loseBase else c
      let c := (((c.sf HR_PSTATE.CUR t.new).sf HR_PSTATE.BUSY 0).withPtrans none)
      let c := c.pstateEv t.old t.new 0 0
      match t.andBack with
      | some (cause, e) => c.exitBegin cause e
      | none => c

/-- The lowest wake entry whose source is asserted (R229). -/
def Chan.wakeEntry (c : Chan) : Option Nat :=
  (List.range 32).find? (fun n => c.flag (HR_WAKE.EN n) && c.level (c.gf (HR_WAKE.SOURCE n)))

/-- WAKE. -/
def Chan.wakeUp (c : Chan) : Chan :=
  match c.wakeEntry with
  | none => c
  | some n =>
    match c.ptrans with
    | some t =>
      if ¬ t.exit ∧ (t.new = 2 ∨ t.new = 3) ∧ t.andBack.isNone then
        (c.withPtrans (some { t with andBack := some (1, n) }))
      else c
    | none => if c.gf HR_PSTATE.CUR = 2 ∨ c.gf HR_PSTATE.CUR = 3 then c.exitBegin 1 n else c

/-- The version of the service core's firmware image in the boot store. -/
def Chan.svcUp (c : Chan) : Chan :=
  (c.sf SVC_STAT.UP 1).sf SVC_STAT.FW_VER (Config.fwVersion (c.section1 secFWSVC)).toNat

/-- The scratchpad zeroed with valid check bytes. -/
def Chan.zeroSp (c : Chan) : Chan :=
  ((c.withMem (teraseRange spBase (spBase + spSize) c.mem)).withFlaws (teraseRange (spBase / 32) ((spBase + spSize) / 32) c.flaws))

/-- PSTATE_EXIT_DONE: the lost parts come back at their reset values, from RECESS with the scratchpad initialised, and the service
core boots from the boot store. -/
def Chan.exitDone (c : Chan) : Chan :=
  match c.ptrans with
  | none => c
  | some t =>
    if ¬ t.exit then c
    else
      let c := ((((c.sf HR_PSTATE.CUR 0).sf HR_PSTATE.BUSY 0).withPtrans none).withQuietSince (some c.now))
      let c := if t.old = 2 then c else c.zeroSp.withErase (c.now, c.now)
      c.svcUp.pstateEv t.old 0 t.cause t.entry

/-- R223: the channel enters IDLE. -/
def Chan.idleEntry (c : Chan) : Chan :=
  match c.quietSince with
  | none => c
  | some t =>
    let d := c.gf HR_IDLE_DELAY.DELAY_US
    if c.gf HR_PSTATE.CUR ≠ 0 ∨ c.flag HR_PSTATE.BUSY ∨ d = 0 ∨ c.now < t + d * tUs ∨ !c.queuesQuiet then c
    else c.sf HR_PSTATE.CUR 1

/-- Since when the engine queues have been quiet. -/
def Chan.noteQuiet (c : Chan) : Chan :=
  if c.queuesQuiet then (c.withQuietSince (some (c.quietSince.getD c.now))) else (c.withQuietSince none)

/-! ### Channel reset (R7, R208, R381) -/

/-- A quantity of the environment lies outside its operating and warning bands (R501). -/
def Chan.envBad (c : Chan) : Bool :=
  2 ≤ c.gf HR_ENV_STAT.VIN_BAND || 2 ≤ c.gf HR_ENV_STAT.TIN_BAND || 2 ≤ c.gf HR_ENV_STAT.FLOW_BAND

/-- The environment, or T_base of 95 °C and above, forbids that the compute die be powered (R482, R501). -/
def Chan.envForbids (c : Chan) : Bool := c.envBad || decide (95 * 16 ≤ toSigned 16 (c.gf HR_THERM.T_BASE))

/-- A register that a channel reset leaves alone: every HR_ register but HR_CSTATE and HR_BOOT_TIMEn (R7, R398), and those of
the host-port die. -/
def resetKeeps (off : Nat) : Bool :=
  0x10000000 ≤ off || (off < 0x10000 && !(off == 0x010 || (0x040 ≤ off && off < 0x068)))

/-- The channel's blocks at their reset values; the homeroom's registers, its log, its power transition, its readings and its
recovery state are kept, the state of the reference clock, and what the host-port die holds for the channel.  Start-up begins
at P1. -/
def Chan.resetChannel (c : Chan) : Chan :=
  let r : Chan :=
    { c.hpdPart with
      log := c.log, regs := c.regs.filter (fun e => resetKeeps e.1)
      claim := c.claim, ptrans := c.ptrans, bands := c.bands, sensBad := c.sensBad, refLost := c.refLost
      noCompute := true, uc := { tested := c.uc.tested }, boot := { envBad := c.envForbids, secBad := c.boot.secBad } }
  r.sf HR_CSTATE.PHASE 1

end Sys2Proof.Machine
end

