-- ==== Sys2Proof/Machine/CoreCtl.lean ====
section
/-!
DEFINITION. Control of the cores from outside: RUN, RESET, the watchdogs, and errors found in caches and TCM (R204, R208 to
R211).
-/
namespace Sys2Proof.Machine

/-- A core of the channel: 0 to 3 SC0 to SC3, 4 the service core. -/
def Chan.core (c : Chan) (h : Nat) : Core := tget (fun _ => {}) c.cores h
def Chan.setCore (c : Chan) (h : Nat) (x : Core) : Chan := (c.withCores (tput (fun _ => {}) c.cores h x))
def Chan.onCore (c : Chan) (h : Nat) (f : Core → Core) : Chan := c.setCore h (f (c.core h))

/-- The block id of a core's records (R202, R231). -/
def coreBlock (h : Nat) : Nat := if h = 4 then 0x0E else 0x0D

/-- A producer that waits in CMD.PUSH gives up. -/
def Chan.dropWaiting (c : Chan) (h : Nat) : Chan := (c.withWaiting (c.waiting.filter (fun w => w.core != some h)))

/-! ### RUN and RESET (R208) -/

/-- RUN set from 0: from SC_BOOT the first time after a reset, otherwise from the next instruction. -/
def Chan.scRun (c : Chan) (h : Nat) : Chan :=
  if c.flag (SC_CTL.RUN h) then c
  else
    let x := c.core h
    let c := c.sf (SC_CTL.RUN h) 1
    if x.began then c
    else c.setCore h { x with began := true, user := false, pc := BitVec.ofNat 64 (c.gf (SC_BOOT.ADDR h) * 4) }

/-- RUN cleared: an instruction that waits is abandoned and will execute again from its start (R200). -/
def Chan.scStop (c : Chan) (h : Nat) : Chan :=
  if c.flag (SC_CTL.RUN h) then
    ((c.sf (SC_CTL.RUN h) 0).dropWaiting h).onCore h (fun x => { x with waiting := false })
  else c

/-- The cores' own load or atomic in flight: its value will find no register. -/
def Chan.forgetLoads (c : Chan) (h : Nat) : Chan :=
  let f := fun (o : Op) => match o.cont with
    | .core k _ _ _ _ => if k = h then { o with cont := .ack } else o
    | _ => o
  ((c.withOps (c.ops.map f)).withOpq (c.opq.map f))

/-- RESET written: architectural state and caches at reset, the TCM and the watchdog kept, RUN cleared. -/
def Chan.scReset (c : Chan) (h : Nat) : Chan :=
  let c := ((c.sf (SC_CTL.RUN h) 0).dropWaiting h).forgetLoads h
  c.onCore h (fun x => { tcm := x.tcm, kick := x.kick, expired := x.expired })

/-- A write of SC_CTL; RESET takes precedence, since it clears RUN. -/
def Chan.scCtl (c : Chan) (h v : Nat) : Chan :=
  if bit v 1 then c.scReset h else if bit v 0 then c.scRun h else c.scStop h

/-- SC_STAT (R211). -/
def Chan.scStat (c : Chan) (h : Nat) : Nat := b2n (c.flag (SC_CTL.RUN h)) + 2 * b2n (c.core h).waiting

/-! ### Watchdogs (R209) -/

/-- A kick restarts the period and ends the assertion of the source. -/
def Chan.wdogKick (c : Chan) (h v : Nat) : Chan :=
  if bit v 0 then c.onCore h (fun x => { x with kick := c.now, expired := false }) else c

/-- A write of SC_WDOG: the period begins. -/
def Chan.wdogWrite (c : Chan) (h v : Nat) : Chan := (c.wrFields (SC_WDOG.off h) v).onCore h (fun x => { x with kick := c.now })

/-- The channel is to be fenced for a cause; the first cause stays. -/
def Chan.askFence (c : Chan) (cause : Nat) : Chan :=
  (c.withFenceReq (if c.fenceReq.isSome then c.fenceReq else some cause))

/-- WDOG_EXPIRED: the first expiry asserts the source; the second without a kick in between fences the channel. -/
def Chan.wdogExpired (c : Chan) (h : Nat) : Chan :=
  let x := c.core h
  let p := c.gf (SC_WDOG.PERIOD_US h)
  if 4 ≤ h ∨ p = 0 ∨ c.now < x.kick + p * tUs then c
  else if x.expired then
    ((c.setCore h { x with kick := c.now }).ev 0x0D 0x23 3 (det [(16, 1, h)])).askFence 4
  else (c.setCore h { x with kick := c.now, expired := true }).ev 0x0D 0x22 2 (det [(16, 1, h)])

/-- SVC_WDOG_EXPIRY. -/
def Chan.svcWdogExpiry (c : Chan) : Chan :=
  if c.flag SVC_STAT.UP then (c.ev 0x0E 0x23 3 (det [(16, 1, 4)])).askFence 4 else c

/-! ### Errors in caches and TCM (R204) -/

/-- CORE_CORRECTED and CORE_FAULT. -/
def Chan.coreCorrected (c : Chan) (h part : Nat) : Chan := c.ev (coreBlock h) 0x20 1 (det [(16, 1, h), (17, 1, part)])
def Chan.coreFault (c : Chan) (h part : Nat) : Chan :=
  (c.ev (coreBlock h) 0x21 3 (det [(16, 1, h), (17, 1, part)])).askFence 3

/-- An error is found in the instruction cache (part 0), the data cache (1) or the TCM (2). -/
def Chan.coreUpset (c : Chan) (h part line : Nat) (corrected : Bool) : Chan :=
  let x := c.core h
  if 5 ≤ h ∨ !c.computeOn then c
  else if part = 0 then
    match tget? line x.icache with
    | none => c
    | some _ =>
      if corrected then c.coreCorrected h 0
      else (c.setCore h { x with icache := terase line x.icache }).coreCorrected h 0
  else if part = 1 then
    match tget? line x.dcache with
    | none => c
    | some (dirty, _) =>
      if corrected then c.coreCorrected h 1
      else if dirty then c.coreFault h 1
      else (c.setCore h { x with dcache := terase line x.dcache }).coreCorrected h 1
  else if part = 2 then if corrected then c.coreCorrected h 2 else c.coreFault h 2
  else c

end Sys2Proof.Machine
end

