-- ==== Sys2Proof/Machine/Link.lean ====
section
/-!
DEFINITION. Ivell ports (R346 to R353): flits in and out, hall passes, link retry, lanes and training.
-/
namespace Sys2Proof.Machine

/-- Is the port one of the two internal ones? -/
def isZ (p : Nat) : Bool := 4 ≤ p

/-- R351: flit places of a virtual channel's input buffer. -/
def vcPlaces (p vc : Nat) : Nat := if vc < 2 then 32 else if isZ p then 128 else 64

def replayMax : Nat := 2048

/-! ### Flits out -/

/-- The virtual channel whose passes the next flit returns, and how many. -/
def Port.credit (x : Port) : Option (Nat × Nat) := x.crPend.head?.map (fun e => (e.1, min 255 e.2))

/-- A flit leaves: it carries the acknowledgement and returns the passes `cr`. -/
def Port.put (x : Port) (lseq vc kind : Nat) (payload : List Byte) (cr : Option (Nat × Nat)) : Port :=
  let f : Flit :=
    { lseq := lseq, vc := vc, kind := kind, plen := payload.length, ackSeq := (x.rexp + 0xFFFF) % 0x10000
      crVc := (cr.map (·.1)).getD 0, crEn := cr.isSome, crCnt := (cr.map (·.2)).getD 0, payload := payload }
  { x with wire := x.wire ++ [f.bytes], ackDue := false }

/-- The passes that the next flit returns are owed no longer. -/
def Port.repaid (x : Port) : Port :=
  match x.credit with
  | some (v, n) => { x with crPend := tput (fun _ => 0) x.crPend v (tget (fun _ => 0) x.crPend v - n) }
  | none => x

/-- A flit that takes the next LSEQ and stays in the replay buffer, with the passes it returns, until it is acknowledged: a
flit that the far end discards is sent again with them (R351). -/
def Port.putSeq (x : Port) (vc kind : Nat) (payload : List Byte) : Port :=
  let y := x.repaid.put x.lseq vc kind payload x.credit
  { y with lseq := (x.lseq + 1) % 0x10000, replay := x.replay ++ [{ lseq := x.lseq, vc := vc, kind := kind, payload := payload, cr := x.credit }] }

/-- A link-control message leaves. -/
def Port.sendCtl (x : Port) (m : Ctl) : Port :=
  let pay := match m with
    | .nak l => (List.range 32).map (Config.linkCtl 1 l 0)
    | .laneSwap l sp => (List.range 32).map (Config.linkCtl 2 l sp)
    | .cap bs => bs
    | .retrain => (List.range 32).map (Config.linkCtl 3 0 0)
  let y := x.putSeq 0 5 pay
  { y with ctl := x.ctl ++ [m] }

/-- A link-control message, which waits while the replay buffer is full (R350). -/
def Port.putCtl (x : Port) (m : Ctl) : Port :=
  if x.ctlQ.isEmpty && decide (x.replay.length < replayMax) then x.sendCtl m else { x with ctlQ := x.ctlQ ++ [m] }

/-- The link-control messages for which there is room now; in a lane exchange only those of the exchange (R348). -/
def Port.flushCtl (x : Port) (quiet : Bool) : Port :=
  x.ctlQ.foldl (fun y m =>
    let swap := match m with | .laneSwap .. => true | _ => false
    if (quiet && !swap) || decide (replayMax ≤ y.replay.length) then { y with ctlQ := y.ctlQ ++ [m] } else y.sendCtl m)
    { x with ctlQ := [] }

/-- Virtual channels of a class with a flit ready and a pass. -/
def Port.ready (x : Port) (cls : Nat) : List Nat :=
  (List.range 16).filter (fun v => classOf v == cls && !(tget (fun _ => []) x.tx v).isEmpty && tget (fun _ => 0) x.passes v != 0)

/-- Virtual channels of one class take turns: the next one above the last served. -/
def takeTurn (vs : List Nat) (last : Nat) : Option Nat :=
  match vs.find? (fun v => last < v) with
  | some v => some v
  | none => vs.head?

/-- R357: the virtual channel that sends next, with the round-robin credits left. -/
def Port.pick (x : Port) (w : Nat × Nat × Nat) : Option (Nat × (Nat × Nat × Nat)) :=
  let turn (cls : Nat) : Option Nat := takeTurn (x.ready cls) (tget (fun _ => 0) x.lastVc cls)
  match turn 0 with
  | some v => some (v, x.wrr)
  | none =>
    match turn 4 with
    | some v => some (v, x.wrr)
    | none =>
      let sel (k : Nat × Nat × Nat) : Option (Nat × (Nat × Nat × Nat)) :=
        match turn 1, turn 2, turn 3 with
        | some v, b, c =>
          if k.1 ≠ 0 then some (v, (k.1 - 1, k.2.1, k.2.2))
          else match b, c with
            | some u, c => if k.2.1 ≠ 0 then some (u, (k.1, k.2.1 - 1, k.2.2))
                else match c with | some t => if k.2.2 ≠ 0 then some (t, (k.1, k.2.1, k.2.2 - 1)) else none | none => none
            | none, some t => if k.2.2 ≠ 0 then some (t, (k.1, k.2.1, k.2.2 - 1)) else none
            | none, none => none
        | none, some u, c =>
          if k.2.1 ≠ 0 then some (u, (k.1, k.2.1 - 1, k.2.2))
          else match c with | some t => if k.2.2 ≠ 0 then some (t, (k.1, k.2.1, k.2.2 - 1)) else none | none => none
        | none, none, some t => if k.2.2 ≠ 0 then some (t, (k.1, k.2.1, k.2.2 - 1)) else none
        | none, none, none => none
      match sel x.wrr with
      | some r => some r
      | none => sel w

/-- One flit of the packet at the head of a virtual channel leaves; a forwarded packet gives back the place it held. -/
def Chan.sendFlit (c : Chan) (p vc : Nat) (wrr : Nat × Nat × Nat) : Chan :=
  let x := c.port p
  match tget (fun _ => []) x.tx vc with
  | [] => c
  | e :: r =>
    let (kind, pay) := flitAt e.bytes e.sent
    let rest := if e.sent + 1 < flitsOf e.bytes.length then { e with sent := e.sent + 1 } :: r else r
    let x := x.putSeq vc kind pay
    let c := c.setPort p { x with
      tx := tput (fun _ => []) x.tx vc rest, wrr := wrr, lastVc := tput (fun _ => 0) x.lastVc (classOf vc) vc
      passes := tput (fun _ => 0) x.passes vc (tget (fun _ => 0) x.passes vc - 1) }
    c.freePlaces e.src 1

/-- Flits leave by a port while it is up, has room to replay, passes and something to send; `fuel` bounds their number. -/
def Chan.pumpPort : Nat → Chan → Nat → Chan
  | 0, c, _ => c
  | fuel + 1, c, p =>
    let x := c.port p
    if !c.linkUsable p || decide (c.now < x.quietUntil) || decide (replayMax ≤ x.replay.length) then c
    else
      match x.pick (c.gf CS_ARB.W_TC1, c.gf CS_ARB.W_TC2, c.gf CS_ARB.W_TC3) with
      | some (v, w) => Chan.pumpPort fuel (c.sendFlit p v w) p
      | none => c

/-- IDLE flits carry what acknowledgement and passes are still owed. -/
def Chan.pumpIdle : Nat → Chan → Nat → Chan
  | 0, c, _ => c
  | fuel + 1, c, p =>
    let x := c.port p
    if !c.linkUsable p || decide (c.now < x.quietUntil) || !(x.ackDue || !x.crPend.isEmpty) then c
    else Chan.pumpIdle fuel (c.setPort p (x.repaid.put x.lseq 0 0 [] x.credit)) p

/-- Flits waiting at a port. -/
def Port.waiting (x : Port) : Nat :=
  x.tx.foldl (fun n e => e.2.foldl (fun n t => n + flitsOf t.bytes.length) n) 0

/-- The flits of the replay buffer are sent again from the one numbered `l` on, in their order. -/
def Chan.resend (c : Chan) (p : Nat) (fs : List Kept) : Chan :=
  fs.foldl (fun c f => (c.onPort p (fun x => x.put f.lseq f.vc f.kind f.payload f.cr)).count (IV_CNT_REPLAY.COUNT p) 1) c

/-- Everything from flit `lseq` on is sent again; in a lane exchange, in which the port sends nothing, once that has ended (R348,
R350). -/
def Chan.resendFrom (c : Chan) (p lseq : Nat) : Chan :=
  let x := c.port p
  if c.now < x.quietUntil then c.onPort p (fun x => { x with again := some lseq })
  else (c.onPort p (fun x => { x with again := none })).resend p (x.replay.filter (fun f => notEarlier 16 f.lseq lseq))

/-- What waited for the end of a lane exchange: flits asked for by a NAK, and our own NAKs. -/
def Chan.quietEnds (c : Chan) (p : Nat) : Chan :=
  let x := c.port p
  if !c.linkUsable p || decide (c.now < x.quietUntil) || (x.again.isNone && x.ctlQ.isEmpty) then c
  else
    let c := match x.again with | some l => c.resendFrom p l | none => c
    c.onPort p (fun x => x.flushCtl false)

/-- What can leave the channel leaves: shaped bells, flits, acknowledgements and passes. -/
def Chan.pump (c : Chan) : Chan :=
  let c := (List.range 6).foldl Chan.quietEnds c
  let c := Chan.pumpTc0 c.tc0.length c
  let c := c.pumpOps
  let c := (List.range 6).foldl (fun c p => Chan.pumpPort (c.port p).waiting c p) c
  (List.range 6).foldl (fun c p => Chan.pumpIdle 256 c p) c

/-! ### A link goes down or is refused -/

/-- R362: what waits for a port that carries no packets is refused, a packet of which part has left among it (R355). -/
def Chan.dropTx (c : Chan) (p : Nat) : Chan :=
  let ents := ((c.port p).tx.map (·.2)).flatten
  let c := c.onPort p (fun x => { x with tx := [] })
  ents.foldl (fun c e =>
    let c := c.freePlaces e.src (flitsOf e.bytes.length - e.sent)
    c.refuse (parsePkt e.bytes) false) c

/-- R362: a DELIVER_X that waits for a link that came up at Ivell 2 is refused. -/
def Chan.dropUnsup (c : Chan) (p : Nat) : Chan :=
  if c.gf (IV_VER.NEG_VER p) ≠ 2 then c
  else
    let bad (e : TxEnt) : Bool := e.sent == 0 && (parsePkt e.bytes).ptype == pDELIVER_X
    let ents := (((c.port p).tx.map (·.2)).flatten).filter bad
    let c := c.onPort p (fun x => { x with tx := (x.tx.map (fun e => (e.1, e.2.filter (fun t => !bad t)))).filter (fun e => !e.2.isEmpty) })
    ents.foldl (fun c e => (c.freePlaces e.src (flitsOf e.bytes.length)).refuse (parsePkt e.bytes) true) c

/-- Nothing of a link that went down survives: LSEQ, passes, replay buffer, parts of packets, and flits on their way to the
next channel of the module start afresh. -/
def Chan.linkAfresh (c : Chan) (p : Nat) : Chan :=
  let c := c.onPort p (fun x =>
    { x with lseq := 0, rexp := 0, discard := false, ackDue := false, replay := [], ctlQ := [], passes := [], crPend := [], again := none, news := []
             granted := false, wire := if isZ p then [] else x.wire, ctl := if isZ p then [] else x.ctl
             fails := 0, rx := (x.rx.map (fun e => (e.1, { e.2 with asm := [], asmFlits := 0, pkts := e.2.pkts.map (fun k => (k.1, 0)) }))).filter
               (fun e => !e.2.pkts.isEmpty) })
  (List.range 6).foldl (fun c o => c.onPort o (fun x =>
    { x with tx := x.tx.map (fun e => (e.1, e.2.map (fun t =>
        match t.src with | some (q, _) => if q = p then { t with src := none } else t | none => t))) })) c

/-- A port goes DOWN: 0 retrains failed, 1 DISABLE, 2 no width left. -/
def Chan.linkDown (c : Chan) (p reason : Nat) : Chan :=
  if c.linkState p = linkDOWN then c
  else
    let was := c.linkBroken p
    let c := c.sf (IV_STAT.STATE p) linkDOWN
    let c := (c.linkAfresh p).dropTx p
    let c := c.ev 0x09 0xB1 2 (det [(16, 1, p), (17, 1, reason)])
    if was then c else c.linkBreaks p

/-! ### Training (R352, R353) -/

/-- A training begins. -/
def Chan.trainStart (c : Chan) (p : Nat) : Chan :=
  (c.sf (IV_STAT.STATE p) linkTRAINING).onPort p (fun x => { x with trainAt := c.now, capSeen := false, capSent := false, retraining := false, spared := [], lanes := [], quietUntil := 0, again := none })

/-- A retrain begins, and the peer is told. -/
def Chan.retrainStart (c : Chan) (p : Nat) : Chan :=
  let c := c.count (IV_CNT_RETRAIN.COUNT p) 1
  (c.trainStart p).onPort p (fun x => { (x.putCtl .retrain) with nakCount := 0, retraining := true })

/-- A retrain asked for by the peer, by the replay limit or by a loss of lock. -/
def Chan.retrain (c : Chan) (p : Nat) : Chan :=
  if p < 6 ∧ (c.linkUsable p ∨ c.linkState p = linkMISMATCH) then c.retrainStart p else c

/-- A port may train once the channel has ended P1 (R386); until then, and after faults 1 and 2, it stays DOWN (Table 14-4). -/
def Chan.mayTrain (c : Chan) (p : Nat) : Bool := p < 6 && 2 ≤ c.gf HR_CSTATE.PHASE && !c.flag (IV_CTL.DISABLE p)

/-- A write of IV_CTL.RETRAIN. -/
def Chan.ivRetrain (c : Chan) (p : Nat) : Chan :=
  if !c.mayTrain p ∨ c.linkState p = linkTRAINING then c else c.retrainStart p

/-- A port held DOWN sees its peer start training. -/
def Chan.peerTraining (c : Chan) (p : Nat) : Chan :=
  if c.mayTrain p ∧ c.linkState p = linkDOWN then c.retrainStart p else c

/-- A write of IV_CTL.DISABLE. -/
def Chan.ivDisable (c : Chan) (p v : Nat) : Chan :=
  if 6 ≤ p then c
  else
    let c := c.sf (IV_CTL.DISABLE p) v
    if v % 2 = 1 then c.linkDown p 1 else c

/-- A retrain fails, the third in succession excepted. -/
def Chan.retrainFailed (c : Chan) (p : Nat) : Chan :=
  let x := c.port p
  if p < 6 ∧ c.linkState p = linkTRAINING ∧ x.retraining ∧ x.fails < 2 then
    (c.onPort p (fun x => { x with fails := x.fails + 1 })).retrainStart p
  else c

/-- The third retrain in succession fails. -/
def Chan.linkFailed (c : Chan) (p : Nat) : Chan :=
  let x := c.port p
  if p < 6 ∧ c.linkState p = linkTRAINING ∧ x.retraining ∧ x.fails = 2 then c.linkDown p 0 else c

/-- R386: a port still in its first training at local time 60 s. -/
def Chan.trainingTimeout (c : Chan) (p : Nat) : Chan :=
  if p < 6 ∧ c.linkState p = linkTRAINING ∧ ¬ (c.port p).retraining ∧ c.t0 + 60 * tSec ≤ c.now then c.linkDown p 0 else c

def fEXT_DELIVER : Nat := 0
def fSCALED16 : Nat := 1
def fRESCALE : Nat := 2
def fNORM : Nat := 3
def fLANE_SPARE : Nat := 4

/-- This port's CAP (Table 13-4). -/
def Chan.capBytes (c : Chan) (p : Nat) : List Byte :=
  leBytes 1 3 ++ leBytes 1 p ++ leBytes 3 c.node ++ leBytes 2 (c.ringLen (axisOf p) - 1) ++ leBytes 1 0x1F ++
  leBytes 5 (c.gf (IV_LANES.GOOD p)) ++ leBytes 19 0

/-- Our CAP goes out once in a training. -/
def Chan.sendCap (c : Chan) (p : Nat) : Chan :=
  let cap := c.capBytes p
  c.onPort p (fun x => if x.capSent then x else { (x.putCtl (.cap cap)) with capSent := true })

/-- The peer's CAP arrives in training; ours goes out if it has not yet. -/
def Chan.capArrives (c : Chan) (p : Nat) (bs : List Byte) : Chan :=
  if 6 ≤ p ∨ c.linkState p ≠ linkTRAINING then c
  else
    let ver := leAt bs 0 1
    let neg := min 3 ver
    let reason :=
      if leAt bs 1 1 ≠ oppositePort p then 1
      else if leAt bs 5 2 + 1 ≠ c.ringLen (axisOf p) then 2
      else if ver < 2 then 3 else 0
    let c := (c.sf (IV_VER.NEG_VER p) neg).sf (IV_VER.PEER_FEAT p) (leAt bs 7 1)
    let c := c.sf (IV_VER.FEAT p) (if neg = 3 then leAt bs 7 1 &&& 0x1F else 0)
    let c := (c.sf (IV_STAT.MM_REASON p) reason).sf (IV_STAT.PEER_NODE p) (leAt bs 2 3)
    (c.sendCap p).onPort p (fun x => { x with capSeen := true })

/-- Lanes in use at full width, spares, and half the width. -/
def lanesOf (p : Nat) : Nat := if isZ p then 32 else 8
def sparesOf (p : Nat) : Nat := if isZ p then 2 else 1

/-- R348, R352: the width that good lanes allow: (lanes full, spares used) or half, or none. -/
def Chan.widthOf (c : Chan) (p : Nat) : Option (Bool × Nat) :=
  let g := c.gf (IV_LANES.GOOD p)
  let n := lanesOf p
  let sp := if isZ p || bit (c.gf (IV_VER.FEAT p)) fLANE_SPARE then popcount (sparesOf p) (g / 2 ^ n) else 0
  let bad := n - popcount n g
  if bad ≤ sp then some (true, bad)
  else if n / 2 ≤ popcount n g + sp then some (false, 0)
  else none

/-- The spare lanes of a port that are good, lowest first. -/
def Chan.goodSpares (c : Chan) (p : Nat) : List Nat :=
  if isZ p || bit (c.gf (IV_VER.FEAT p)) fLANE_SPARE then
    ((List.range (sparesOf p)).map (lanesOf p + ·)).filter (fun l => bit (c.gf (IV_LANES.GOOD p)) l)
  else []

/-- The lanes that a training takes into use: at full width the good lanes with spares for the bad ones, at half width the
lowest-numbered good lanes. -/
def Chan.lanesFor (c : Chan) (p : Nat) (full : Bool) (spares : Nat) : List Nat :=
  let good := (List.range (lanesOf p)).filter (fun l => bit (c.gf (IV_LANES.GOOD p)) l)
  if full then good ++ (c.goodSpares p).take spares else (good ++ c.goodSpares p).take (lanesOf p / 2)

/-- A training ends UP, HALF or in MISMATCH; with fewer good lanes than half width, DOWN (R348). -/
def Chan.linkTrained (c : Chan) (p rtt : Nat) : Chan :=
  let x := c.port p
  if 6 ≤ p ∨ c.linkState p ≠ linkTRAINING ∨ ¬ x.capSeen then c
  else
    match c.widthOf p with
    | none => c.linkDown p 2
    | some (full, spares) =>
      let used := c.lanesFor p full spares
      let c := c.onPort p (fun x => { x with trained := true, fails := 0, retraining := false, lanes := used })
      let c := (c.sf (IV_RTT.RTT_NS p) rtt).sf (IV_LANES.SPARES_USED p) (used.filter (lanesOf p ≤ ·)).length
      let mm := c.gf (IV_STAT.MM_REASON p)
      if mm ≠ 0 then
        let c := ((c.sf (IV_STAT.STATE p) linkMISMATCH).dropTx p).onPort p (fun x => { x with news := [] })
        let c := c.ev 0x09 0xB4 2 (det [(16, 1, p), (17, 1, mm), (18, 3, c.gf (IV_STAT.PEER_NODE p))])
        c.linkBreaks p
      else
        let c := c.sf (IV_STAT.STATE p) (if full then linkUP else linkHALF)
        let c := if x.granted then c else
          c.onPort p (fun x => { x with granted := true, passes := (List.range 16).map (fun v => (v, vcPlaces p v)) })
        let c := c.ev 0x09 0xB0 0 (det [(16, 1, p), (17, 1, c.gf (IV_VER.NEG_VER p)), (18, 1, popcount 34 (c.gf (IV_LANES.GOOD p)))])
        let c := if full then c else c.ev 0x09 0xB3 2 (det [(16, 1, p)])
        let c := c.resend p (c.port p).replay
        ((c.dropUnsup p).linkMends p).ringHeld p

/-! ### Lanes (R348) -/

/-- The lowest-numbered good spare that is not yet in use. -/
def Chan.freeSpare (c : Chan) (p : Nat) : Option Nat := (c.goodSpares p).find? (fun l => !(c.port p).lanes.contains l)

/-- A lane is replaced by a spare. -/
def Chan.useSpare (c : Chan) (p lane spare : Nat) : Chan :=
  let c := c.count (IV_LANES.SPARES_USED p) 1
  let c := c.onPort p (fun x => { x with spared := x.spared ++ [lane], lanes := x.lanes.erase lane ++ [spare], quietUntil := c.now + 20 * tUs })
  c.ev 0x09 0xB2 1 (det [(16, 1, p), (17, 1, lane), (18, 1, spare)])

/-- A lane loses lock, or `corr` more symbols of it were corrected in the present second.  A lane that is not in use is not
replaced: it is good no longer, and that is all. -/
def Chan.laneSpared (c : Chan) (p lane : Nat) (lock : Bool) (corr : Nat) : Chan :=
  if 6 ≤ p ∨ ¬ c.linkUsable p then c
  else if !(c.port p).lanes.contains lane then
    if lock then c.sf (IV_LANES.GOOD p) (setBits (c.gf (IV_LANES.GOOD p)) lane 1 0) else c
  else
    let k := 0x100 + p * 64 + lane
    let c := if isZ p then c else (c.rateBump k corr).count (IV_CNT_FEC_CORR.COUNT p) corr
    if !(lock || (!isZ p && decide (c.gf (IV_LANE_LIMIT.CORR_PER_S p) < c.rateCount k))) then c
    else
      let good := c.gf (IV_LANES.GOOD p)
      let c := c.sf (IV_LANES.GOOD p) (setBits good lane 1 0)
      match c.freeSpare p with
      | some sp => (c.useSpare p lane sp).onPort p (fun x => x.putCtl (.laneSwap lane sp))
      | none =>
        match c.widthOf p with
        | some _ => c.retrainStart p
        | none => c.linkDown p 2

/-- The peer's LANE_SWAP: the answer to our own, or a lane that the peer found bad. -/
def Chan.laneSwap (c : Chan) (p lane spare : Nat) : Chan :=
  if 6 ≤ p ∨ ¬ c.linkUsable p ∨ (c.port p).spared.contains lane ∨ c.freeSpare p ≠ some spare then c
  else
    let c := c.sf (IV_LANES.GOOD p) (setBits (c.gf (IV_LANES.GOOD p)) lane 1 0)
    (c.useSpare p lane spare).onPort p (fun x => x.putCtl (.laneSwap lane spare))

/-! ### Flits in (R349 to R351) -/

/-- A flit accepted: its payload joins its virtual channel's buffer. -/
def VcRx.take (r : VcRx) (kind : Nat) (pay : List Byte) : VcRx :=
  if kind = 1 then { r with pkts := r.pkts ++ [(pay, 1)] }
  else if kind = 2 then { r with asm := pay, asmFlits := 1 }
  else if kind = 3 then { r with asm := r.asm ++ pay, asmFlits := r.asmFlits + 1 }
  else { asm := [], asmFlits := 0, pkts := r.pkts ++ [(r.asm ++ pay, r.asmFlits + 1)] }

/-- Acknowledged flits leave the replay buffer, which makes room for link-control messages that wait. -/
def Port.acked (x : Port) (ack : Nat) (quiet : Bool) : Port :=
  { x with replay := x.replay.filter (fun f => later 16 f.lseq ack) }.flushCtl quiet

/-- Passes returned. -/
def Port.credited (x : Port) (f : Flit) : Port :=
  if f.crEn then { x with passes := tput (fun _ => 0) x.passes f.crVc (tget (fun _ => 0) x.passes f.crVc + f.crCnt) } else x

/-- The receiver discards and names the LSEQ it expects, in a lane exchange once that has ended. -/
def Port.sendNak (quiet : Bool) (x : Port) : Port :=
  { (if quiet then { x with ctlQ := x.ctlQ ++ [.nak x.rexp] } else x.putCtl (.nak x.rexp)) with discard := true }

/-- A flit arrives on a link.  One that was damaged on its way (`bad`), or whose CRC is wrong, is discarded. -/
def Chan.flitIn (c : Chan) (p : Nat) (bs : List Byte) (bad : Bool) : Chan :=
  if 6 ≤ p ∨ ¬ (c.linkUsable p ∨ c.linkState p = linkTRAINING) then c
  else
    let quiet : Bool := c.now < (c.port p).quietUntil
    if bad || !flitOk bs then (c.count (IV_CNT_CRC.COUNT p) 1).onPort p (Port.sendNak quiet)
    else
      let f := parseFlit bs
      let x := c.port p
      if f.lseq ≠ x.rexp then
        if x.discard ∨ ¬ later 16 f.lseq x.rexp then c else c.onPort p (Port.sendNak quiet)
      else
        let x := ((x.acked f.ackSeq quiet).credited f)
        let x := { x with discard := false }
        if f.kind = 0 then c.setPort p x
        else
          let x := { x with rexp := (x.rexp + 1) % 0x10000, ackDue := true }
          if f.kind = 5 then c.setPort p x
          else if 5 < f.kind then
            c.setPort p { x with crPend := tput (fun _ => 0) x.crPend f.vc (tget (fun _ => 0) x.crPend f.vc + 1) }
          else
            c.setPort p { x with rx := tput (fun _ => {}) x.rx f.vc ((tget (fun _ => {}) x.rx f.vc).take f.kind f.payload) }

/-- A NAK: everything from the flit it names on is sent again; the sixteenth NAK of one flit starts a retrain. -/
def Chan.nakIn (c : Chan) (p lseq : Nat) : Chan :=
  if 6 ≤ p ∨ ¬ c.linkUsable p then c
  else
    let x := c.port p
    let n := if x.nakSeq = lseq then x.nakCount + 1 else 1
    let c := c.setPort p { x with nakSeq := lseq, nakCount := n }
    if 16 ≤ n then c.retrainStart p
    else c.resendFrom p lseq

/-- The good lanes that a training finds, at which our CAP goes out (R352). -/
def Chan.lanesFound (c : Chan) (p map : Nat) : Chan :=
  if p < 6 ∧ c.linkState p = linkTRAINING then (c.sf (IV_LANES.GOOD p) (map % 2 ^ (lanesOf p + sparesOf p))).sendCap p else c

/-- Codewords of an external port that the FEC could not correct; the flit CRC catches them (R347, R375). -/
def Chan.fecUncorrectable (c : Chan) (p n : Nat) : Chan :=
  if p < 4 ∧ c.linkUsable p then c.count (IV_CNT_FEC_UNCORR.COUNT p) n else c

/-! ### The Z ring inside the module (R15) -/

/-- The Z port at the other end of a Z link: Z+ of a channel and Z− of the next. -/
def zPeer (n : Fin 4) (p : Nat) : Fin 4 × Nat := if p = 4 then (n + 1, 5) else (n + 3, 4)

/-- The port at the other end of a Z link. -/
def State.zFar (s : State) (n : Fin 4) (p : Nat) : Port := (s.chan (zPeer n p).1).port (zPeer n p).2

/-- That port changed. -/
def State.onZFar (s : State) (n : Fin 4) (p : Nat) (f : Port → Port) : State :=
  s.onChan (zPeer n p).1 (fun c => c.onPort (zPeer n p).2 f)

/-- FLIT: on an external port the flit that the cable brings; on a Z port the oldest flit that the next channel has sent, which
is damaged on its way where `bytes` differ from it. -/
def State.flit (s : State) (n : Fin 4) (p : Nat) (bytes : List Byte) : State :=
  if isZ p then
    match (s.zFar n p).wire with
    | [] => s
    | f :: r => (s.onZFar n p (fun x => { x with wire := r })).onChan n (fun c => c.flitIn p f (bytes != f))
  else s.onChan n (fun c => c.flitIn p bytes false)

/-- A link-control message reaches a port; on a Z port, one that the next channel has sent and that has not arrived yet. -/
def State.ctlIn (s : State) (n : Fin 4) (p : Nat) (m : Ctl) (f : Chan → Chan) : State :=
  if isZ p then
    if (s.zFar n p).ctl.contains m then (s.onZFar n p (fun x => { x with ctl := x.ctl.erase m })).onChan n f else s
  else s.onChan n f

/-- The two ends of a Z link train together: an end cannot come up while the other is DOWN or without power. -/
def State.zReady (s : State) (n : Fin 4) (p : Nat) : Bool :=
  !isZ p || (s.chan (zPeer n p).1).linkState (zPeer n p).2 != linkDOWN

end Sys2Proof.Machine
end

