-- ==== Sys2Proof/Machine/Startup.lean ====
section
/-!
DEFINITION. Start-up of a channel, phases P1 to P3 (R378 to R390): sections, power-up, neighbour exchange, the seat.
-/
namespace Sys2Proof.Machine

/-! ### Phases -/

def Chan.phase (c : Chan) : Nat := c.gf HR_CSTATE.PHASE

/-- Local time in ticks. -/
def Chan.localTick (c : Chan) : Nat := c.now - c.t0

/-- A phase ends: its time, the next phase, PHASE_DONE (R378, R398). -/
def Chan.phaseDone (c : Chan) (n : Nat) : Chan :=
  ((c.sf (HR_BOOT_TIME.END_US n) c.localUs).sf HR_CSTATE.PHASE (n + 1)).ev 0x0C 0xC0 0 (det [(16, 1, n)])

/-- P2 begins on every port that is not disabled (R386). -/
def Chan.trainAll (c : Chan) : Chan :=
  (List.range 6).foldl (fun c p => if c.flag (IV_CTL.DISABLE p) then c else c.trainStart p) c

/-- P1 ends. -/
def Chan.p1Done (c : Chan) : Chan := (c.phaseDone 1).trainAll

/-- R385: a start-up fault; reasons 3 to 7 put the channel in BYPASS, where it goes on with P2. -/
def Chan.bootFault (c : Chan) (reason : Nat) : Chan :=
  let c := (c.sf HR_CSTATE.FAULT reason).ev 0x0C 0xC1 (if reason = 1 ∨ reason = 2 then 3 else 2)
    (det [(16, 1, c.phase), (17, 1, reason)])
  if 3 ≤ reason ∧ reason ≤ 7 then ((c.setCstate csBYPASS).sf CS_CFG.MODE 1).p1Done else c

/-- Order 5 of Table 15-3: the compute die is power-gated and the HBM put in self-refresh, their contents kept.  A channel fenced in
P1 runs P2, P3 and roll call in BYPASS as one with a fault does, once it has its node id (R385). -/
def Chan.fencePowerdown (c : Chan) : Chan :=
  match c.fencedAt with
  | none => c
  | some _ =>
    if c.cstate ≠ csFENCED then c
    else
      let c := (((c.sf HR_CSTATE.STATE csBYPASS).withFencedAt none).withNoCompute true)
      if c.phase = 1 ∧ c.boot.loaded then c.p1Done else c

/-- The channel is in P1, in BOOT. -/
def Chan.inP1 (c : Chan) : Bool := c.cstate == csBOOT && c.phase == 1

/-- P1 goes on while the link to the host-port die is not DOWN, and after fault 1 only once it has returned (R20, R473, Table
14-4). -/
def Chan.p1Runs (c : Chan) : Bool := c.inP1 && c.gf UC_STAT.STATE != 0 && (c.gf HR_CSTATE.FAULT != 1 || c.ucUp)

/-! ### Sections (R511 to R519) -/

/-- The start in flash of the booted copy. -/
def Hpd.copyBase (h : Hpd) : Nat := h.gf SYL_STAT.BOOT_COPY * 0x1F00000

/-- A byte of the flash; an unlisted one is erased, 0xFF (notes/assumptions/8.md). -/
def flashDefault : Nat → Byte := fun _ => 0xFF
def Hpd.flashByte (h : Hpd) (a : Nat) : Byte := tget flashDefault h.flash a
def Hpd.flashPeek (h : Hpd) (a n : Nat) : List Byte := (List.range n).map (fun i => h.flashByte (a + i))

/-- Header fields (Table 20-4) and section entries (Table 20-5). -/
def hNSEC (hd : List Byte) : Nat := leAt hd 6 1
def hEntry (hd : List Byte) (j : Nat) : List Byte := (hd.drop (256 + 64 * j)).take 64
def sTYPE (e : List Byte) : Nat := leAt e 0 2
def sCHMASK (e : List Byte) : Nat := leAt e 2 1
def sOFFSET (e : List Byte) : Nat := leAt e 4 4
def sLEN (e : List Byte) : Nat := leAt e 8 4
def sSVN (e : List Byte) : Nat := leAt e 12 4
def sDIGEST (e : List Byte) : List Byte := (e.drop 32).take 32

/-- The entries of a header that are delivered to channel `n`, with their places. -/
def entriesFor (hd : List Byte) (n : Nat) : List (Nat × List Byte) :=
  ((List.range (hNSEC hd)).map (fun j => (j, hEntry hd j))).filter (fun e => bit (sCHMASK e.2) n)

/-- Environment bounds of a section (R515), by place. -/
def envBound (e : List Byte) (i : Nat) : Nat := leAt e (2 * i) 2

/-- Does an ENVIRONMENT section stay within Table 19-6 and in order (R515)? -/
def envOk (e : List Byte) : Bool :=
  let b := envBound e
  let s (i : Nat) : Int := toSigned 16 (b i)
  decide (4800 ≤ b 0) && decide (b 1 ≤ 5800) && decide (4400 ≤ b 2) && decide (b 3 ≤ 6000) &&
  decide (15 * 16 ≤ s 4) && decide (s 5 ≤ 40 * 16) && decide (12 * 16 ≤ s 6) && decide (s 7 ≤ 45 * 16) &&
  decide (2000 ≤ b 8) && decide (1600 ≤ b 9) &&
  decide (b 2 ≤ b 0) && decide (b 0 < b 1) && decide (b 1 ≤ b 3) &&
  decide (s 6 ≤ s 4) && decide (s 4 < s 5) && decide (s 5 ≤ s 7) && decide (b 9 ≤ b 8)

/-- Types that every channel must receive. -/
def secNeeded : List Nat := [secPOSITION, secFABRIC, secENVIRONMENT, secFWSVC]

/-- The sections of a channel read from the booted copy: none where a check of R518 fails. -/
def Hpd.deliver (h : Hpd) (hd : List Byte) (n : Nat) : Option (List (Nat × Nat × List Byte)) :=
  let es := entriesFor hd n
  let secs := es.map (fun e => (e.1, sTYPE e.2, h.flashPeek (h.copyBase + sOFFSET e.2) (sLEN e.2)))
  let total := es.foldl (fun t e => t + sLEN e.2) 0
  if total ≤ 2 ^ 20 ∧
      (es.zip secs).all (fun x => shake256 x.2.2.2 == sDIGEST x.1.2) ∧
      secNeeded.all (fun t => secs.any (fun s => s.2.1 == t)) ∧
      secs.all (fun s => s.2.1 != secENVIRONMENT || envOk s.2.2)
  then some secs else none

/-- Order 3 of Table 14-5: the homeroom writes CS_CFG and CS_RING, and takes its role and idle delay (R372, R394, R512). -/
def Chan.sectionRegs (c : Chan) : Chan :=
  let pos := c.section1 secPOSITION
  let f := c.fabric
  let node := leAt pos 0 2 * 512 + leAt pos 2 1 * 4 + c.num
  let c := ((c.sf CS_CFG.NODE node).sf CS_CFG.TC0_HOP_LIMIT (leAt f 4 2)).sf CS_CFG.MODE 0
  let c := (c.sf CS_RING.NX_M1 (leAt f 0 2)).sf CS_RING.NY_M1 (leAt f 2 1)
  let c := match c.sectionsOf secPOWER with
    | [] => c
    | p :: _ => c.sf HR_IDLE_DELAY.DELAY_US (leAt p 0 2)
  c.sf HR_CSTATE.ROLE (if node = fabLeader f then 1 else if node = fabAlternate f then 2 else 0)

/-- SECTION_LOAD (R518, Table 14-5 orders 2 and 3).  A channel whose sections have failed stays in BOOT until module power good,
over a channel reset too (R385, R523). -/
def Chan.sectionLoad (c : Chan) (h : Hpd) : Chan :=
  if !c.inP1 || c.boot.loaded || c.gf HR_CSTATE.FAULT == 2 || !c.ucUp || c.refLost || h.sylOp.isSome then c
  else
    match h.header with
    | none => c
    | some hd =>
      match if c.boot.secBad then none else h.deliver hd c.num with
      | none => (c.withBoot ({ c.boot with secBad := true })).bootFault 2
      | some secs =>
        ((((c.withSections secs).withBoot ({ c.boot with loaded := true })) : Chan).sectionRegs).sf CH_CLK_STAT.ROOT_LOCK 1

/-! ### Dies (Table 14-5) -/

/-- BASE_DIE_READY: orders 4 and 5; the tests of scratchpad and HBM pass or fail. -/
def Chan.baseDieReady (c : Chan) (sp hbm : Bool) : Chan :=
  if !c.p1Runs || !c.boot.loaded || c.boot.base then c
  else if !sp then c.bootFault 3
  else if !hbm then c.zeroSp.bootFault 4
  else
    let c := (c.zeroSp.withBoot ({ c.boot with base := true }))
    if c.envBad then c.bootFault 5 else c

/-- R384: the stagger slot of the channel's position. -/
def Chan.staggerSlot (c : Chan) : Nat := (nodeX c.node + 7 * nodeY c.node) % 64

/-- COMPUTE_POWER_ON: order 6, at 7.0 s + slot × 50 ms or once the base-die events are complete; not where the environment
or T_base forbids it, at the reset or now (R482, R501; DEDUCED, notes/assumptions/117.md). -/
def Chan.computePowerOn (c : Chan) : Chan :=
  if !c.p1Runs || !c.boot.base || c.boot.compute || c.localTick < 7 * tSec + c.staggerSlot * (50 * tMs) then c
  else if c.boot.envBad || c.envForbids then c.bootFault 5
  else (((c.withNoCompute false).withQuietSince (some c.now)).withBoot ({ c.boot with compute := true }))

/-- COMPUTE_SELF_TEST: order 7; the service core comes up or not, and the self-test passes or fails. -/
def Chan.computeSelfTest (c : Chan) (svc ok : Bool) : Chan :=
  if !c.p1Runs || !c.boot.compute then c
  else if !svc then c.bootFault 7
  else if !ok then c.svcUp.bootFault 6
  else c.svcUp.p1Done

/-! ### P2 and P3 (R386 to R389) -/

/-- ROLLCALL bell data (Table 14-6). -/
structure RollBell where
  phase : Nat
  axis : Nat
  line : Bool
  minus : Bool
  state : Nat
  head : Nat
  hall : Nat
  node : Nat
  seat : Nat
  present : Nat
  bypass : Nat
  npres : Nat
  nbyp : Nat
  deriving DecidableEq, Repr

def RollBell.bytes (b : RollBell) : List Byte :=
  leBytes 1 b.phase ++ leBytes 1 b.axis ++ leBytes 1 (b2n b.line + 2 * b2n b.minus) ++ leBytes 1 b.state ++ leBytes 2 b.head ++
  leBytes 2 0 ++ leBytes 8 b.hall ++ leBytes 3 b.node ++ leBytes 1 b.seat ++ leBytes 44 0 ++ leBytes 40 b.present ++
  leBytes 40 b.bypass ++ leBytes 2 b.npres ++ leBytes 2 b.nbyp ++ leBytes 60 0

def parseRoll (d : List Byte) : RollBell :=
  { phase := leAt d 0 1, axis := leAt d 1 1, line := bit (leAt d 2 1) 0, minus := bit (leAt d 2 1) 1, state := leAt d 3 1
    head := leAt d 4 2, hall := leAt d 8 8, node := leAt d 16 3 % 2 ^ 18, seat := leAt d 19 1, present := leAt d 64 40
    bypass := leAt d 104 40, npres := leAt d 144 2, nbyp := leAt d 146 2 }

/-- The HALL digest: bytes [7:0] of the digest of FABRIC (R514). -/
def Chan.hall (c : Chan) : Nat := ofLe ((shake256 c.fabric).take 8)

/-- A bell of this channel with nothing but its identity. -/
def Chan.roll0 (c : Chan) : RollBell :=
  { phase := 0, axis := 0, line := false, minus := false, state := 0, head := 0, hall := c.hall, node := c.node, seat := 0,
    present := 0, bypass := 0, npres := 0, nbyp := 0 }

def Chan.nbr (c : Chan) (p : Nat) : Nbr := tget (fun _ => {}) c.boot.nbrs p
def Chan.setNbr (c : Chan) (p : Nat) (x : Nbr) : Chan :=
  (c.withBoot ({ c.boot with nbrs := tput (fun _ => {}) c.boot.nbrs p x }))

/-- A NEIGHBOUR bell goes out by a port. -/
def Chan.sendNeighbour (c : Chan) (p : Nat) : Chan :=
  let b := { c.roll0 with state := c.cstate, seat := b2n (c.flag CH_SEAT.SEATED) }
  (c.linkBell p bROLLCALL b.bytes).setNbr p { c.nbr p with sent := true }

/-- The node at the minus end of the link behind a port. -/
def Chan.minusEnd (c : Chan) (p : Nat) : Nat := if p % 2 = 0 then c.node else c.beyond p

/-- R387: the first failing check of a port, 1 SILENT, 2 NODE, 3 HALL, 4 VERSION. -/
def Chan.nbrFault (c : Chan) (p : Nat) : Nat :=
  match (c.nbr p).bell with
  | none => 1
  | some d =>
    let b := parseRoll d
    let peer := c.gf (IV_STAT.PEER_NODE p)
    if peer ≠ b.node ∨ peer ≠ c.beyond p then 2
    else if b.hall ≠ c.hall then 3
    else if c.gf (IV_VER.NEG_VER p) < fabVer c.fabric (c.minusEnd p) (axisOf p) then 4
    else 0

/-- The checks are made on a port; a failing port is disabled. -/
def Chan.nbrCheck (c : Chan) (p : Nat) : Chan :=
  let x := c.nbr p
  let r := c.nbrFault p
  let c := c.setNbr p { x with checked := true, bad := r != 0 }
  if r = 0 then c
  else
    let got := match x.bell with | some d => (parseRoll d).node | none => 0
    (c.ivDisable p 1).ev 0x0C 0xC2 2 (det [(16, 1, p), (17, 1, r), (18, 3, got)])

/-- The service core's work at P3: R388, R519.  A late channel takes no seat (R389). -/
def Chan.takeSeat (c : Chan) : Chan :=
  if c.cstate ≠ csBOOT then c
  else
    let mine := (c.sectionsOf secCHART).filter (fun m => (chSeatOf m c.node).isSome)
    match mine with
    | [] => c
    | [m] =>
      if !chartOk c.fabric m then c.bootFault 8
      else if c.flag HR_CSTATE.LATE then (c.install m).sf CH_SEAT.SEATED 0
      else c.install m
    | _ => c.bootFault 8

/-- R389, Table 14-9: the channel is late. -/
def Chan.late (c : Chan) (why : Nat) : Chan :=
  if c.flag HR_CSTATE.LATE then c
  else
    ((c.sf HR_CSTATE.LATE 1).sf CH_SEAT.SEATED 0).ev 0x0C 0xC5 2 (det [(16, 1, why)])

/-- A channel enters SUBSTITUTE_READY: its service core puts source 401 into the wake set (R229, R408) and asks for RECESS
(R382). -/
def Chan.toSubstitute (c : Chan) : Chan :=
  let e := Config.wakeEntry % 32
  (((c.setCstate csSUBSTITUTE).sf (HR_WAKE.SOURCE e) 401).sf (HR_WAKE.EN e) 1).pstateReq 3

/-- ALL_PRESENT moves a channel out of ROLLCALL (R396); one that arrived in BOOT does so when the channel enters ROLLCALL
(DEDUCED, notes/assumptions/63.md). -/
def Chan.rollcallEnds (c : Chan) : Chan :=
  if c.cstate ≠ csROLLCALL then c
  else if c.flag CH_SEAT.SEATED then c.setCstate csREADY
  else c.toSubstitute

/-- A neighbour that reports a state other than BOOT and ROLLCALL. -/
def Chan.nbrRunning (c : Chan) : Bool :=
  (List.range 6).any (fun p => match (c.nbr p).bell with | some d => 2 ≤ (parseRoll d).state | none => false)

/-- P3 ends. -/
def Chan.p3Done (c : Chan) : Chan :=
  let c := c.phaseDone 3
  let c := if 60 * tSec ≤ c.localTick then c.late 0 else if c.nbrRunning then c.late 1 else c
  let c :=
    if c.cstate ≠ csBOOT then c
    else if c.flag HR_CSTATE.LATE then c.toSubstitute
    else c.setCstate csROLLCALL
  if c.boot.gotAll then (c.phaseDone 4).rollcallEnds else c

/-- P2 and P3 end when their last event has occurred: every port trained or DOWN, the checks made on every usable port. -/
def Chan.startupSettle (c : Chan) : Chan :=
  let c :=
    if c.phase = 2 ∧ (List.range 6).all (fun p => c.linkState p != linkTRAINING) then
      let c := c.phaseDone 2
      let c := (c.withBoot ({ c.boot with p2 := some c.now }))
      let ports := (List.range 6).filter c.linkUsable
      let c := ports.foldl Chan.sendNeighbour c
      let c := ports.foldl (fun c p => if (c.nbr p).bell.isSome then c.nbrCheck p else c) c
      c.takeSeat
    else c
  if c.phase = 3 ∧ (List.range 6).all (fun p => !c.linkUsable p || (c.nbr p).checked) then c.p3Done else c

/-- R390: a port comes up; from P3 on it sends its NEIGHBOUR bell. -/
def Chan.portUp (c : Chan) (p : Nat) : Chan :=
  let c := c.setNbr p { upAt := some c.now }
  if 3 ≤ c.phase then c.sendNeighbour p else c

/-- LINK_UP. -/
def Chan.linkUp (c : Chan) (p rtt : Nat) : Chan :=
  let was := c.linkState p
  let c := c.linkTrained p rtt
  if was = linkTRAINING ∧ c.linkUsable p then c.portUp p else c

/-- Is the packet a ROLLCALL bell of a phase? -/
def isRoll (phase : Nat) (k : Pkt) : Bool := isBell bROLLCALL k && leAt k.data 0 1 == phase

/-- NEIGHBOUR: the bell is kept; from P3 on an answer is sent where none has been, and the checks are made. -/
def Chan.neighbour (c : Chan) (p vc : Nat) : Chan :=
  c.takeHere p vc (isRoll 0) (fun c k =>
    if 6 ≤ p then c
    else
      let c := c.setNbr p { c.nbr p with bell := some k.data }
      if c.phase < 3 then c
      else
        let c := if (c.nbr p).sent then c else c.sendNeighbour p
        if (c.nbr p).checked ∨ ¬ c.linkUsable p then c else c.nbrCheck p)

/-- NEIGHBOUR_TIMEOUT: 1 s after the end of P2, or after the port came up. -/
def Chan.neighbourTimeout (c : Chan) (p : Nat) : Chan :=
  let x := c.nbr p
  let from_ := max (c.boot.p2.getD 0) (x.upAt.getD 0)
  if 6 ≤ p ∨ c.phase < 3 ∨ ¬ c.linkUsable p ∨ x.checked ∨ x.bell.isSome ∨ c.now < from_ + tSec then c else c.nbrCheck p

end Sys2Proof.Machine
end

