-- ==== Sys2Proof/Machine/DieLink.lean ====
section
/-!
DEFINITION. The UCIe link to the host-port die, base-die side (R469 to R474), and the clocks (R475 to R478).
-/
namespace Sys2Proof.Machine

/-! ### Widths (R470) -/

/-- Clear bits of a map among lanes `lo` to `hi`. -/
def badLanes (g lo hi : Nat) : Nat := (hi + 1 - lo) - popcount (hi + 1 - lo) (g / 2 ^ lo)

/-- The width that the common map allows: (WIDTH, half or quarter); none where the exchange fails.  `red` false: the
redundant lanes are not used (R474). -/
def ucWidth (g : Nat) (red : Bool) : Option (Nat × Nat) :=
  let spare (h : Nat) : Nat := if red then popcount 2 (g / 2 ^ (64 + 2 * h)) else 0
  let okHalf (h : Nat) : Bool := badLanes g (32 * h) (32 * h + 31) ≤ spare h
  let okQuarter (q : Nat) : Bool := badLanes g (16 * q) (16 * q + 15) ≤ spare (q / 2)
  if okHalf 0 && okHalf 1 then some (3, 0)
  else if okHalf 0 then some (2, 0)
  else if okHalf 1 then some (2, 1)
  else ((List.range 4).find? okQuarter).map (fun q => (1, q))

/-- The steps of a training: 1 CAP awaited, 4 MAP awaited, 5 SEL awaited, 6 training at the width, 7 at the safe width. -/
def Chan.ucStep (c : Chan) (n : Nat) : Chan := (c.withUc ({ c.uc with step := n, since := c.now }))

def Chan.ucMapOwn (c : Chan) : Nat := c.gf UC_MAP_LOCAL.GOOD + c.gf UC_MAP_RED.LOCAL * 2 ^ 64
def Chan.ucMapPeer (c : Chan) : Nat := c.gf UC_MAP_PEER.GOOD + c.gf UC_MAP_RED.PEER * 2 ^ 64
def Chan.ucG (c : Chan) : Nat := c.ucMapOwn &&& c.ucMapPeer

/-- Redundant lanes serve unless the host-port die is of generation 2. -/
def Chan.ucRed (c : Chan) : Bool := c.hpdGen != 2

/-- Order 3: the lane test gives the side's map, and the lanes found bad enter its record. -/
def Chan.laneTest (c : Chan) : Chan :=
  let bad := c.uc.bad ||| (2 ^ 68 - 1 - c.uc.tested % 2 ^ 68)
  let m := 2 ^ 68 - 1 - bad
  let c := (c.withUc ({ c.uc with bad := bad }))
  ((c.sf UC_MAP_LOCAL.GOOD m).sf UC_MAP_RED.LOCAL (m / 2 ^ 64)).ucStep 4

/-- R471: a training begins: 0 reset, 1 retry limit, 2 RETRAIN.  The counter of retrains is zero after a channel reset (R484), so
that the training of the reset is not counted. -/
def Chan.ucTrain (c : Chan) (why : Nat) : Chan :=
  let c := ((c.sf UC_STAT.STATE 1).sf UC_STAT.WIDTH 0).sf UC_STAT.FAILS 0
  let c := if why = 0 then c else c.count UC_CNT_RETRAIN.COUNT 1
  (c.ev 0x0F 0x113 1 (det [(16, 1, why)])).ucStep 1

/-- Host-bound messages that wait for the link are dropped when it goes DOWN; their accesses then complete with error (R473). -/
def Chan.hostOpsLost (c : Chan) : Chan :=
  (c.withOut (c.out.filter (fun m => match m with | .hostWrite .. | .hostRead .. => false | _ => true)))

/-- Those of the channel's own units; the host queue's belong to the host-port die. -/
def Chan.ownHostLost (c : Chan) : Chan :=
  let hq (t : Nat) : Bool := c.ops.any (fun o => o.host && o.tid == t && o.q == 0x80)
  (c.withOut (c.out.filter (fun m => match m with | .hostWrite t .. => hq t | .hostRead t .. => hq t | _ => true)))

/-- The link goes DOWN. -/
def Chan.ucDown (c : Chan) : Chan :=
  let c := ((c.sf UC_STAT.STATE 0).sf UC_STAT.WIDTH 0).ucStep 0
  let c := (c.ev 0x0F 0x111 2 0).hostOpsLost
  if c.inP1 then c.bootFault 1 else c

/-- UC_CAP: version, generation and highest rate (1 for 32 GT/s) of the host-port die. -/
def Chan.ucCap (c : Chan) (ver gen rate : Nat) : Chan :=
  if c.uc.step ≠ 1 then c
  else
    let c := ((c.sf UC_VER.PEER_VER ver).sf UC_VER.PEER_GEN gen).withHpdGen (gen % 16)
    if gen ≠ 2 ∧ gen ≠ 3 then c.ucDown
    else ((c.withUc ({ c.uc with fast := decide (rate ≠ 0) && gen == 3 })) : Chan).laneTest

/-- An exchange fails at step `k`; the third failure takes the safe width (R472). -/
def Chan.ucFail (c : Chan) (k : Nat) : Chan :=
  let n := c.gf UC_STAT.FAILS + 1
  let c := ((c.withUc ({ c.uc with last := k })) : Chan).sf UC_STAT.FAILS n
  if n < 3 then c.laneTest else (c.ev 0x0F 0x112 2 (det [(16, 1, k)])).ucStep 7

/-- UC_MAP: the peer's map, without the lanes of its record. -/
def Chan.ucMap (c : Chan) (m : Nat) : Chan :=
  if c.uc.step ≠ 4 then c
  else
    let c := (c.sf UC_MAP_PEER.GOOD m).sf UC_MAP_RED.PEER (m / 2 ^ 64)
    match ucWidth c.ucG c.ucRed with
    | none => c.ucFail 4
    | some _ => c.ucStep 5

/-- UC_SEL: the peer's width, half or quarter, and check of G. -/
def Chan.ucSel (c : Chan) (width part chk : Nat) : Chan :=
  if c.uc.step ≠ 5 then c
  else if ucWidth c.ucG c.ucRed = some (width, part) ∧ chk = (Config.mapCheck c.ucG).toNat then c.ucStep 6
  else c.ucFail 5

/-- UC_EXCHANGE_TIMEOUT: a MAP or SEL missing after 1 ms. -/
def Chan.ucExchangeTimeout (c : Chan) : Chan :=
  if (c.uc.step = 4 ∨ c.uc.step = 5) ∧ c.uc.since + tMs ≤ c.now then c.ucFail c.uc.step else c

/-- UC_TRAINING_FAILED: step 6 fails. -/
def Chan.ucTrainingFailed (c : Chan) : Chan := if c.uc.step = 6 then c.ucFail 6 else c

def Chan.ucUpEv (c : Chan) : Chan :=
  (c.ev 0x0F 0x110 0 (det [(16, 1, c.gf UC_STAT.WIDTH), (17, 1, c.gf UC_STAT.PART), (18, 1, c.gf UC_STAT.RATE),
    (19, 1, c.gf UC_VER.PEER_GEN)])).ucStep 0

/-- UC_LINK_UP: at the selected width, or at the safe width. -/
def Chan.ucLinkUp (c : Chan) : Chan :=
  if c.uc.step = 6 then
    match ucWidth c.ucG c.ucRed with
    | some (w, q) =>
      let c := ((c.sf UC_STAT.STATE 2).sf UC_STAT.WIDTH w).sf UC_STAT.PART q
      ((c.sf UC_STAT.RATE (b2n c.uc.fast)).sf UC_STAT.FAILS 0).ucUpEv
    | none => c
  else if c.uc.step = 7 then
    (((c.sf UC_STAT.STATE 3).sf UC_STAT.WIDTH 1).sf UC_STAT.PART 0 |>.sf UC_STAT.RATE 0).ucUpEv
  else c

/-- UC_LINK_DOWN: the safe width does not train within 10 ms. -/
def Chan.ucLinkDown (c : Chan) : Chan := if c.uc.step = 7 ∧ c.uc.since + 10 * tMs ≤ c.now then c.ucDown else c

/-- UC_RETRY_LIMIT: sixteen successive retries of one flit. -/
def Chan.ucRetryLimit (c : Chan) : Chan := if c.ucUp then (c.count UC_CNT_RETRY.COUNT 16).ucTrain 1 else c

/-- The adapter has resent flits, short of the limit (R469, R484). -/
def Chan.ucResent (c : Chan) (n : Nat) : Chan := if c.ucUp then c.count UC_CNT_RETRY.COUNT n else c

/-- A write of UC_CTL. -/
def Chan.ucCtl (c : Chan) (v : Nat) : Chan := if bit v 0 then c.ucTrain 2 else c

/-! ### Clocks (R478) -/

/-- CLOCK_FAULT: the reference is lost, or the root PLL loses lock; the corridor switch stops with its clock, its links are
DOWN and its rings record breaks (R361); bells that it cannot send about them are not kept. -/
def Chan.clockFault (c : Chan) (root : Bool) : Chan :=
  let c := if root then c else c.sf CH_CLK_STAT.REF_LOST 1
  let c := (c.sf CH_CLK_STAT.ROOT_LOCK 0).ev 0x0C 0x120 3 (det [(16, 1, b2n root)])
  let c := if c.computeOn then c.fence 3 else c
  let held := c.tc0
  let wait := c.tc0Wait
  let c := (List.range 6).foldl (fun c p => if c.linkState p = linkDOWN then c else c.linkDown p 2) c
  (((c.withTc0 held).withTc0Wait wait).withRefLost true)

/-- REF_RETURN: the root relocks, the links of the switch train again, and their breaks mend as they come up. -/
def Chan.refReturn (c : Chan) : Chan :=
  if !c.refLost then c
  else
    let c := ((c.withRefLost false) : Chan).sf CH_CLK_STAT.ROOT_LOCK 1
    (List.range 6).foldl (fun c p => c.ivRetrain p) c

end Sys2Proof.Machine
end

