-- ==== Sys2Proof/Machine/Ethernet.lean ====
section
/-!
DEFINITION. The Ethernet port (R452 to R467): queue pairs, RDMA as requester and responder, congestion control and priority
flow control.  Packet times are not kept: the spacing of R463 is timing (NOTES.md, Scope).
-/
namespace Sys2Proof.Machine

/-! ### Queue pairs -/

def qpRESET : Nat := 0
def qpINIT : Nat := 1
def qpRTR : Nat := 2
def qpRTS : Nat := 3
def qpERROR : Nat := 4

def Chan.qp (c : Chan) (q : Nat) : Qp := tget (fun _ => {}) c.en.qps q
def Chan.setQp (c : Chan) (q : Nat) (x : Qp) : Chan := (c.withEn ({ c.en with qps := tput (fun _ => {}) c.en.qps q x }))
def Chan.onQp (c : Chan) (q : Nat) (f : Qp → Qp) : Chan := c.setQp q (f (c.qp q))
def Chan.qpState (c : Chan) (q : Nat) : Nat := c.gf (EN_QP_A.STATE q)

/-- EN_STAT.QP_ERR: the queue pairs in ERROR. -/
def Chan.qpCount (c : Chan) : Chan :=
  c.sf EN_STAT.QP_ERR ((List.range 64).filter (fun q => c.qpState q == qpERROR)).length

/-- The port works: enabled, its link up and its die powered. -/
def Chan.enOn (c : Chan) : Bool := c.flag EN_CFG.EN && c.flag EN_STAT.UP && c.baseOn

/-! ### Sending -/

/-- Bytes of payload of a frame (EN_CNT_TX). -/
def Frame.payload : Frame → Nat
  | .roce _ _ (.write _ _ d) | .roce _ _ (.send _ d) | .roce _ _ (.readResp _ d) => d.length
  | _ => 0

/-- The port's own addresses (R464). -/
def Chan.enMac (c : Chan) : Nat := c.gf EN_MAC.MAC
def Chan.enIp (c : Chan) : Nat :=
  if c.flag EN_CFG.IPV6 then c.rd EN_IP0.off + c.rd EN_IP1.off * 2 ^ 64 else c.rd EN_IP0.off % 2 ^ 32

/-- The Ethernet header of a frame to `dst`, with the VLAN tag where one is configured. -/
def Chan.ethTo (c : Chan) (dst : Nat) : Eth :=
  { dst := dst, src := c.enMac, vlan := if c.flag EN_CFG.VLAN_EN then some (c.gf EN_CFG.VLAN) else none }

/-- The headers of a packet of queue pair `q` (R453, Table 17-1, R464, R466): UDP destination port 4791 and ECT(0). -/
def Chan.roceHdr (c : Chan) (q : Nat) : RoceHdr :=
  { eth := c.ethTo (c.gf (EN_QP_B.DMAC q)), v6 := c.flag EN_CFG.IPV6, sip := c.enIp
    dip := if c.flag EN_CFG.IPV6 then c.rd (EN_QP_C.off q) + c.rd (EN_QP_D.off q) * 2 ^ 64 else c.rd (EN_QP_C.off q) % 2 ^ 32
    dscp := c.gf EN_CFG.DSCP, ecn := 2, sport := c.gf (EN_QP_A.SPORT q), dport := 4791, dqpn := c.gf (EN_QP_A.DQPN q) }

/-- A packet of queue pair `q` as a frame. -/
def Chan.frameOf (c : Chan) (q : Nat) (k : Roce) : Frame := .roce (c.roceHdr q) q k

def Chan.enOut (c : Chan) (f : Frame) : Chan :=
  ((c.withEn ({ c.en with frames := c.en.frames ++ [f] })) : Chan).count EN_CNT_TX.BYTES f.payload

/-- A RoCEv2 packet of queue pair `q` is sent, or waits while the peer holds the priority or the link is down. -/
def Chan.enSend (c : Chan) (q : Nat) (k : Roce) : Chan :=
  if c.enOn ∧ c.en.pausedTo.isNone ∧ c.en.held = [] then c.enOut (c.frameOf q k)
  else (c.withEn ({ c.en with held := c.en.held ++ [c.frameOf q k] }))

/-- Waiting packets go once nothing holds them. -/
def Chan.enFlush (c : Chan) : Chan :=
  if c.enOn ∧ c.en.pausedTo.isNone then
    c.en.held.foldl Chan.enOut (c.withEn ({ c.en with held := [] }))
  else c

/-- `b` to `a` in 24-bit packet sequence numbers; the upper half of the circle counts as before. -/
def psnOff (a b : Nat) : Nat := (a + 2 ^ 24 - b % 2 ^ 24) % 2 ^ 24
def psnGe (a b : Nat) : Bool := psnOff a b < 2 ^ 23

/-- Packets of a message of `n` bytes. -/
def enPkts (n : Nat) : Nat := max 1 ((n + 4095) / 4096)

/-- A message is given up and its command fails. -/
def Chan.enGiveUp (c : Chan) (q code : Nat) (m : EnMsg) : Chan :=
  (c.onQp q (fun x => { x with msgs := x.msgs.filter (fun u => !(u.te == m.te && u.cmd == m.cmd)) })).fail m.te m.cmd code 0

/-- The data of packet `i` of a message. -/
def Chan.enData (c : Chan) (m : EnMsg) (i : Nat) : List Byte :=
  match m.inl with
  | some d => (d.drop (4096 * i)).take 4096
  | none => c.peek (m.lcl + 4096 * i) (min 4096 (m.len - 4096 * i))

/-- The packets of a message from its packet `m.got` on (WRITE, SEND), or its request for the bytes still to come (READ).  The
data to be sent are read through the symbol code; uncorrectable ones are not sent (R38). -/
def Chan.enEmit (c : Chan) (q : Nat) (m : EnMsg) : Chan :=
  if m.op = 0 then c.enSend q (.readReq ((m.psn + m.got / 4096) % 2 ^ 24) (m.va + m.got) m.key (m.len - m.got))
  else
    let (bad, c) := if m.inl.isSome then (false, c) else c.access 0 (m.lcl + 4096 * m.got) (m.len - 4096 * m.got)
    if bad then c.enGiveUp q haltMEM m
    else
      (List.range (m.pkts - m.got)).foldl (fun c j =>
        let i := m.got + j
        let psn := (m.psn + i) % 2 ^ 24
        let data := c.enData m i
        c.enSend q (if m.op = 2 then .send psn data else .write psn (if i = 0 then some (m.va, m.key, m.len) else none) data)) c

/-! ### RDMA commands (R456 to R458) -/

def rdQP (raw : List Byte) : Nat := fieldOf raw 24 24
def rdOP (raw : List Byte) : Nat := fieldOf raw 25 25
def rdLEN (raw : List Byte) : Nat := fieldOf raw 48 51

/-- The port's messages in flight. -/
def Chan.enMsgs (c : Chan) : Nat := c.en.qps.foldl (fun n e => n + e.2.msgs.length) 0

/-- LOCAL as an INLINE source of a WRITE or SEND (R66, R95). -/
def rdInline (seg : Option Seg) (raw : List Byte) : Option (List Byte) :=
  match operand seg raw 32 (rdOP raw != 0) (rdLEN raw) with
  | .inl p => some ((raw.drop p).take (rdLEN raw))
  | _ => none

/-- The place of LOCAL, when it is in the channel's own memory. -/
def rdLocal (seg : Option Seg) (raw : List Byte) : Option Nat :=
  match operand seg raw 32 (rdOP raw != 0) (rdLEN raw) with
  | .addr g => (match locOf g with | .lcl a => if inMem a (rdLEN raw) then some a else none | _ => none)
  | _ => none

def Chan.rdmaStart (c : Chan) (q seq : Nat) : Chan :=
  match (c.queue q).cmd? seq with
  | none => c
  | some h =>
    let raw := h.raw
    let p := rdQP raw
    let n := rdLEN raw
    let inl := rdInline (c.segOf q) raw
    let a := (rdLocal (c.segOf q) raw).getD 0
    let (bad, c) := if rdOP raw = 0 ∨ inl.isSome then (false, c) else c.access 0 a n
    if bad then c.fail q seq haltMEM 0
    else
      let m : EnMsg :=
        { te := q, cmd := seq, op := rdOP raw, psn := c.gf (EN_QP_E.SPSN p), pkts := enPkts n
          va := fieldOf raw 40 47, key := fieldOf raw 52 55, lcl := a, inl := inl, len := n, got := 0 }
      let x := c.qp p
      let c := c.setQp p { x with
        msgs := x.msgs ++ [m], since := if x.msgs = [] then c.now else x.since, retries := if x.msgs = [] then 0 else x.retries }
      let c := c.sf (EN_QP_E.SPSN p) (m.psn + m.pkts)
      (c.onCmd q seq (fun h => { h with out := 1 })).enEmit p m

def specRdma : CmdSpec where
  fields _ _ seg raw :=
    mustBe 24 (rdQP raw < 64) ++ mustBe 25 (rdOP raw ≤ 2) ++ zeroField raw 26 31 ++
    opdField seg raw 32 (rdOP raw != 0) (rdLEN raw) ++
    mustBe 40 (rdOP raw != 2 || (fieldOf raw 40 47 == 0 && fieldOf raw 52 55 == 0)) ++
    mustBe 48 (1 ≤ rdLEN raw && rdLEN raw ≤ (if rdOP raw = 2 then 4096 else 2 ^ 31)) ++ zeroField raw 56 63
  addrs _ _ seg raw := if opdNoBase seg raw 32 ∨ (rdLocal seg raw).isSome ∨ (rdInline seg raw).isSome then [] else [32]
  rows c q seg raw :=
    noBaseRow seg raw [32] ++ (if c.inRegion q then [4] else []) ++
    (if c.qpState (rdQP raw) = qpRTS ∧ c.gf (EN_QP_A.OWNER (rdQP raw)) = q - 0x18 then [] else [9])
  credit c _ _ raw :=
    c.enMsgs < 256 && (rdOP raw != 0 || ((c.qp (rdQP raw)).msgs.filter (fun m => m.op == 0)).length < 16)
  start c q seq := c.rdmaStart q seq

/-! ### Completion and errors of the requester (R458, R459) -/

/-- The messages of a queue pair are given up: their commands fail with RDMA_ERROR, the oldest first. -/
def Chan.enDrop (c : Chan) (q : Nat) : Chan :=
  let ms := (c.qp q).msgs
  let c := c.onQp q (fun x => { x with msgs := [], retries := 0, rnr := 0 })
  let c := (c.withEn ({ c.en with held := c.en.held.filter (fun f => match f with
    | .roce _ p (.write _ _ _) | .roce _ p (.send _ _) | .roce _ p (.readReq _ _ _ _) => p != q
    | _ => true) }))
  ms.foldl (fun c m => c.fail m.te m.cmd haltRDMA 0) c

/-- A queue pair enters ERROR. -/
def Chan.qpError (c : Chan) (q why : Nat) : Chan :=
  ((c.sf (EN_QP_A.STATE q) qpERROR).qpCount.ev 0x10 0xF2 2 (det [(16, 1, q), (17, 1, why)])).enDrop q

/-- A message is complete. -/
def Chan.enDone (c : Chan) (m : EnMsg) : Chan := c.part m.te m.cmd 1

/-- An acknowledgement of every packet up to `psn`: WRITEs and SENDs that it covers complete. -/
def Chan.enAcked (c : Chan) (q psn : Nat) : Chan :=
  let ms := (c.qp q).msgs
  let covered (m : EnMsg) : Bool := m.op != 0 && psnGe psn (m.psn + m.pkts - 1)
  let moved := ms.any (fun m => m.op != 0 && psnGe psn (m.psn + m.got))
  let c := c.onQp q (fun x => { x with
    msgs := (ms.filter (fun m => !covered m)).map (fun m =>
      if m.op != 0 && psnGe psn (m.psn + m.got) then { m with got := psnOff psn m.psn + 1 } else m)
    since := if moved then c.now else x.since
    retries := if moved then 0 else x.retries
    rnr := if moved then 0 else x.rnr })
  (ms.filter covered).foldl Chan.enDone c

/-- Is a number one that the queue pair has sent and that lies in or after its oldest message? -/
def Chan.psnSent (c : Chan) (q psn : Nat) : Bool :=
  match (c.qp q).msgs with
  | [] => false
  | m :: _ => psnGe psn m.psn && psnOff psn m.psn < psnOff (c.gf (EN_QP_E.SPSN q)) m.psn

/-- The queue pair sends anew from its first unacknowledged packet (go-back-N). -/
def Chan.enResend (c : Chan) (q : Nat) : Chan :=
  let ms := (c.qp q).msgs
  let n := ms.foldl (fun n m => n + (if m.op = 0 then 1 else m.pkts - m.got)) 0
  let c := c.onQp q (fun x => { x with since := c.now })
  ms.foldl (fun c m => c.enEmit q m) (c.count EN_CNT_RETX.COUNT n)

/-- A retransmission counts against RETRY. -/
def Chan.enRetry (c : Chan) (q : Nat) : Chan :=
  if c.gf EN_CFG.RETRY ≤ (c.qp q).retries then c.qpError q 1
  else (c.onQp q (fun x => { x with retries := x.retries + 1 })).enResend q

/-! ### Congestion control (R463) -/

/-- A packet marked CE: at most one CNP per queue pair in CNP_US. -/
def Chan.ceMarked (c : Chan) (q : Nat) (ce : Bool) : Chan :=
  if !ce then c
  else
    match (c.qp q).cnpAt with
    | some t => if c.now < t + c.gf EN_CC.CNP_US * tUs then c
                else (c.onQp q (fun x => { x with cnpAt := some c.now })).enOut (c.frameOf q .cnp)
    | none => (c.onQp q (fun x => { x with cnpAt := some c.now })).enOut (c.frameOf q .cnp)

/-- A fraction in lowest terms. -/
def lowest (n d : Nat) : Nat × Nat := (n / Nat.gcd n d, d / Nat.gcd n d)

/-- A frame that the port does not take: discarded and counted (R453). -/
def Chan.enDiscard (c : Chan) : Chan := if c.enOn then c.count EN_CNT_DISCARD.COUNT 1 else c

/-- CNP. -/
def Chan.cnpIn (c : Chan) (q : Nat) : Chan :=
  if !c.enOn ∨ 64 ≤ q then c.enDiscard
  else
    let c := c.count EN_CNT_CNP.COUNT 1
    let x := c.qp q
    match x.fell with
    | some t => if c.now < t + 50 * tUs then c else fall c x
    | none => fall c x
where
  fall (c : Chan) (x : Qp) : Chan :=
    let n := x.rateNum * (256 - c.gf EN_CC.MD)
    let d := x.rateDen * 256
    let r := if n < c.gf EN_CC.MIN_GBPS * d then (c.gf EN_CC.MIN_GBPS, 1) else lowest n d
    c.setQp q { x with rateNum := r.1, rateDen := r.2, fell := some c.now, changed := c.now }

/-- RATE_INCREASE: INC_US have passed without a decrease. -/
def Chan.rateUp (c : Chan) (q : Nat) : Chan :=
  let x := c.qp q
  let t := x.changed + c.gf EN_CC.INC_US * tUs
  if 64 ≤ q ∨ c.qpState q ≠ qpRTS ∨ c.now < t then c
  else
    let n := x.rateNum + c.gf EN_CC.AI_GBPS * x.rateDen
    let r := if 400 * x.rateDen ≤ n then (400, 1) else lowest n x.rateDen
    c.setQp q { x with rateNum := r.1, rateDen := r.2, changed := t }

/-! ### Arrivals at the requester -/

/-- Does the queue pair take part: RTS? -/
def Chan.qpSends (c : Chan) (q : Nat) : Bool := c.enOn && q < 64 && c.qpState q == qpRTS

/-- ROCE_ACK. -/
def Chan.roceAck (c : Chan) (q psn : Nat) (ce : Bool) : Chan :=
  if !c.qpSends q then c.enDiscard
  else
    let c := c.ceMarked q ce
    if c.psnSent q psn then c.enAcked q psn else c

/-- ROCE_NAK, with syndrome 0 sequence, 1 RNR, 2 remote access, 3 invalid request; a NAK acknowledges the packets before its
own. -/
def Chan.roceNak (c : Chan) (q psn syn : Nat) (ce : Bool) : Chan :=
  if !c.qpSends q then c.enDiscard
  else
    let c := c.ceMarked q ce
    if !c.psnSent q psn then c
    else
      let c := if c.psnSent q (psn + 2 ^ 24 - 1) then c.enAcked q ((psn + 2 ^ 24 - 1) % 2 ^ 24) else c
      if syn = 0 then c.enRetry q
      else if syn = 1 then
        let n := (c.qp q).rnr + 1
        if c.gf EN_CFG.RNR_RETRY ≤ n then c.qpError q 2
        else (c.onQp q (fun x => { x with rnr := n })).enResend q
      else if syn = 2 then c.qpError q 3
      else if syn = 3 then c.qpError q 4
      else c

/-- ACK_TIMEOUT. -/
def Chan.ackTimeout (c : Chan) (q : Nat) : Chan :=
  let x := c.qp q
  if 64 ≤ q ∨ c.qpState q ≠ qpRTS ∨ x.msgs = [] ∨ c.now < x.since + c.gf EN_CFG.ACK_TO_US * tUs then c else c.enRetry q

/-- READ_RESPONSE: the next bytes of the oldest READ; the WRITEs and SENDs before it are acknowledged with it. -/
def Chan.readResponse (c : Chan) (q psn : Nat) (data : List Byte) (ce : Bool) : Chan :=
  if !c.qpSends q then c.enDiscard
  else
    let c := c.ceMarked q ce
    match (c.qp q).msgs.find? (fun m => m.op == 0) with
    | none => c
    | some m =>
      if psn ≠ (m.psn + m.got / 4096) % 2 ^ 24 ∨ m.len - m.got < data.length ∨ data = [] ∨
         (data.length % 4096 ≠ 0 ∧ data.length ≠ m.len - m.got) then c
      else
        let c := c.count EN_CNT_RX.BYTES data.length
        let c := c.enAcked q ((m.psn + 2 ^ 24 - 1) % 2 ^ 24)
        let (bad, c) := c.store (m.lcl + m.got) data
        let got := m.got + data.length
        let mine (u : EnMsg) : Bool := u.te == m.te && u.cmd == m.cmd
        if bad then c.enGiveUp q haltMEM m
        else
          let c := c.onQp q (fun x => { x with
            msgs := if got = m.len then x.msgs.filter (fun u => !mine u)
                    else x.msgs.map (fun u => if mine u then { u with got := got } else u)
            since := c.now, retries := 0, rnr := 0 })
          if got = m.len then c.enDone m else c

/-! ### Responder (R460 to R462) -/

def Chan.qpHears (c : Chan) (q : Nat) : Bool := q < 64 && (c.qpState q == qpRTR || c.qpState q == qpRTS)

/-- May a message of `n` bytes at `va` use region key `key`, with right 0 read or 1 write? -/
def Chan.mrOk (c : Chan) (key va n : Nat) (write : Bool) : Bool :=
  let k := key % 64
  bits key 6 2 == 0 && c.flag (EN_MR_A.VALID k) && c.gf (EN_MR_A.TAG k) == bits key 8 24 &&
  c.flag (if write then EN_MR_A.RWRITE k else EN_MR_A.RREAD k) &&
  c.gf (EN_MR_B.BASE k) ≤ va && va + n ≤ c.gf (EN_MR_B.BASE k) + c.gf (EN_MR_C.LEN k) && (n == 0 || inMem va n)

/-- EN_INBOUND_REFUSED, with its NAK. -/
def Chan.enRefused (c : Chan) (q psn key : Nat) : Chan :=
  (c.enSend q (.nak psn 2)).evLim 4 100 0x10 0xF4 1 (det [(16, 1, q), (17, 4, key)])

/-- A request packet arrives on queue pair `q`: 0 in sequence, 1 a duplicate, 2 ahead of its turn. -/
def Chan.psnTurn (c : Chan) (q psn : Nat) : Nat :=
  let e := c.gf (EN_QP_E.EPSN q)
  if psn % 2 ^ 24 = e then 0 else if psnGe e psn then 1 else 2

/-- The expected number moves on past `n` packets of a message in sequence. -/
def Chan.epsnPast (c : Chan) (q turn n : Nat) : Chan :=
  if turn = 0 then c.sf (EN_QP_E.EPSN q) (c.gf (EN_QP_E.EPSN q) + n) else c

/-- A request of a queue pair that listens; a packet ahead of its turn is answered with a sequence NAK. -/
def Chan.enRequest (c : Chan) (q psn : Nat) (ce : Bool) (act : Chan → Nat → Chan) : Chan :=
  if !c.enOn then c
  else if !c.qpHears q then c.enDiscard
  else
    let c := c.ceMarked q ce
    match c.psnTurn q psn with
    | 2 => c.enSend q (.nak (c.gf (EN_QP_E.EPSN q)) 0)
    | t => act c t

/-- RDMA_READ_REQUEST: the answer in packets of 4,096 bytes.  A message that meets an uncorrectable codeword gets no answer
(notes/assumptions/119.md). -/
def Chan.rdmaRead (c : Chan) (q psn va key len : Nat) (ce : Bool) : Chan :=
  c.enRequest q psn ce (fun c t =>
    if !c.mrOk key va len false then c.enRefused q psn key
    else
      match c.load va len with
      | (none, c) => c
      | (some bs, c) =>
        (List.range (enPkts len)).foldl (fun c i =>
          c.enSend q (.readResp ((psn + i) % 2 ^ 24) ((bs.drop (4096 * i)).take 4096))) (c.epsnPast q t (enPkts len)))

/-- RDMA_WRITE_REQUEST: visible, then acknowledged. -/
def Chan.rdmaWrite (c : Chan) (q psn va key : Nat) (data : List Byte) (ce : Bool) : Chan :=
  c.enRequest q psn ce (fun c t =>
    if !c.mrOk key va data.length true then c.enRefused q psn key
    else
      let n := enPkts data.length
      let (bad, c) := c.store va data
      if bad then c
      else ((c.epsnPast q t n).count EN_CNT_RX.BYTES data.length).enSend q (.ack ((psn + n - 1) % 2 ^ 24)))

/-- RDMA_SEND: into the next slot of the receive ring; a full ring answers RNR, a duplicate is acknowledged only. -/
def Chan.rdmaSendIn (c : Chan) (q psn : Nat) (data : List Byte) (ce : Bool) : Chan :=
  c.enRequest q psn ce (fun c t =>
    if t = 1 then c.enSend q (.ack (psn % 2 ^ 24))
    else if 4096 < data.length then c.enSend q (.nak psn 3)
    else
      let x := c.qp q
      let d := c.gf (EN_QP_F.DEPTH q)
      if d = 0 ∨ (c.gf (EN_QP_G.PROD q) + 65536 - c.gf (EN_QP_G.CONS q)) % 65536 = d then c.enSend q (.rnr psn 1000)
      else
        let a := c.gf (EN_QP_F.RQ_ADDR q) * 64 + 4160 * (x.sends % d)
        let (bad, c) := c.store (a + 64) data
        if bad then c
        else
          let c := (c.epsnPast q t 1).count EN_CNT_RX.BYTES data.length
          let c := (c.store (a + 32) (leBytes 32 0)).2
          let c := (c.store a (leBytes 4 data.length ++ leBytes 4 (x.sends + 1) ++ leBytes 24 0)).2
          let c := (c.setQp q { x with sends := x.sends + 1 }).sf (EN_QP_G.PROD q) (x.sends + 1)
          let c := if c.flag (EN_QP_F.TOK_EN q) then c.signal (c.gf (EN_QP_F.TOK q)) 1 else c
          c.enSend q (.ack (psn % 2 ^ 24)))

/-! ### Queue-pair registers (R455, R466) -/

/-- Is a move of STATE allowed? -/
def qpMove (old new : Nat) : Bool := new == qpRESET || new == qpERROR || (new == old + 1 && new ≤ qpRTS)

def Chan.qpIgnored (c : Chan) (q req : Nat) : Chan :=
  c.ev 0x10 0xF3 0 (det [(16, 1, q), (17, 1, c.qpState q), (18, 1, req)])

/-- A queue pair that enters RESET sends no response that still waits (R455). -/
def Chan.enUnsent (c : Chan) (q : Nat) : Chan :=
  (c.withEn ({ c.en with held := c.en.held.filter (fun f => match f with
    | .roce _ p (.readResp _ _) | .roce _ p (.ack _) | .roce _ p (.nak _ _) | .roce _ p (.rnr _ _) => p != q
    | _ => true) }))

/-- A write of EN_QPq_A: its other fields are taken in RESET only, and are ignored elsewhere; STATE moves as R455 lets it. -/
def Chan.qpStateWrite (c : Chan) (q v : Nat) : Chan :=
  if 64 ≤ q then c
  else
    let old := c.qpState q
    let new := bits v 0 3
    let keep := setBits (c.rd (EN_QP_A.off q)) 0 3 0
    let want := setBits (bits v 0 6 + bits v 8 40 * 2 ^ 8) 0 3 0
    let c := if old = qpRESET then c.wr (EN_QP_A.off q) (want + old) else c
    let c := if (old ≠ qpRESET ∧ keep ≠ want) ∨ !qpMove old new then c.qpIgnored q new else c
    if !qpMove old new then c
    else if new = qpRESET then (((c.sf (EN_QP_A.STATE q) new).qpCount).enDrop q).enUnsent q
    else if new = qpERROR then ((c.sf (EN_QP_A.STATE q) new).qpCount).enDrop q
    else if new = qpRTS then
      (c.sf (EN_QP_A.STATE q) new).onQp q (fun x => { x with
        rateNum := 400, rateDen := 1, fell := none, changed := c.now, retries := 0, rnr := 0 })
    else c.sf (EN_QP_A.STATE q) new

/-- A write of another register of a queue pair: in RESET only, but for CONS. -/
def Chan.qpFieldWrite (c : Chan) (q off v : Nat) : Chan :=
  if off = EN_QP_G.off q ∨ c.qpState q = qpRESET then c.wrFields off v else c.qpIgnored q (c.qpState q)

/-! ### The link and flow control (R452 to R454, R467) -/

def Chan.enLinkUp (c : Chan) : Chan :=
  if !c.baseOn ∨ !c.flag EN_CFG.EN ∨ c.flag EN_STAT.UP then c
  else ((c.sf EN_STAT.UP 1).ev 0x10 0xF0 0 0).enFlush

def Chan.enLinkDown (c : Chan) : Chan :=
  if !c.baseOn ∨ !c.flag EN_STAT.UP then c
  else
    let c := (c.withEn ({ c.en with pausedTo := none }))
    ((c.sf EN_STAT.UP 0).sf EN_STAT.TX_PAUSED 0).ev 0x10 0xF1 2 0

/-- Ticks of a pause of `n` quanta: 512 bit times of 400 Gb/s are 6.144 ticks. -/
def pauseTicks (n : Nat) : Nat := n * 6144 / 1000

/-- XOFF of the port's priority, with the pause time that the manual leaves open, or XON. -/
def Chan.sendPfc (c : Chan) (xoff : Bool) : Chan :=
  let c := if xoff then c.withEn ({ c.en with xoffAt := c.now }) else c
  c.enOut (.pfc c.enMac (c.gf EN_CFG.PRIO) (if xoff then Config.xoffQuanta.toNat else 0))

/-- The receive buffer of 1 MiB fills or empties: XOFF at 768 KiB, XON below 512 KiB. -/
def Chan.enOccupy (c : Chan) (bytes : Nat) : Chan :=
  let n := min bytes 0x100000
  let c := (c.withEn ({ c.en with fill := n }))
  if !c.enOn then c
  else if 0xC0000 ≤ n ∧ !c.flag EN_STAT.RX_PAUSING then (c.sf EN_STAT.RX_PAUSING 1).sendPfc true
  else if n < 0x80000 ∧ c.flag EN_STAT.RX_PAUSING then (c.sf EN_STAT.RX_PAUSING 0).sendPfc false
  else c

/-- XOFF_REFRESH: half the pause time after the last XOFF. -/
def Chan.xoffRefresh (c : Chan) : Chan :=
  if c.enOn ∧ c.flag EN_STAT.RX_PAUSING ∧ 0x80000 ≤ c.en.fill ∧ c.en.xoffAt + pauseTicks Config.xoffQuanta.toNat / 2 ≤ c.now then
    c.sendPfc true
  else c

/-- The pause ends. -/
def Chan.enResume (c : Chan) : Chan :=
  (((c.withEn ({ c.en with pausedTo := none })) : Chan).sf EN_STAT.TX_PAUSED 0).enFlush

/-- PFC: a frame that speaks of priority PRIO. -/
def Chan.pfcIn (c : Chan) (prios quanta : Nat) : Chan :=
  if !c.enOn ∨ !bit prios (c.gf EN_CFG.PRIO) then c
  else if quanta = 0 then c.enResume
  else
    ((c.withEn ({ c.en with pausedTo := some (c.now + pauseTicks quanta) })) : Chan).sf EN_STAT.TX_PAUSED 1

/-- PAUSE_EXPIRY. -/
def Chan.pauseExpiry (c : Chan) : Chan :=
  match c.en.pausedTo with
  | some t => if c.now < t then c else c.enResume
  | none => c

/-- ARP_REQUEST and NEIGHBOR_SOLICITATION for the port's address are answered; for another they are discarded. -/
def Chan.arpRequest (c : Chan) (smac sip tip : Nat) : Chan :=
  if !c.enOn then c
  else if !c.flag EN_CFG.IPV6 ∧ tip = c.enIp then c.enOut (.arpReply (c.ethTo smac) c.enIp sip)
  else c.enDiscard

def Chan.neighborSol (c : Chan) (smac sip tip : Nat) : Chan :=
  if !c.enOn then c
  else if c.flag EN_CFG.IPV6 ∧ tip = c.enIp then c.enOut (.ndAdvert (c.ethTo smac) c.enIp sip)
  else c.enDiscard

end Sys2Proof.Machine
end

