-- ==== Sys2Proof/Machine/HostPort.lean ====
section
/-!
DEFINITION. The host port as a channel sees it (R421 to R451): the host queue's commands, windows, doorbells, mailboxes and
the host log.  HostLink.lean holds the link itself.
-/
namespace Sys2Proof.Machine

/-! ### Host queue commands (R432 to R434, Table 16-5) -/

/-- An operand must name LOCAL space: its offset where it names another. -/
def mustLocal (raw : List Byte) (off : Nat) (src : Bool) (n : Nat) : List Nat :=
  match operand none raw off src n with
  | .addr g => (match locOf g with | .fab _ _ | .host _ => [off] | _ => [])
  | .bad => [off]
  | _ => []

/-- An operand must name HOST space. -/
def mustHost (raw : List Byte) (off : Nat) : List Nat :=
  match operand none raw off false 0 with
  | .addr g => (match locOf g with | .lcl _ | .fab _ _ => [off] | _ => [])
  | .bad => [off]
  | _ => []

/-- A started command of the host queue. -/
def Chan.hqCmd (c : Chan) (seq : Nat) (f : Chan → List Byte → Chan) : Chan :=
  match (c.queue 0x80).cmd? seq with
  | some h => f c h.raw
  | none => c

/-- HQ_FORWARD. -/
def specForward : CmdSpec where
  fields _ _ _ raw :=
    mustBe 1 (extOf raw) ++ mustBe 21 (ilenOf raw = 8) ++ mustBe 24 (qidOk (fieldOf raw 24 24)) ++ zeroField raw 25 63 ++
    mustBe 65 (!bit (fieldOf raw 65 65) 0)
  start c _ seq := c.hqCmd seq (fun c raw =>
    let t := fieldOf raw 24 24
    let inner := (raw.drop 64).take 64
    if c.qDepth t = 0 then c.fail 0x80 seq 0x11 t
    else if c.canAppend t inner then c.append t inner none
    else (c.push t inner none none (some seq)).onCmd 0x80 seq (fun h => { h with out := 1 }))

/-- HQ_WRITE. -/
def specHqWrite : CmdSpec where
  fields _ _ _ raw :=
    mustBe 1 (extOf raw) ++ mustLocal raw 24 false 0 ++
    mustBe 32 (1 ≤ fieldOf raw 32 35 && fieldOf raw 32 35 ≤ 8 * ilenOf raw) ++ zeroField raw 36 63
  addrs _ _ _ raw := opdAddr none raw 24 false (fieldOf raw 32 35)
  rows _ _ _ raw := noBaseRow none raw [24]
  start c _ seq := c.hqCmd seq (fun c raw =>
    c.putGlobal 0x80 seq (opdGlobal none raw 24) ((raw.drop 64).take (fieldOf raw 32 35)))

/-- The local and the host operand of a HQ_DMA, by DIR. -/
def dmaOffs (raw : List Byte) : Nat × Nat := if bit (fieldOf raw 44 44) 0 then (32, 24) else (24, 32)

/-- HQ_DMA. -/
def specHqDma : CmdSpec where
  fields _ _ _ raw :=
    mustLocal raw (dmaOffs raw).1 false 0 ++ mustHost raw (dmaOffs raw).2 ++
    mustBe 40 (fieldOf raw 40 43 != 0) ++ mustBe 44 (fieldOf raw 44 44 ≤ 1) ++ zeroField raw 45 63
  addrs _ _ _ raw := opdAddr none raw 24 false (fieldOf raw 40 43) ++ opdAddr none raw 32 false (fieldOf raw 40 43)
  rows _ _ _ raw := noBaseRow none raw [24, 32]
  credit c _ _ raw := c.placeFree none raw [24] 32
  start c _ seq := c.hqCmd seq (fun c raw =>
    let n := fieldOf raw 40 43
    let src := locOf (opdGlobal none raw 24)
    let dst := opdGlobal none raw 32
    match src with
    | .lcl a =>
      match c.load a n with
      | (some bs, c) => c.putGlobal 0x80 seq dst bs
      | (none, c) => c.fail 0x80 seq haltMEM 0
    | l =>
      match locOf dst with
      | .lcl a => c.getRemote 0x80 seq l n (fun o => .toMem (a + o))
      | _ => c)

/-- HQ_RESULT (R434): the data and LEN, then the header with SEQ. -/
def specHqResult : CmdSpec where
  fields _ _ _ raw :=
    mustLocal raw 24 false 0 ++ mustBe 24 (opdGlobal none raw 24 % 64 = 0) ++ mustLocal raw 32 true (fieldOf raw 40 43) ++
    mustBe 40 (fieldOf raw 40 43 ≤ 16777215) ++ zeroField raw 52 63
  addrs _ _ _ raw :=
    opdAddr none raw 24 false (64 + fieldOf raw 40 43) ++ opdAddr none raw 32 true (fieldOf raw 40 43)
  rows _ _ _ raw := noBaseRow none raw [24, 32]
  start c _ seq := c.hqCmd seq (fun c raw =>
    let n := fieldOf raw 40 43
    match c.atHand none raw 32 n with
    | (some (some bs), c) =>
      let slot := opdGlobal none raw 24
      let c := c.putGlobal 0x80 seq (slot + 64) bs
      if c.isRunning 0x80 seq then
        c.putGlobal 0x80 seq slot (leBytes 8 (fieldOf raw 44 51) ++ leBytes 4 n ++ leBytes 52 0)
      else c
    | (_, c) => c.fail 0x80 seq haltMEM 0)

/-- HQ_FLAG. -/
def specHqFlag : CmdSpec where
  fields _ _ _ raw :=
    mustHost raw 24 ++ mustBe 24 (opdGlobal none raw 24 % 8 = 0) ++ zeroField raw 40 63
  addrs _ _ _ raw := opdAddr none raw 24 false 8
  rows _ _ _ raw := noBaseRow none raw [24]
  credit c _ _ raw := c.placeFree none raw [] 24
  start c _ seq := c.hqCmd seq (fun c raw => c.putGlobal 0x80 seq (opdGlobal none raw 24) (leBytes 8 (fieldOf raw 32 39)))

/-! ### Reach -/

/-- HP_CHc_STAT.REACH (R448). -/
def Chan.reach (c : Chan) : Bool := c.ucUp && c.gf HR_PSTATE.CUR < 2

/-- A host access gets through to the channel's memory: ACTIVE or IDLE, and its link not DOWN; during a training it waits for
the link (R428, R473; DEDUCED, notes/assumptions/101.md). -/
def Chan.winReach (c : Chan) : Bool := c.gf UC_STAT.STATE != 0 && c.gf HR_PSTATE.CUR < 2

/-! ### Windows (R427 to R429) -/

/-- The channel-local address of a window offset. -/
def Chan.winAddr (c : Chan) (off : Nat) : Nat := c.gf HPC_WIN.BASE * 2 ^ 29 + off

/-- The row of Table 16-4 that a window access meets. -/
def Chan.winRow (c : Chan) (a n : Nat) : Nat := if !inMem a n then 2 else if c.winReach then 1 else 3

/-- A discarded write or a poisoned read of rows 2 and 3; `tell` when the limit of records per second leaves room. -/
def Chan.winFault (c : Chan) (a : Nat) (write : Bool) (row : Nat) (tell : Bool) : Chan :=
  let c := if row = 2 then c.count HPC_CNT_WINFAULT.COUNT 1 else c.count HPC_CNT_UNREACH.COUNT 1
  if tell then c.hpdEv 0x20 0xE3 1 (det [(16, 5, a), (21, 1, b2n write), (22, 1, row)]) else c

/-- A window read: poison and data. -/
def Chan.winRead (c : Chan) (off n : Nat) (tell : Bool) : (Bool × List Byte) × Chan :=
  let a := c.winAddr off
  let row := c.winRow a n
  if row = 1 then
    match c.load a n with
    | (some bs, c) => ((false, bs), c)
    | (none, c) => ((true, c.peek a n), c)
  else ((true, List.replicate n 0), c.winFault a false row tell)

/-- A window write. -/
def Chan.winWrite (c : Chan) (off : Nat) (bs : List Byte) (tell : Bool) : Chan :=
  let a := c.winAddr off
  let row := c.winRow a bs.length
  if row = 1 then (c.store a bs).2 else c.winFault a true row tell

/-- HDM decoder `n`. -/
def Hpd.decoder (h : Hpd) (n : Nat) : Hdm := tget (fun _ => {}) h.hdm n

/-- The window of channel `n` is active (R427). -/
def Hpd.winOn (h : Hpd) (n : Nat) : Bool :=
  h.flag HP_LINK.UP && h.flag HP_LINK.CXL && h.cxlMem && (h.decoder n).commit

/-! ### Doorbells (R431) -/

/-- A write of HP_DBc.TAIL_CNT.  While the UCIe link is DOWN the host queue and its doorbell are unavailable (R20): the write is
discarded, as R425 has it for a lost path (DESIGN CHOICE, notes/assumptions/123.md).  An accepted doorbell makes an IDLE queue
RUNNING. -/
def Chan.doorbell (c : Chan) (v : Nat) : Chan :=
  let v := v % 65536
  let w := c.hqW
  let tail := c.gf HPC_HQ_CNT.TAIL_CNT
  if c.gf UC_STAT.STATE = 0 ∨ v = tail then c
  else if v < w ∧ (v + w - tail) % w ≤ c.qDepth 0x80 - c.qFill 0x80 then
    (c.sf HPC_HQ_CNT.TAIL_CNT v).onQueue 0x80 (fun x => { x with st := if x.st = .idle then .running else x.st })
  else
    let c := c.count HPC_CNT_DBREF.COUNT 1
    c.hpdEv 0x20 0xE2 1 (det [(16, 2, v), (18, 2, c.hqHead)])

/-! ### The host log (R443, R444) -/

/-- Entries not yet consumed. -/
def Chan.hlogOpen (c : Chan) : Nat := (c.gf HPC_HLOG_STAT.WCNT + 65536 - c.gf HPC_HLOG_STAT.RCNT) % 65536

/-- An entry is lost. -/
def Chan.hlogLost (c : Chan) : Chan :=
  let n := c.gf HPC_HLOG_STAT.OVF
  c.sf HPC_HLOG_STAT.OVF (if n = 0xFFFF then n else n + 1)

/-- An entry is written, or lost when the log is full. -/
def Chan.hlogWrite (c : Chan) (e : List Byte) : Chan :=
  if c.hlogOpen = 4096 then
    let c := c.hlogLost
    if c.hlogFull then c
    else ((c.withHlogFull true) : Chan).hpdEv 0x20 0xE5 2 (det [(16, 2, c.gf HPC_HLOG_STAT.OVF)])
  else
    let n := c.gf HPC_HLOG_STAT.WCNT
    ((c.store (c.gf HPC_HLOG.ADDR * 2 ^ 17 + 32 * (n % 4096)) e).2).sf HPC_HLOG_STAT.WCNT (n + 1)

/-- Can the host-port die write the channel's memory? -/
def Chan.hlogReach (c : Chan) : Bool := c.ucUp && c.baseOn

/-- An entry of the host log; while the channel is out of reach up to 256 are held. -/
def Chan.hlogAdd (c : Chan) (e : List Byte) : Chan :=
  if c.hlogReach then c.hlogWrite e
  else if c.hlogHeld.length < 256 ∧ c.hpdGen ≠ 2 then
    ((c.withHlogHeld (c.hlogHeld ++ [e])) : Chan).sf HPC_HLOG_STAT.HELD (c.hlogHeld.length + 1)
  else c.hlogLost

/-- Held entries are written once the channel is in reach; the interrupt bit follows the counts; a log that is no longer full
may overflow anew; vector 16c follows HP_CHc_IRQ (R426). -/
def Chan.hpcSettle (c : Chan) : Chan :=
  let c :=
    if c.hlogReach ∧ c.hlogHeld ≠ [] then
      c.hlogHeld.foldl Chan.hlogWrite (((c.withHlogHeld []) : Chan).sf HPC_HLOG_STAT.HELD 0)
    else c
  let c := c.sf HPC_IRQ.HLOG (b2n (c.hlogOpen != 0))
  let c := if c.hlogOpen = 4096 then c else (c.withHlogFull false)
  let on := (c.rd HPC_IRQ.off &&& c.gf HPC_IRQ_EN.EN) % 8 != 0
  let c := if on && !c.irqWas then (c.withOut (c.out ++ [HpdMsg.msix (16 * c.num)])) else c
  (c.withIrqWas on)

/-! ### Registers of the HP_CHc page (R448) -/

/-- A write of HP_CHc_HLOG: ignored while entries are open. -/
def Chan.hlogAddrWrite (c : Chan) (v : Nat) : Chan :=
  if c.hlogOpen ≠ 0 then c else c.wrFields HPC_HLOG.off v

/-! ### Mailboxes (R440) -/

/-- A write of HP_MB_H2Dc: the message's length and number, when the area is free.  A length of 0 or above 4,096 names no
message. -/
def mbPost (c : Chan) (h : Hpd) (v : Nat) : Chan × Hpd :=
  let len := bits v 0 13
  if c.flag HPC_STAT.MB_H2D_BUSY then (c.count HPC_CNT_DBREF.COUNT 1, h)
  else if len = 0 ∨ 4096 < len then (c, h)
  else (c.sf HPC_STAT.MB_H2D_BUSY 1,
        (h.withH2dMsg (tput (fun _ => (0, 0)) h.h2dMsg c.num (bits v 16 32, len))))

/-- The host's message that waits in channel `n`'s area: its number and bytes. -/
def mbMessage (c : Chan) (h : Hpd) : Option (Nat × List Byte) :=
  if c.flag HPC_STAT.MB_H2D_BUSY then
    let (seq, len) := tget (fun _ => (0, 0)) h.h2dMsg c.num
    some (seq, (List.range len).map (fun i => tget (fun _ => 0) h.h2d (c.num * 4096 + i)))
  else none

/-- The service core has taken the message. -/
def Chan.mbTaken (c : Chan) : Chan := c.sf HPC_STAT.MB_H2D_BUSY 0

/-- A message of the service core to the host waits for the area. -/
def Chan.mbSend (c : Chan) (bs : List Byte) : Chan := (c.withMbOut (c.mbOut ++ [bs]))

/-- The oldest waiting message is written to a free area: the bytes, then HP_MB_D2Hc, then the interrupt bit. -/
def mbSettle (c : Chan) (h : Hpd) : Chan × Hpd :=
  match c.mbOut with
  | [] => (c, h)
  | m :: r =>
    if c.mbWait ∨ !c.ucUp ∨ !h.flag HP_LINK.UP then (c, h)
    else
      let d := (m.zipIdx).foldl (fun t e => tput (fun _ => (0 : Byte)) t (c.num * 4096 + e.2) e.1)
        (teraseRange (c.num * 4096) (c.num * 4096 + 4096) h.d2h)
      let c := ((c.withMbOut r).withMbWait true)
      let c := ((c.sf HP_MB_D2H.LEN m.length).sf HP_MB_D2H.SEQ (c.gf HP_MB_D2H.SEQ + 1)).sf HPC_IRQ.MB_D2H 1
      (c, (h.withD2h d))

/-- HP_MB_ACKc. -/
def Chan.mbAck (c : Chan) (v : Nat) : Chan := if bit v 0 then (c.withMbWait false) else c

end Sys2Proof.Machine
end

