-- ==== Sys2Proof/Machine/HpdOps.lean ====
section
/-!
DEFINITION. The host-port die's own time, event log and non-volatile store (R541 to R545, R552), and copies of records
(R543).
-/
namespace Sys2Proof.Machine

/-- Local time of the die in ns, since its reset (R541), and its whole seconds. -/
def Hpd.localNs (h : Hpd) : Nat := (h.now - h.t0) / 192 * 40
def Hpd.localSec (h : Hpd) : Nat := (h.now - h.t0) / tSec

/-- A record enters the die's log; one of severity 2 or 3 also the non-volatile store (R544), and it raises the alert. -/
def Hpd.put (h : Hpd) (r : EvRec) : Hpd :=
  let n := h.gf MG_LOG_STAT.WCNT
  let h := ((h.withLog (logPut 1024 r 1023 n h.log)) : Hpd).sf MG_LOG_STAT.WCNT (n + 1)
  if r.sev ≥ 2 then
    (((h.sf MG_ALERT.PEND 1).withNv (tins (h.nvCount % 64) r (terase (h.nvCount % 64) h.nv))).withNvCount (h.nvCount + 1))
  else h

/-- A record of the die about channel `chan`, with its time; one of the die itself, now. -/
def Hpd.evFor (h : Hpd) (time chan block code sev detail : Nat) : Hpd :=
  h.put { time := time, block := block, code := code, sev := sev, chan := chan, detail := detail, cyc := (h.now - h.t0) / 192 }
def Hpd.ev (h : Hpd) (block code sev detail : Nat) : Hpd := h.evFor h.localNs 4 block code sev detail

/-- Limiter `key` counts one more in the die's present second (R566): is it within `limit`? -/
def Hpd.rateTake (h : Hpd) (key limit : Nat) : Bool × Hpd :=
  let r := tget (fun _ => (0, 0)) h.rate key
  let k := if r.1 = h.localSec then r.2 else 0
  (k < limit, h.withRate (tput (fun _ => (0, 0)) h.rate key (h.localSec, k + 1)))

/-- At most `limit` records per second of limiter `key`. -/
def Hpd.evLim (h : Hpd) (key limit block code sev detail : Nat) : Hpd :=
  let r := h.rateTake key limit
  if r.1 then r.2.ev block code sev detail else r.2

/-- A window access of rows 2 and 3 of Table 16-4 is to be recorded: at most 100 per second and channel (R428). -/
def Hpd.winTell (h : Hpd) (c : Chan) (off n : Nat) : Bool × Hpd :=
  if c.winRow (c.winAddr off) n = 1 then (false, h) else h.rateTake (16 + c.num) 100

/-- A slot of a log that no record has been written to (R543 calls it valid by its number alone; its contents are zero: DESIGN
CHOICE, notes/assumptions/143.md). -/
def noRec : EvRec := { time := 0, block := 0, code := 0, sev := 0, chan := 0, detail := 0, cyc := 0 }

/-- Record `i` of a log of `size` slots after `n` records: none where VALID is clear (R543). -/
def recAt (size n : Nat) (l : Tbl EvRec) (i : Nat) : Option EvRec :=
  let d := (n + 2 ^ 32 - i % 2 ^ 32) % 2 ^ 32
  if 1 ≤ d ∧ d ≤ size then some ((tget? (i % size) l).getD noRec) else none

/-- A record by number: of the channel's log. -/
def Chan.logAt (c : Chan) (i : Nat) : Option EvRec := recAt 4096 (c.gf HR_LOG_STAT.WCNT) c.log i

/-- Of the die's log. -/
def Hpd.logAt (h : Hpd) (i : Nat) : Option EvRec := recAt 1024 (h.gf MG_LOG_STAT.WCNT) h.log i

/-- Of the non-volatile store: places 0 to 63. -/
def Hpd.nvAt (h : Hpd) (i : Nat) : Option EvRec := if i < 64 then tget? i h.nv else none

/-- The 32 bytes of a record, zero where there is none. -/
def recBytes (r : Option EvRec) : List Byte := match r with | some e => e.bytes | none => leBytes 32 0

/-- A write of HR_LOG_IDX (R543). -/
def Chan.logIdx (c : Chan) (v : Nat) : Chan :=
  let r := c.logAt (v % 2 ^ 32)
  let c := (c.sf HR_LOG_IDX.INDEX v).sf HR_LOG_IDX.VALID (b2n r.isSome)
  (List.range 4).foldl (fun c k => c.wr (HR_LOG_D.off k) (leAt (recBytes r) (8 * k) 8)) c

/-- A write of MG_LOG_IDX (R555). -/
def Hpd.logIdx (h : Hpd) (v : Nat) : Hpd :=
  let r := if bit v 32 then h.nvAt (v % 2 ^ 32) else h.logAt (v % 2 ^ 32)
  let h := ((h.sf MG_LOG_IDX.INDEX v).sf MG_LOG_IDX.NV (bits v 32 1)).sf MG_LOG_IDX.VALID (b2n r.isSome)
  (List.range 4).foldl (fun h k => h.wr (MG_LOG_D.off k) (leAt (recBytes r) (8 * k) 8)) h

/-- The next free value of the die. -/
def Hpd.free (h : Hpd) : Nat × Hpd := (h.fresh, (h.withFresh (h.fresh + 1)))

end Sys2Proof.Machine
end

