-- ==== Sys2Proof/Machine/Rollcall.lean ====
section
/-!
DEFINITION. Roll call, phase P4 (R391 to R397).
-/
namespace Sys2Proof.Machine

/-! ### Axes: 0 X, 1 Y, 2 Z -/

def closedFld (ax : Nat) : Fld :=
  if ax = 0 then HR_RC_STAT.X_CLOSED else if ax = 1 then HR_RC_STAT.Y_CLOSED else HR_RC_STAT.Z_CLOSED
def headFld (ax : Nat) : Fld :=
  if ax = 0 then HR_RC_STAT.X_HEAD else if ax = 1 then HR_RC_STAT.Y_HEAD else HR_RC_STAT.Z_HEAD
/-- The LINE bit of an axis: X, Y, Z in bits 5, 6 and 7. -/
def lineFld (ax : Nat) : Fld := ⟨HR_RC_STAT.off, 5 + ax, 1⟩

/-- Hold limits: 62 s for X, 61 s for Y, 60 s for Z (R392). -/
def holdLimit (ax : Nat) : Nat := (if ax = 0 then 62 else if ax = 1 then 61 else 60) * tSec

def Chan.lap (c : Chan) (ax : Nat) : Lap := tget (fun _ => {}) c.boot.laps ax
def Chan.setLap (c : Chan) (ax : Nat) (x : Lap) : Chan :=
  (c.withBoot ({ c.boot with laps := tput (fun _ => {}) c.boot.laps ax x }))

/-- Has the limit of an axis passed? -/
def Chan.pastHold (c : Chan) (ax : Nat) : Bool := holdLimit ax ≤ c.localTick

/-- The axis has closed since the channel reset. -/
def Chan.axisClosed (c : Chan) (ax : Nat) : Bool := c.boot.closed.contains ax

/-- R392: readiness on an axis; a late channel takes no part (R389). -/
def Chan.axisReady (c : Chan) (ax : Nat) : Bool :=
  4 ≤ c.phase && !c.flag HR_CSTATE.LATE &&
  (if ax = 2 then true
   else if ax = 1 then c.axisClosed 2 || 61 * tSec ≤ c.localTick
   else c.axisClosed 1 || 62 * tSec ≤ c.localTick)

/-- May a COLLECT be let go? -/
def Chan.mayRelease (c : Chan) (ax : Nat) : Bool := c.axisReady ax || c.flag HR_CSTATE.LATE || c.pastHold ax

def Chan.myCoord (c : Chan) (ax : Nat) : Nat := coord ax c.node

/-- R393: unusable means DOWN, MISMATCH or disabled. -/
def Chan.linkDead (c : Chan) (p : Nat) : Bool := c.linkBroken p || c.flag (IV_CTL.DISABLE p)

def Chan.candidate (c : Chan) (ax : Nat) : Bool := c.myCoord ax == 0 || c.linkDead (2 * ax + 1)

/-- The member marks the bell as the rule of R392 says. -/
def Chan.mark (c : Chan) (b : RollBell) : RollBell :=
  if !c.axisReady b.axis then b
  else if c.cstate = csBYPASS then { b with bypass := b.bypass ||| 2 ^ c.myCoord b.axis }
  else { b with present := b.present ||| 2 ^ c.myCoord b.axis }

/-! ### The walk of a bell (R393) -/

/-- What becomes of a bell that is to go on. -/
inductive Walk where
  | send (p : Nat) (b : RollBell)
  | hold (b : RollBell)
  | complete (b : RollBell)
  | lost
  deriving DecidableEq, Repr

/-- May a bell wait for the link: TRAINING, before the hold limit? -/
def Chan.waitsLink (c : Chan) (ax p : Nat) : Bool := c.linkState p == linkTRAINING && !c.pastHold ax

/-- The link in the bell's own direction: send, wait for it (R392), or, where the head itself finds its minus link unusable,
complete the lap; none where the bell cannot go that way. -/
def Chan.ahead (c : Chan) (b : RollBell) : Option Walk :=
  let p := 2 * b.axis + b2n b.minus
  if c.linkUsable p then some (.send p b)
  else if c.waitsLink b.axis p then some (.hold b)
  else if b.minus && c.myCoord b.axis == b.head then some (.complete b)
  else none

/-- The way on: ahead, or back after one reflection. -/
def Chan.walk (c : Chan) (b : RollBell) : Walk :=
  match c.ahead b with
  | some w => w
  | none => (c.ahead { b with line := true, minus := !b.minus }).getD .lost

/-- Members of a bitmap. -/
def ringCount (n map : Nat) : Nat := popcount n map

/-- The registers of an axis take a bitmap: PRESENT (`byp` false) or BYPASS. -/
def Chan.putMap (c : Chan) (ax : Nat) (byp : Bool) (m : Nat) : Chan :=
  let word (k : Nat) : Nat := bits m (64 * k) 64
  if ax = 2 then c.sf (if byp then HR_RC_Z.BYPASS else HR_RC_Z.PRESENT) m
  else
    (List.range (if ax = 0 then 5 else 2)).foldl (fun c k =>
      c.sf (if ax = 0 then (if byp then HR_RC_XB.BYPASS k else HR_RC_X.PRESENT k)
            else (if byp then HR_RC_YB.BYPASS k else HR_RC_Y.PRESENT k)) (word k)) c

/-- An axis closes on a CONFIRM: bitmaps, head, LINE, RING_CLOSED; the member without its own bit is late (R392), unless
ALL_PRESENT has moved it on (R396). -/
def Chan.closeAxis (c : Chan) (b : RollBell) : Chan :=
  let ax := b.axis
  if c.axisClosed ax then c
  else
    let c := (c.withBoot ({ c.boot with closed := ax :: c.boot.closed }))
    let n := c.ringLen ax
    let pr := ringCount n b.present
    let by_ := ringCount n b.bypass
    let c := (c.putMap ax false b.present).putMap ax true b.bypass
    let c := ((c.sf (closedFld ax) 1).sf (headFld ax) b.head).sf (lineFld ax) (b2n b.line)
    let c := c.ev 0x0C 0xC3 (if pr + by_ < n then 2 else 0)
      (det [(16, 1, ax), (17, 2, pr), (19, 2, by_), (21, 2, b.head), (23, 1, b2n b.line)])
    let own := 2 ^ c.myCoord ax
    if (b.present ||| b.bypass) &&& own = 0 ∧ ¬ (c.boot.gotAll ∧ c.cstate ≠ csBOOT) then
      let was := c.flag HR_CSTATE.LATE
      let c := c.late 2
      if !was ∧ c.cstate = csROLLCALL then c.toSubstitute else c
    else c

/-- R394: the head of an X ring reports to the leader and the alternate: the CONFIRM's bell with its counts. -/
def Chan.sendReport (c : Chan) (b : RollBell) : Chan :=
  let n := c.ringLen 0
  let d := RollBell.bytes { b with
    phase := 3, hall := c.hall, node := c.node, npres := ringCount n b.present, nbyp := ringCount n b.bypass }
  (c.sendBell bROLLCALL (fabLeader c.fabric) d).sendBell bROLLCALL (fabAlternate c.fabric) d

/-- A bell leaves by a port. -/
def Chan.sendRoll (c : Chan) (p : Nat) (b : RollBell) : Chan :=
  c.linkBell p bROLLCALL (RollBell.bytes { b with hall := c.hall, node := c.node })

def Chan.holdBell (c : Chan) (b : RollBell) (marked : Bool) : Chan :=
  c.setLap b.axis { c.lap b.axis with held := (c.lap b.axis).held ++ [(b.bytes, marked)] }

/-- The CONFIRM of a lap has come back to its head: the head closes the axis, and on X it reports. -/
def Chan.confirmDone (c : Chan) (b : RollBell) : Chan :=
  let c := c.closeAxis b
  if b.axis = 0 then c.sendReport b else c

/-- A CONFIRM goes on from this member. -/
def Chan.confirmOn (c : Chan) (b : RollBell) : Chan :=
  match c.walk b with
  | .send p b => c.sendRoll p b
  | .hold b => c.holdBell b true
  | .complete b => c.confirmDone b
  | .lost => c

/-- A COLLECT has completed at its head, which starts the CONFIRM of the same walk. -/
def Chan.collectDone (c : Chan) (b : RollBell) : Chan := c.confirmOn { b with phase := 2, minus := false }

/-- A COLLECT goes on from this member, already marked. -/
def Chan.collectOn (c : Chan) (b : RollBell) : Chan :=
  match c.walk b with
  | .send p b => c.sendRoll p b
  | .hold b => c.holdBell b true
  | .complete b => c.collectDone b
  | .lost => c

/-- A lap is complete at its head (R393). -/
def Chan.lapComplete (c : Chan) (b : RollBell) : Bool :=
  c.myCoord b.axis == b.head && (!b.minus || !c.linkUsable (2 * b.axis + 1))

/-- The lowest HEAD seen takes account of a bell: none when the bell is to be dropped. -/
def Chan.lowest (c : Chan) (ax head : Nat) : Option Chan :=
  let x := c.lap ax
  match x.low with
  | some l => if l < head then none else some (c.setLap ax { x with low := some head })
  | none => some (c.setLap ax { x with low := some head })

/-- LAP_START. -/
def Chan.lapStart (c : Chan) (ax : Nat) : Chan :=
  let me := c.myCoord ax
  if 3 ≤ ax ∨ !c.axisReady ax ∨ !c.candidate ax ∨ (c.lap ax).started ∨ c.axisClosed ax then c
  else
    match c.lowest ax me with
    | none => c
    | some c =>
      let c := c.setLap ax { c.lap ax with started := true }
      c.collectOn (c.mark { c.roll0 with phase := 1, axis := ax, head := me })

/-- COLLECT arrives. -/
def Chan.collect (c : Chan) (p vc : Nat) : Chan :=
  c.takeHere p vc (isRoll 1) (fun c k =>
    let b := parseRoll k.data
    if 3 ≤ b.axis then c
    else
      match c.lowest b.axis b.head with
      | none => c
      | some c =>
        if c.lapComplete b then c.collectDone b
        else if c.mayRelease b.axis then c.collectOn (c.mark b)
        else c.holdBell b false)

/-- The held bell at place `i` of an axis is let go. -/
def Chan.letGo (c : Chan) (ax i : Nat) : Chan :=
  let x := c.lap ax
  match x.held[i]? with
  | none => c
  | some (d, marked) =>
    let b := parseRoll d
    let c := c.setLap ax { x with held := x.held.eraseIdx i }
    if b.phase = 2 then c.confirmOn b
    else
      match c.lowest ax b.head with
      | none => c
      | some c => c.collectOn (if marked then b else c.mark b)

/-- COLLECT_RELEASE: the member has become ready, or the link it waits for has come up. -/
def Chan.collectRelease (c : Chan) (ax i : Nat) : Chan :=
  match (c.lap ax).held[i]? with
  | some (d, marked) =>
    let b := parseRoll d
    if marked then if c.waitsLink ax (2 * ax + b2n b.minus) then c else c.letGo ax i
    else if c.axisReady ax || c.flag HR_CSTATE.LATE then c.letGo ax i else c
  | none => c

/-- HOLD_LIMIT: the member's local time reaches the limit of the axis. -/
def Chan.holdLimitAt (c : Chan) (ax i : Nat) : Chan := if c.pastHold ax then c.letGo ax i else c

/-- CONFIRM arrives: it is accepted only from the lowest HEAD. -/
def Chan.confirm (c : Chan) (p vc : Nat) : Chan :=
  c.takeHere p vc (isRoll 2) (fun c k =>
    let b := parseRoll k.data
    if 3 ≤ b.axis ∨ (c.lap b.axis).low ≠ some b.head then c
    else if c.lapComplete b then c.confirmDone b
    else (c.closeAxis b).confirmOn b)

/-! ### ALL_PRESENT (R394 to R396) -/

/-- The bits of byte [0]. -/
def apCOMPLETE : Nat := 1
def apALT : Nat := 2
def apABSENT : Nat := 4
def apSEED : Nat := 8

/-- The copies of a spreading bell leave in their order; unusable ports are skipped, and a port that trains is waited for, with the
copies behind it (R392, R393, R395; DEDUCED, notes/assumptions/145.md).  Those still waiting are answered. -/
def Chan.spreadOne : List SpreadCopy → Chan → List SpreadCopy × Chan
  | [], c => ([], c)
  | e :: r, c =>
    if 6 ≤ e.port then Chan.spreadOne r (c.sendBell e.kind e.node e.data)
    else if c.linkState e.port = linkTRAINING then (e :: r, c)
    else Chan.spreadOne r (if c.linkUsable e.port then c.linkBell e.port e.kind e.data else c)

/-- Every spreading bell goes on as far as it can. -/
def Chan.spreadGo (c : Chan) : Chan :=
  c.spread.foldl (fun c l =>
    let (r, c) := Chan.spreadOne l c
    if r.isEmpty then c else c.withSpread (c.spread ++ [r])) (c.withSpread [])

/-- A bell spreads by the copies given. -/
def Chan.spreadBy (c : Chan) (l : List SpreadCopy) : Chan := (c.withSpread (c.spread ++ [l])).spreadGo

/-- The copies of a bell for a list of ports. -/
def copiesBy (kind : Nat) (ports : List Nat) (d : List Byte) : List SpreadCopy :=
  ports.map (fun p => { port := p, kind := kind, node := 0, data := d })

/-- The ports of Table 14-7 by the port of receipt (6: a SEED copy). -/
def apPorts (p : Nat) : List Nat :=
  if p = 6 then [0, 1, 2, 3, 4, 5]
  else if p < 2 then [oppositePort p, 2, 3, 4, 5]
  else if p < 4 then [oppositePort p, 4, 5]
  else [oppositePort p]

/-- The first ALL_PRESENT since reset is recorded and moves a channel out of ROLLCALL (R396). -/
def Chan.apTake (c : Chan) (d : List Byte) : Chan :=
  let fl := leAt d 0 1
  let c := (c.withBoot ({ c.boot with gotAll := true }))
  let c := ((c.sf HR_RC_STAT.ALL_PRESENT 1).sf HR_RC_STAT.COMPLETE fl).sf HR_RC_STAT.HALL_PRESENT (leAt d 1 3)
  let c := c.ev 0x0C 0xC4 (if bit fl 2 || !bit fl 0 then 2 else 0) (det [(16, 1, fl), (17, 3, leAt d 1 3), (20, 3, leAt d 4 3)])
  (if c.phase = 4 then c.phaseDone 4 else c).rollcallEnds

/-- The homeroom sends ALL_PRESENT as leader or as alternate, with SEED copies in either case (Table 14-7). -/
def Chan.sendAll (c : Chan) (alt : Bool) : Chan :=
  let rs := c.boot.reports
  let sum (f : Nat × Nat × Nat → Nat) : Nat := rs.foldl (fun n r => n + f r) 0
  let pr := sum (fun r => r.2.1)
  let by_ := sum (fun r => r.2.2)
  let fl := (if rs.length = c.ringLen 1 * 4 then apCOMPLETE else 0) + (if alt then apALT else 0) +
    (if pr + by_ < fabDeclared c.fabric then apABSENT else 0)
  let d := leBytes 1 fl ++ leBytes 3 pr ++ leBytes 3 by_ ++ leBytes 2 rs.length ++ leBytes 199 0
  let c := (c.withBoot ({ c.boot with sentAll := true }))
  let nx := c.ringLen 0
  let seeds := ((List.range 3).map (· + 1)).map (fun k => ({
    port := 6, kind := bALL_PRESENT, node := withCoord 0 c.node ((nodeX c.node + k * ((nx + 3) / 4)) % nx)
    data := putLe d 0 1 (fl + apSEED) } : SpreadCopy))
  let c := c.spreadBy (copiesBy bALL_PRESENT [0, 1] d ++ seeds ++ copiesBy bALL_PRESENT [2, 3, 4, 5] d)
  if c.boot.gotAll then c else c.apTake d

/-- ALL_PRESENT arrives: a SEED copy is routed, the others travel by single links. -/
def Chan.allPresent (c : Chan) (p vc : Nat) : Chan :=
  let act (c : Chan) (d : List Byte) (from_ : Nat) : Chan :=
    if c.boot.gotAll then c
    else (c.spreadBy (copiesBy bALL_PRESENT (apPorts from_) (putLe d 0 1 (leAt d 0 1 % 8)))).apTake d
  match c.headPkt p vc with
  | none => c
  | some (bs, _) =>
    if bit (leAt (parsePkt bs).data 0 1) 3 then
      c.takePkt p vc (isBell bALL_PRESENT) (fun c k => act c k.data 6)
    else c.takeHere p vc (isBell bALL_PRESENT) (fun c k => act c k.data p)

/-- REPORT reaches the leader or the alternate. -/
def Chan.report (c : Chan) (p vc : Nat) : Chan :=
  c.takePkt p vc (isRoll 3) (fun c k =>
    let b := parseRoll k.data
    let role := c.gf HR_CSTATE.ROLE
    if role = 0 then c
    else
      let ring := nodeY b.node * 4 + nodeZ b.node
      let rs := c.boot.reports.filter (fun r => r.1 != ring) ++ [(ring, b.npres, b.nbyp)]
      let c := (c.withBoot ({ c.boot with reports := rs }))
      if role = 1 ∧ rs.length = c.ringLen 1 * 4 ∧ !c.boot.sentAll then c.sendAll false else c)

/-- LEADER_TIMEOUT: 70 s. -/
def Chan.leaderTimeout (c : Chan) : Chan :=
  if c.gf HR_CSTATE.ROLE = 1 ∧ !c.boot.sentAll ∧ 70 * tSec ≤ c.localTick then c.sendAll false else c

/-- ROLLCALL_ALT_TIMEOUT: 72 s. -/
def Chan.rollAltTimeout (c : Chan) : Chan :=
  if c.gf HR_CSTATE.ROLE = 2 ∧ !c.boot.gotAll ∧ !c.boot.sentAll ∧ 72 * tSec ≤ c.localTick then c.sendAll true
  else c

end Sys2Proof.Machine
end

