-- ==== Sys2Proof/Machine/Recovery.lean ====
section
/-!
DEFINITION. Failures and recovery (R401 to R415): heartbeats, suspects, substitute calls, RECOVER and the reseating.
-/
namespace Sys2Proof.Machine

/-! ### Heartbeats (R402, R403) -/

/-- Does the channel send heartbeats?  In every state after ROLLCALL; in BYPASS once its start-up has ended (R380). -/
def Chan.hbOn (c : Chan) : Bool :=
  let st := c.cstate
  st == csREADY || st == csSERVICE || st == csSUBSTITUTE || st == csFENCED ||
  (st == csBYPASS && (c.phase == 5 || c.flag HR_CSTATE.LATE))

/-- The ports whose neighbours are heartbeat and monitored: those not disabled by the checks of R387. -/
def Chan.hbPorts (c : Chan) : List Nat := (List.range 6).filter (fun p => !(c.nbr p).bad)

/-- HR_HB_STAT.MONITORED follows. -/
def Chan.hbSettle (c : Chan) : Chan :=
  let m := if c.hbOn then c.hbPorts.foldl (fun m p => m + 2 ^ p) 0 else 0
  if c.gf HR_HB_STAT.MONITORED = m then c else c.sf HR_HB_STAT.MONITORED m

/-- The millisecond of homeroom time, counted from 1. -/
def Chan.hbMs (c : Chan) : Nat := c.localTick / tMs + 1

def Chan.job (c : Chan) : Nat := if c.flag CH_SEAT.SEATED then c.gf CH_SEAT.JOB else 0

/-- HEARTBEAT bell data (Table 15-1). -/
def Chan.hbBytes (c : Chan) : List Byte :=
  leBytes 3 c.node ++ leBytes 1 c.cstate ++ leBytes 2 c.job ++ leBytes 2 (c.gf CH_TERM.CUR) ++ leBytes 4 c.hbSeq ++ leBytes 196 0

/-- HEARTBEAT_SEND, once a millisecond. -/
def Chan.heartbeatSend (c : Chan) : Chan :=
  if !c.hbOn || c.hbSent == c.hbMs then c
  else
    let d := c.hbBytes
    let c := c.hbPorts.foldl (fun c p => c.sendBell bHEARTBEAT (c.beyond p) d) c
    ((c.withHbSent c.hbMs).withHbSeq (c.hbSeq + 1))

def Chan.hb (c : Chan) (p : Nat) : Hb := tget (fun _ => {}) c.hbs p
def Chan.setHb (c : Chan) (p : Nat) (x : Hb) : Chan := (c.withHbs (tput (fun _ => {}) c.hbs p x))

/-- HEARTBEAT arrives: the count and the suspect bit of its sender clear. -/
def Chan.heartbeat (c : Chan) (p vc : Nat) : Chan :=
  c.takePkt p vc (isBell bHEARTBEAT) (fun c k =>
    let node := leAt k.data 0 3 % 2 ^ 18
    ((List.range 6).filter (fun q => c.beyond q == node)).foldl (fun c q =>
      (c.setHb q { heard := true, misses := 0, state := leAt k.data 3 1 }).sf HR_HB_STAT.SUSPECT
        (setBits (c.gf HR_HB_STAT.SUSPECT) q 1 0)) c)

/-- A neighbour is suspect. -/
def Chan.suspectNbr (c : Chan) (p : Nat) : Chan :=
  let node := c.beyond p
  let seat := chSeatOf c.chart node
  let c := c.sf HR_HB_STAT.SUSPECT (setBits (c.gf HR_HB_STAT.SUSPECT) p 1 1)
  let c := c.ev 0x0C 0xD1 2 (det [(16, 1, p), (17, 3, node), (20, 1, b2n seat.isSome)])
  match seat with
  | none => c
  | some i =>
    let d := failBytes 1 1 node c.node (chJOB c.chart) (c.gf CH_TERM.CUR) 0 i 0 0
    (c.sendBell bFAILURE node d).tellCoords i d

/-- One tick of one monitored port. -/
def Chan.hbTick1 (c : Chan) (p : Nat) : Chan :=
  let x := c.hb p
  if x.heard then c.setHb p { x with heard := false, misses := 0 }
  else
    let c := (c.setHb p { x with misses := x.misses + 1 }).count HR_CNT_HB_MISS.COUNT 1
    if x.misses + 1 = 3 ∧ x.state ≠ csFENCED ∧ x.state ≠ csBYPASS then c.suspectNbr p else c

/-- HB_TICK, once a millisecond. -/
def Chan.hbTicks (c : Chan) : Chan :=
  if c.hbTick = c.hbMs then c
  else
    let c := (c.withHbTick c.hbMs)
    ((List.range 6).filter (fun p => bit (c.gf HR_HB_STAT.MONITORED) p)).foldl Chan.hbTick1 c

/-! ### Searching for a substitute (R406, R407) -/

/-- A channel of the job in service, or waiting for its bootstrap. -/
def Chan.working (c : Chan) : Bool := (c.cstate == csREADY || c.cstate == csSERVICE) && c.flag CH_SEAT.SEATED

/-- The positions of a ring through `node`, nearest first, plus first on a tie. -/
def ringOut (n ax node : Nat) : List Nat :=
  ((List.range (n / 2)).map (fun k =>
    let d := k + 1
    let v := coord ax node
    let a := withCoord ax node ((v + d) % n)
    let b := withCoord ax node ((v + n - d) % n)
    if a = b then [a] else [a, b])).flatten

/-- The candidates in their order. -/
def Chan.candidates (c : Chan) (failed : Nat) : List Nat :=
  (ringOut (c.ringLen 0) 0 failed ++ ringOut (c.ringLen 1) 1 failed).filter
    (fun n => n != failed && (chSeatOf c.chart n).isNone)

/-- SUBSTITUTE bell data (Table 15-4). -/
def subBytes (op reason caller callee job old seat : Nat) : List Byte :=
  leBytes 1 op ++ leBytes 1 reason ++ leBytes 3 caller ++ leBytes 3 callee ++ leBytes 2 job ++ leBytes 2 old ++
  leBytes 2 seat ++ leBytes 194 0

def uOP (d : List Byte) : Nat := leAt d 0 1
def uREASON (d : List Byte) : Nat := leAt d 1 1
def uCALLER (d : List Byte) : Nat := leAt d 2 3 % 2 ^ 18
def uCALLEE (d : List Byte) : Nat := leAt d 5 3 % 2 ^ 18
def uJOB (d : List Byte) : Nat := leAt d 8 2
def uOLD (d : List Byte) : Nat := leAt d 10 2
def uSEAT (d : List Byte) : Nat := leAt d 12 2

def isFail (phase : Nat) (k : Pkt) : Bool := isBell bFAILURE k && leAt k.data 0 1 == phase
def isSub (op : Nat) (k : Pkt) : Bool := isBell bSUBSTITUTE k && leAt k.data 0 1 == op

def Chan.putSearch (c : Chan) (s : Search) : Chan :=
  (c.withSearches (c.searches.map (fun x => if x.job = s.job ∧ x.seat = s.seat then s else x)))
def Chan.dropSearch (c : Chan) (s : Search) : Chan :=
  (c.withSearches (c.searches.filter (fun x => !(x.job == s.job && x.seat == s.seat))))

/-- The next candidate is called; with none left the search ends in NO_SUBSTITUTE. -/
def Chan.callNext (c : Chan) (s : Search) : Chan :=
  match s.cands with
  | [] =>
    ((c.dropSearch s).sf HR_RECOV_STAT.NO_SUB 1).ev 0x0C 0xD5 2 (det [(16, 3, s.failed), (19, 2, s.seat)])
  | n :: r =>
    (c.putSearch { s with cands := r, called := some (n, c.now), sub := 0, stage := 0, left := 0 }).sendBell bSUBSTITUTE n
      (subBytes 0 0 c.node n s.job s.term s.seat)

/-- This channel acts as coordinator or alternate for a seat. -/
def Chan.actFor (c : Chan) (seat failed cause job term : Nat) : Chan :=
  let s : Search :=
    { seat := seat, failed := failed, cause := cause, job := job, term := term, cands := c.candidates failed, called := none,
      sub := 0, stage := 0, old := term, gen := 0, left := 0 }
  let c := ((c.sf HR_RECOV_STAT.COORD 1).sf HR_RECOV_STAT.FAILED failed).sf HR_RECOV_STAT.CAUSE cause
  let c := ((c.withActed (c.acted ++ [(job, term, seat)])).withSearches (c.searches.filter (fun (x : Search) => !(x.job == job && x.seat == seat)) ++ [s]))
  c.callNext s

/-- A NOTICE or SUSPECT for a seat of the current term reaches its coordinator or its alternate; the alternate waits from the first
one, and not where a RECOVER for that seat and term has come (R406). -/
def Chan.noticed (c : Chan) (d : List Byte) : Chan :=
  let job := fJOB d
  let term := fOLD d
  let i := fSEAT d
  if !c.working ∨ job ≠ c.job ∨ term ≠ c.gf CH_TERM.CUR ∨ c.acted.contains (job, term, i) then c
  else if c.node = c.coordNode i then c.actFor i (fFAILED d) (fCAUSE d) job term
  else if c.node = c.altNode i ∧ ¬ c.altHeard.contains (job, term, i) ∧ ¬ c.recSeen.contains (job, (term + 1) % 2 ^ 16, i) then
    ((c.withAltHeard (c.altHeard ++ [(job, term, i)])).withAltWaits (c.altWaits ++ [{ seat := i, failed := fFAILED d, cause := fCAUSE d, job := job, term := term, since := c.now }]))
  else c

/-- NOTICE. -/
def Chan.notice (c : Chan) (p vc : Nat) : Chan := c.takePkt p vc (isFail 0) (fun c k => c.noticed k.data)

/-- SUSPECT: the accused fences itself, the coordinator and the alternate act (R404, R406). -/
def Chan.suspect (c : Chan) (p vc : Nat) : Chan :=
  c.takePkt p vc (isFail 1) (fun c k =>
    if fFAILED k.data = c.node then if c.cstate = csREADY ∨ c.cstate = csSERVICE then c.fence 5 else c
    else c.noticed k.data)

/-- RECOVERY_ALT_TIMEOUT: 5 s without a RECOVER for the seat, whatever other seats' switches took place meanwhile (R406). -/
def Chan.recoveryAltTimeout (c : Chan) : Chan :=
  match c.altWaits.find? (fun w => decide (w.since + 5 * tSec ≤ c.now)) with
  | none => c
  | some w =>
    let c := (c.withAltWaits (c.altWaits.filter (fun x => x != w)))
    if c.working then c.actFor w.seat w.failed w.cause w.job w.term else c

/-! ### Candidates (R408) -/

/-- CALL: the answer of the called channel. -/
def Chan.called (c : Chan) (p vc : Nat) : Chan :=
  c.takePkt p vc (isSub 0) (fun c k =>
    let d := k.data
    let ans (op reason : Nat) : List Byte := subBytes op reason (uCALLER d) c.node (uJOB d) (uOLD d) (uSEAT d)
    if c.cstate ≠ csSUBSTITUTE then c.sendBell bSUBSTITUTE (uCALLER d) (ans 2 1)
    else if c.claim.isSome then c.sendBell bSUBSTITUTE (uCALLER d) (ans 2 2)
    else
      let c := (c.withClaim (some { job := uJOB d, seat := uSEAT d, caller := uCALLER d, term := uOLD d, since := c.now, up := false }))
      let c := (c.sf HR_RECOV_STAT.CLAIMED 1).ev 0x0C 0xD3 1 (det [(16, 3, uCALLER d), (19, 2, uJOB d), (21, 2, uSEAT d)])
      c.sendBell bSUBSTITUTE (uCALLER d) (ans 1 0))

/-- A claimed spare is claimed no longer. -/
def Chan.unclaim (c : Chan) : Chan := (((c.sf HR_RECOV_STAT.CLAIMED 0).withClaim none).withSubRecover none)

/-- CLAIM_TIMEOUT: 60 s without a RECOVER that names the spare. -/
def Chan.claimTimeout (c : Chan) : Chan :=
  match c.claim with
  | some k => if c.subRecover.isNone ∧ k.since + 60 * tSec ≤ c.now then c.unclaim.pstateReq 3 else c
  | none => c

/-- A claimed spare whose service core runs sends UP, once (R411). -/
def Chan.upSettle (c : Chan) : Chan :=
  match c.claim with
  | some k =>
    if k.up ∨ !c.computeOn ∨ !c.flag SVC_STAT.UP then c
    else ((c.withClaim (some { k with up := true })) : Chan).sendBell bSUBSTITUTE k.caller
      (subBytes 3 0 k.caller c.node k.job k.term k.seat)
  | none => c

/-! ### RECOVER (R409, R410) -/

/-- The key of a RECOVER: job, new term, seat. -/
def recKey (d : List Byte) : Nat × Nat × Nat := (fJOB d, fNEW d, fSEAT d)

/-- A RECOVER spreads by a list of ports, as ALL_PRESENT does. -/
def Chan.recSend (c : Chan) (ports : List Nat) (d : List Byte) : Chan := c.spreadBy (copiesBy bFAILURE ports d)

/-- What a channel does with a RECOVER, besides forwarding it. -/
def Chan.recTake (c : Chan) (d : List Byte) : Chan :=
  let c := (c.withAltWaits (c.altWaits.filter (fun w => !(w.job == fJOB d && w.seat == fSEAT d))))
  let c := match c.claim with
    | some k => if k.job = fJOB d ∧ k.seat = fSEAT d ∧ fSUB d = c.node then (c.withSubRecover (some d)) else c
    | none => c
  if c.working ∧ c.job = fJOB d ∧ c.gf CH_TERM.CUR = fOLD d then (c.withRecovers (c.recovers ++ [(d, c.now)])) else c

/-- The coordinator sends RECOVER over the hall, and takes it itself. -/
def Chan.sendRecover (c : Chan) (s : Search) (old : Nat) : Chan :=
  let gen := (chGEN c.chart + 1) % 2 ^ 16
  let new := (old + 1) % 2 ^ 16
  let d := failBytes 2 s.cause s.failed c.node s.job old new s.seat s.sub gen
  let c := c.putSearch { s with old := old, gen := gen }
  let c := (c.withRecSeen (c.recSeen ++ [recKey d]))
  (c.recSend [0, 1, 2, 3, 4, 5] d).recTake d

/-- RECOVER arrives: the first copy is forwarded and taken. -/
def Chan.recover (c : Chan) (p vc : Nat) : Chan :=
  c.takeHere p vc (isFail 2) (fun c k =>
    let d := k.data
    if c.recSeen.contains (recKey d) then c
    else (((c.withRecSeen (c.recSeen ++ [recKey d])) : Chan).recSend (apPorts p) d).recTake d)

/-- An image with one seat given to a substitute (R410). -/
def chartFor (m : List Byte) (seat sub term gen : Nat) : List Byte :=
  putLe (putLe (putLe m 2 2 term) 4 2 gen) (16 + 4 * seat) 4 (sub + 2 ^ 30 + 2 ^ 31)

/-- A RECOVER has been applied. -/
def Chan.recDone (c : Chan) (d : List Byte) : Chan :=
  let c := ((c.sf HR_RECOV_STAT.RECOVERED 1).sf HR_RECOV_STAT.FAILED (fFAILED d)).sf HR_RECOV_STAT.CAUSE (fCAUSE d)
  let c := (c.sf HR_RECOV_STAT.SUB (fSUB d)).count HR_CNT_RECOV.COUNT 1
  let c := ((c.sf HR_RECOV_TERM.OLD_TERM (fOLD d)).sf HR_RECOV_TERM.NEW_TERM (fNEW d)).sf HR_RECOV_TERM.SEAT (fSEAT d)
  c.ev 0x0C 0xD4 0 (det [(16, 3, fFAILED d), (19, 3, fSUB d), (22, 2, fNEW d)])

/-- The service core applies a RECOVER: it writes the new chart and starts the switch. -/
def Chan.applyRecover (c : Chan) (d : List Byte) : Chan :=
  let a := spBase + Config.chartCopy % 8184 * 65536
  let c := (c.store a (chartFor c.chart (fSEAT d) (fSUB d) (fNEW d) (fGEN d))).2
  let c := c.sf CH_CHART_SRC.ADDR (a / 64)
  let groups := ((List.range 8).filter c.ceEn).foldl (fun m g => m + 2 ^ g) 0
  let tok := if c.flag HR_RECOV_CFG.TOK_EN then 2 ^ 26 + c.gf HR_RECOV_CFG.TOK * 2 ^ 32 else 0
  ((c.withApplying (some d)) : Chan).termCtl (fNEW d + groups * 2 ^ 16 + 2 ^ 24 + 2 ^ 25 + tok)

/-- RECOVER_HOLD_EXPIRY: of the bells held with the current term, the one with the lowest seat is applied. -/
def Chan.recoverHoldExpiry (c : Chan) : Chan :=
  let cur := c.gf CH_TERM.CUR
  let live := c.recovers.filter (fun r => fOLD r.1 == cur)
  if !c.working ∨ c.applying.isSome ∨ !live.any (fun r => decide (r.2 + 2 * tMs ≤ c.now)) then c
  else
    match live.foldl (fun (b : Option (List Byte)) r =>
        match b with | some x => if fSEAT r.1 < fSEAT x then some r.1 else b | none => some r.1) none with
    | none => c
    | some d => ((c.withRecovers []) : Chan).applyRecover d

/-- The switch of an applied RECOVER has ended; a coordinator whose own RECOVER lost sends it again. -/
def Chan.recoverSettle (c : Chan) : Chan :=
  match c.applying with
  | none => c
  | some d =>
    if c.termSw.isSome then c
    else
      let c := (c.withApplying none)
      if c.gf CH_TERM.CUR ≠ fNEW d then c
      else
        let c := c.recDone d
        (c.searches.filter (fun s => s.stage ≥ 1 && s.job == fJOB d && s.seat != fSEAT d && s.old == fOLD d)).foldl
          (fun c s => c.sendRecover s (fNEW d)) c

/-! ### The coordinator and its substitute (R409, R411, R415) -/

/-- The search for a seat that waits on a node. -/
def Chan.searchOf (c : Chan) (d : List Byte) (p : Search → Bool) : Option Search :=
  c.searches.find? (fun s => s.job == uJOB d && s.seat == uSEAT d && p s)

/-- Event SUB_CALLED. -/
def Chan.subCalled (c : Chan) (callee op reason : Nat) : Chan :=
  c.ev 0x0C 0xD2 1 (det [(16, 3, callee), (19, 1, op), (20, 1, reason)])

/-- Does the search wait for the answer of this node? -/
def Search.waits (s : Search) (n : Nat) : Bool := s.stage == 0 && (s.called.map (·.1)) == some n

/-- ACCEPT. -/
def Chan.accept (c : Chan) (p vc : Nat) : Chan :=
  c.takePkt p vc (isSub 1) (fun c k =>
    let n := uCALLEE k.data
    match c.searchOf k.data (fun s => s.waits n) with
    | none => c
    | some s =>
      let s := { s with stage := 1, sub := n, called := some (n, c.now) }
      (((c.subCalled n 1 (uREASON k.data)).sf HR_RECOV_STAT.SUB n).putSearch s).sendRecover s (c.gf CH_TERM.CUR))

/-- REFUSE: of a called candidate, or of a substitute whose image fails its check. -/
def Chan.refused (c : Chan) (p vc : Nat) : Chan :=
  c.takePkt p vc (isSub 2) (fun c k =>
    let n := uCALLEE k.data
    match c.searchOf k.data (fun s => s.waits n) with
    | some s => (c.subCalled n 2 (uREASON k.data)).callNext s
    | none =>
      match c.searchOf k.data (fun s => s.stage == 3 && s.sub == n) with
      | some s => c.callNext s
      | none => c)

/-- CALL_TIMEOUT: 10 ms without an answer. -/
def Chan.callTimeout (c : Chan) : Chan :=
  match c.searches.find? (fun s => s.stage == 0 && (match s.called with | some (_, t) => decide (t + 10 * tMs ≤ c.now) | none => false)) with
  | none => c
  | some s => (c.subCalled ((s.called.map (·.1)).getD 0) 0xFF 0).callNext s

/-- R415: a substitute that has not sent UP within the 2 s that Table 15-5 gives its wake has failed before CHART, and the
next candidate is called.  DESIGN CHOICE (notes/assumptions/135.md): the spec does not say how the coordinator learns of a
failure that no NOTICE, REFUSE or refused write reports. -/
def Chan.upTimeout (c : Chan) : Chan :=
  match c.searches.find? (fun s => s.stage == 1 && (match s.called with | some (_, t) => decide (t + 2 * tSec < c.now) | none => false)) with
  | none => c
  | some s => c.callNext s

/-- Where the coordinator writes the substitute's image. -/
def subImage : Nat := 0x401FF00000

/-- UP: the image goes to the substitute by fabric writes. -/
def Chan.upArrives (c : Chan) (p vc : Nat) : Chan :=
  c.takePkt p vc (isSub 3) (fun c k =>
    let n := uCALLEE k.data
    match c.searchOf k.data (fun s => s.stage == 1 && s.sub == n) with
    | none => c
    | some s =>
      let m := chartFor c.chart s.seat n ((s.old + 1) % 2 ^ 16) s.gen
      let ps := cut m.length
      let c := c.putSearch { s with stage := 2, left := ps.length }
      ps.foldl (fun c e =>
        let bs := (m.drop e.1).take e.2
        c.request { op0 with
          kind := 1
          pkt := { pkt0 with ptype := pWRITE, dst := n, len := e.2, addr := fabAddr n (subImage + e.1), data := bs }
          cont := .unit 4 s.seat s.job }) c)

/-- A write of the image is acknowledged; after the last, CHART goes out. -/
def Chan.imageAcked (c : Chan) (seat job : Nat) : Chan :=
  match c.searches.find? (fun s => s.seat == seat && s.job == job && s.stage == 2) with
  | none => c
  | some s =>
    if 1 < s.left then c.putSearch { s with left := s.left - 1 }
    else (c.putSearch { s with left := 0, stage := 3 }).sendBell bSUBSTITUTE s.sub (subBytes 4 0 c.node s.sub s.job s.old s.seat)

/-- A write of the image fails: the next candidate is called (R415). -/
def Chan.imageFailed (c : Chan) (seat job : Nat) : Chan :=
  match c.searches.find? (fun s => s.seat == seat && s.job == job && s.stage == 2) with
  | some s => c.callNext s
  | none => c

/-- CHART reaches the substitute: the image is checked, installed by an adopting switch, or refused. -/
def Chan.chartArrives (c : Chan) (p vc : Nat) : Chan :=
  c.takePkt p vc (isSub 4) (fun c k =>
    match c.claim with
    | none => c
    | some cl =>
      if cl.job ≠ uJOB k.data ∨ cl.seat ≠ uSEAT k.data ∨ c.cstate ≠ csSUBSTITUTE ∨ !c.computeOn then c
      else
        let c := c.sf CH_CHART_SRC.ADDR (subImage / 64)
        let (img, c) := c.chartAt
        let ok : Bool := match img, c.subRecover with
          | some m, some r =>
            chartOk c.fabric m && chJOB m == fJOB r && chTERM m == fNEW r && chGEN m == fGEN r && chNode m (fSEAT r) == c.node
          | _, _ => false
        let r := c.subRecover.getD []
        let c := if ok then c.termCtl (fNEW r + 2 ^ 24 + 2 ^ 25 + 2 ^ 27) else c
        if ok ∧ c.flag CH_SEAT.SEATED then
          let c := (c.recDone r).unclaim.setCstate csREADY
          (c.withBoot ({ c.boot with strapped := false }))
        else
          let c := c.ev 0x0C 0xD4 2 (det [(16, 3, fFAILED r), (19, 3, fSUB r), (22, 2, fNEW r)])
          (c.unclaim).sendBell bSUBSTITUTE cl.caller (subBytes 2 0 cl.caller c.node cl.job cl.term cl.seat))

end Sys2Proof.Machine
end

