-- ==== Sys2Proof/Machine/Thermal.lean ====
section
/-!
DEFINITION. Temperature, throttling and the environment checks (R479 to R482, R500 to R502).
-/
namespace Sys2Proof.Machine

/-- Degrees in units of 1/16 °C. -/
def deg (n : Int) : Int := n * 16

/-- The band from −40 °C to 150 °C. -/
def tempOk (t : Option Int) : Bool :=
  match t with | some v => decide (deg (-40) ≤ v) && decide (v ≤ deg 150) | none => false

/-- The reading of sensor `n` in HR_TEMPn. -/
def Chan.temp (c : Chan) (n : Nat) : Int := toSigned 16 (c.gf (HR_TEMP.T n))
def Chan.tempValid (c : Chan) (n : Nat) : Bool := c.flag (HR_TEMP.VALID n)

/-- One sensor is sampled; SENSOR_FAULT is raised when it turns invalid. -/
def Chan.sampleOne (c : Chan) (n : Nat) (t : Option Int) : Chan :=
  let was := bit c.sensBad n
  let c := (c.withSensBad (setBits c.sensBad n 1 (b2n (!tempOk t))))
  let c := match t with | some v => c.sf (HR_TEMP.T n) (ofSigned 16 v) | none => c
  if tempOk t then c.sf (HR_TEMP.VALID n) 1
  else
    let c := (c.sf (HR_TEMP.VALID n) 0).sf HR_THERM.SENS_FAULT 1
    if was then c else c.ev 0x0C 0x124 1 (det [(16, 1, n)])

/-- The valid base-die readings with their sensors. -/
def Chan.baseTemps (c : Chan) : List (Nat × Int) :=
  ((List.range 16).filter c.tempValid).map (fun n => (n, c.temp n))

/-- The first sensor with the highest reading. -/
def hottest : List (Nat × Int) → Option (Nat × Int)
  | [] => none
  | e :: r => match hottest r with | some f => if e.2 < f.2 then some f else some e | none => some e

/-- THERM_SAMPLE: 26 sensors, and T_base, once in 100 µs. -/
def Chan.thermSample (c : Chan) (t : List (Option Int)) : Chan :=
  let k := c.localTick / (100 * tUs) + 1
  if c.sampTick = k then c else
  let c := (c.withSampTick k)
  let c := (List.range 26).foldl (fun c n => c.sampleOne n ((t[n]?).getD none)) c
  let ts := c.baseTemps
  let tb : Int := if ts.length < 8 then deg 105 else ((hottest ts).map (·.2)).getD 0
  c.sf HR_THERM.T_BASE (ofSigned 16 tb)

/-- The sensor that asks for a shutdown, if any. -/
def Chan.tooHot (c : Chan) : Option (Nat × Int) :=
  match [24, 25].find? (fun n => c.tempValid n && decide (deg 105 ≤ c.temp n)) with
  | some n => some (n, c.temp n)
  | none => if deg 110 ≤ toSigned 16 (c.gf HR_THERM.T_BASE) then hottest c.baseTemps else none

/-- A shutdown (R482, R501): the channel is fenced with cause THERMAL; one already fenced or in BYPASS loses the compute die's
power. -/
def Chan.thermFence (c : Chan) : Chan :=
  if c.cstate = csFENCED then c.fencePowerdown
  else if c.cstate = csBYPASS then (c.withNoCompute true)
  else c.fence 6

/-- THERM_STEP: the control step of R480, once a millisecond. -/
def Chan.thermStep (c : Chan) : Chan :=
  let ms := c.localTick / tMs + 1
  if c.thermTick = ms then c
  else
    let c := (c.withThermTick ms)
    match c.tooHot with
    | some (n, v) =>
      if (c.cstate = csFENCED ∨ c.cstate = csBYPASS) ∧ c.noCompute then c
      else (c.ev 0x0C 0x123 3 (det [(16, 1, n), (17, 2, ofSigned 16 v)])).thermFence
    | none =>
      let t := toSigned 16 (c.gf HR_THERM.T_BASE)
      let cap := c.gf HR_THERM.ENV_CAP
      let old := c.gf HR_THERM.DUTY
      let held := c.flag HR_THERM.HOLD && decide (deg 103 ≤ t)
      let hold := held || decide (deg 105 ≤ t)
      let c := c.sf HR_THERM.HOLD (b2n hold)
      let c := if hold && !held then c.ev 0x0C 0x122 2 (det [(17, 2, c.gf HR_THERM.T_BASE)]) else c
      let duty :=
        if hold then 1
        else if t < deg 93 then old + 1
        else if t < deg 95 then old
        else max 1 (old - 1)
      let duty := min duty cap
      let c := c.sf HR_THERM.DUTY duty
      if (old = 16 ∧ duty < 16) ∨ (old < 16 ∧ duty = 16) then
        c.ev 0x0C 0x121 1 (det [(16, 1, duty), (17, 2, c.gf HR_THERM.T_BASE)])
      else c

/-! ### The environment (R500, R501, R515) -/

/-- The bounds in force: the channel's ENVIRONMENT section, or Table 19-6. -/
def Chan.envBounds (c : Chan) : List Int :=
  match c.sectionsOf secENVIRONMENT with
  | [] => [4800, 5800, 4400, 6000, deg 15, deg 40, deg 12, deg 45, 2000, 1600]
  | e :: _ => (List.range 10).map (fun i =>
      if 4 ≤ i ∧ i < 8 then toSigned 16 (envBound e i) else (envBound e i : Int))

/-- The band of a reading of quantity `k`, 0 voltage, 1 inlet temperature, 2 flow; a failing sensor is in the derate band. -/
def envBand (b : List Int) (k : Nat) (v : Option Int) : Nat :=
  match v with
  | none => 2
  | some v =>
    let x (i : Nat) : Int := nth 0 b i
    if k = 0 then
      if x 0 ≤ v ∧ v ≤ x 1 then 0 else if x 1 < v ∧ v ≤ x 3 then 1 else if x 2 ≤ v ∧ v < x 0 then 2 else 3
    else if k = 1 then
      if x 4 ≤ v ∧ v ≤ x 5 then 0 else if x 6 ≤ v ∧ v < x 4 then 1 else if x 5 < v ∧ v ≤ x 7 then 2 else 3
    else if x 8 ≤ v then 0 else if x 9 ≤ v then 2 else 3

def bandFld (k : Nat) : Fld :=
  if k = 0 then HR_ENV_STAT.VIN_BAND else if k = 1 then HR_ENV_STAT.TIN_BAND else HR_ENV_STAT.FLOW_BAND

/-- ENV_CAP follows the bands. -/
def Chan.envCap (c : Chan) : Chan :=
  c.sf HR_THERM.ENV_CAP (if (List.range 3).any (fun k => decide (2 ≤ c.gf (bandFld k))) then 8 else 16)

/-- A band is entered or left. -/
def Chan.bandChange (c : Chan) (k old new reading : Nat) : Chan :=
  let c := (c.sf (bandFld k) new).envCap
  let c := if old = 2 ∨ new = 2 then c.ev 0x0C 0x131 1 (det [(16, 1, k), (17, 1, c.gf HR_THERM.ENV_CAP), (18, 2, reading)]) else c
  if new = 1 then c.ev 0x0C 0x130 1 (det [(16, 1, k), (17, 2, reading)])
  else if new = 3 then (c.ev 0x0C 0x132 3 (det [(16, 1, k), (17, 2, reading)])).thermFence
  else c

/-- One quantity is sampled: a worse band is entered on the third successive sample within it, the present one left on the
100th successive sample in a better one. -/
def Chan.envOne (c : Chan) (k : Nat) (v : Option Int) : Chan :=
  let b := envBand c.envBounds k v
  let reading := match v with | some x => ofSigned 16 x | none => 0
  let c := if v.isNone then c.sf HR_THERM.SENS_FAULT 1 else c
  let x := tget (fun _ => {}) c.bands k
  let cur := c.gf (bandFld k)
  let run := if x.seen = b then x.run + 1 else 1
  let better := if b < cur then x.better + 1 else 0
  let put (c : Chan) (y : Band) : Chan := (c.withBands (tput (fun _ => {}) c.bands k y))
  let c := put c { seen := b, run := run, better := better }
  if cur < b ∧ 3 ≤ run then c.bandChange k cur b reading
  else if 100 ≤ better then (put c { seen := b, run := run, better := 0 }).bandChange k cur b reading
  else c

/-- ENV_SAMPLE: voltage and current of the channel's converter, inlet temperature, flow, once in 10 ms.  The current has no
band; a failing sensor of it sets SENS_FAULT. -/
def Chan.envSample (c : Chan) (vin iin : Option Nat) (tin : Option Int) (flow : Option Nat) : Chan :=
  let k := c.localTick / (10 * tMs) + 1
  if c.envTick = k then c else
  let c := (c.withEnvTick k)
  let c := match vin with | some v => c.sf HR_ENV.VIN v | none => c
  let c := match tin with | some v => c.sf HR_ENV.T_IN (ofSigned 16 v) | none => c
  let c := match flow with | some v => c.sf HR_ENV.FLOW v | none => c
  let c := match iin with | some v => c.sf HR_ENV.IIN v | none => c.sf HR_THERM.SENS_FAULT 1
  ((c.envOne 0 (vin.map (fun n => (n : Int)))).envOne 1 tin).envOne 2 (flow.map (fun n => (n : Int)))

end Sys2Proof.Machine
end

