-- ==== Sys2Proof/Machine/Update.lean ====
section
/-!
DEFINITION. The update unit (R267 to R284): UU_UPDATE, its blocks and buddy copies, and UU_DERIVE.  Its queue is 0x14.
-/
namespace Sys2Proof.Machine

def qUU : Nat := 0x14

/-! ### Block table and parameter record (R269, R270) -/

def tNBLK (t : List Byte) : Nat := leAt t 2 2
def tSLOT (t : List Byte) : Nat := leAt t 4 1
def tEntry (t : List Byte) (j : Nat) : List Byte := (t.drop (64 + 64 * j)).take 64
def eJOURNAL (e : List Byte) : Nat := leAt e 0 8
def eSTATE (e : List Byte) : Nat := leAt e 8 8
def eBUDDY (e : List Byte) : Nat := leAt e 16 8
def ePINDEX (e : List Byte) : Nat := leAt e 24 8
def eNELEM (e : List Byte) : Nat := leAt e 32 2

def up64 (n : Nat) : Nat := (n + 63) / 64 * 64

/-- Moments kept by a rule. -/
def moments (rule : Nat) : Nat := if rule = 2 then 1 else if rule = 3 then 2 else 0

/-- R267: bytes of the masters, and of a master slot. -/
def masterBytes (p : List Byte) (n : Nat) : Nat := (if pCOMPACT p then 2 else 4) * n
def slotBytes (p : List Byte) (n : Nat) : Nat := up64 (masterBytes p n) + moments (pRULE p) * up64 (4 * n)

/-- The parts of a slot that carry content: offset and length. -/
def slotParts (p : List Byte) (n : Nat) : List (Nat × Nat) :=
  (0, masterBytes p n) :: (List.range (moments (pRULE p))).map (fun i => (up64 (masterBytes p n) + i * up64 (4 * n), 4 * n))

def isFinPos (v : Nat) : Bool := isFin32 v && !neg32? v && !isZero32 v
def unitRange (v : Nat) : Bool := isFin32 v && (isZero32 v || !neg32? v) && lt32 v one32

/-- Fields of the parameter record that break their ranges, as 0x1000 plus their offset. -/
def parmBad (p : List Byte) : List Nat :=
  let f (off : Nat) (ok : Bool) : List Nat := if ok then [] else [0x1000 + off]
  let rule := pRULE p
  f 0 (rule ≤ 3) ++ f 1 (bits (leAt p 1 1) 4 4 == 0) ++ f 2 (decide (1 ≤ pNSEG p) && decide (pNSEG p ≤ 16)) ++
  f 3 (leAt p 3 1 == 0) ++ f 8 (!pCLIP p || isFinPos (leAt p 8 4)) ++
  f 24 (rule != 3 || unitRange (leAt p 24 4)) ++ f 28 (rule != 3 || unitRange (leAt p 28 4)) ++
  f 36 (decide (pNB p ≤ 4096) && (pNB p != 0 || !pCLIP p)) ++ f 38 (leAt p 38 2 == 0) ++
  f 40 (if pNB p = 0 then leAt p 40 8 == 0 else inMem (leAt p 40 8) (8 * pNB p)) ++ f 56 (leAt p 56 8 == 0) ++
  ((List.range (min 16 (pNSEG p))).flatMap (fun k =>
    f (64 + 16 * k + 12) (leAt p (64 + 16 * k + 12) 3 != 0) ++ f (64 + 16 * k + 15) (decide (leAt p (64 + 16 * k + 15) 1 ≤ 4))))

/-- Fields of the block table that break their ranges, as 0x2000 plus their offset; of its entries, those at hand. -/
def tableBad (p t : List Byte) : List Nat :=
  let f (off : Nat) (ok : Bool) : List Nat := if ok then [] else [0x2000 + off]
  f 0 (leAt t 0 2 == 0x4254) ++ f 2 (decide (1 ≤ tNBLK t) && decide (tNBLK t ≤ 4096)) ++ f 4 (decide (tSLOT t < 8)) ++
  f 5 (leAt t 5 59 == 0) ++
  ((List.range (min 4096 (min (tNBLK t) (t.length / 64 - 1)))).flatMap (fun j =>
    let e := tEntry t j
    let o := 64 + 64 * j
    let n := eNELEM e
    f o (inMem (eJOURNAL e) 64 && eJOURNAL e % 64 == 0) ++
    f (o + 8) (eSTATE e % 64 == 0 && extentOk (eSTATE e) (2 * slotBytes p n)) ++
    f (o + 16) (eBUDDY e == 0 || (match locOf (eBUDDY e) with | .fab _ a => inMem a (64 + 2 * slotBytes p n) | _ => false)) ++
    f (o + 32) (decide (1 ≤ n) && decide (n ≤ 16384)) ++ f (o + 34) (leAt e 34 30 == 0)))

/-- Bytes of the gradient buffer; none while the last entry of the table is not at hand. -/
def gradBytes (t : List Byte) : Nat :=
  if t.length < 64 + 64 * tNBLK t then 0 else 65536 * (tNBLK t - 1) + 4 * eNELEM (tEntry t (tNBLK t - 1))

/-- Bytes of a source operand that need no fetch: inline, or in local memory (R66). -/
def Chan.nearBytes (c : Chan) (seg : Option Seg) (raw : List Byte) (off n : Nat) : Option (List Byte) :=
  match operand seg raw off true n with
  | .inl p => some ((raw.drop p).take n)
  | .addr g => (match locOf g with | .lcl a => if inMem a n then some (c.peek a n) else none | _ => none)
  | _ => none

/-- The block table, with its header's number of entries or, where that extent is not in memory, its header alone, and the parameter
record, where no fetch is needed for them. -/
def Chan.updateInputs (c : Chan) (seg : Option Seg) (raw : List Byte) : Option (List Byte) × Option (List Byte) :=
  ((c.nearBytes seg raw 24 64).map (fun h => (c.nearBytes seg raw 24 (64 + 64 * min 4096 (tNBLK h))).getD h), c.nearBytes seg raw 48 320)

/-- The address and length of a local operand that is read before the checks. -/
def nearExtent (seg : Option Seg) (raw : List Byte) (off n : Nat) : Nat × Nat :=
  match operand seg raw off true n with
  | .addr g => (match locOf g with | .lcl a => if inMem a n then (a, n) else (0, 0) | _ => (0, 0))
  | _ => (0, 0)

/-- A checked read of such an operand. -/
def Chan.nearLook (c : Chan) (seg : Option Seg) (raw : List Byte) (off n : Nat) : Bool × Chan :=
  let e := nearExtent seg raw off n
  c.access 0 e.1 e.2

/-- What the checks of a UU_UPDATE read: the table's header, the table and the parameter record. -/
def Chan.updateLook (c : Chan) (seg : Option Seg) (raw : List Byte) : Bool × Chan :=
  let h := c.nearLook seg raw 24 64
  if h.1 then h
  else
    let t := h.2.nearLook seg raw 24 (64 + 64 * min 4096 (tNBLK ((h.2.nearBytes seg raw 24 64).getD [])))
    if t.1 then t else t.2.nearLook seg raw 48 320

/-- The offsets at which table and record break their rules (R270), those of the record first. -/
def recordsBad (p t : Option (List Byte)) : List Nat :=
  (p.map parmBad).getD [] ++ (match p, t with | some p, some t => tableBad p t | _, _ => [])

/-- Bytes of the block table that the command names, as far as they are known when it is checked. -/
def tableBytes (t : Option (List Byte)) : Nat := match t with | some t => 64 + 64 * tNBLK t | none => 64

/-- UU_UPDATE's operands may lie in the command, in local memory or elsewhere; the records that must be fetched are checked once
they are there. -/
def specUpdate : CmdSpec where
  fields c _ seg raw :=
    let (t, p) := c.updateInputs seg raw
    opdField seg raw 24 true (tableBytes t) ++ opdField seg raw 32 true ((t.map gradBytes).getD 0) ++ opdField seg raw 48 true 320 ++
    zeroField raw 46 47 ++ zeroField raw 56 63 ++ recordsBad p t
  addrs c _ seg raw :=
    let t := (c.updateInputs seg raw).1
    opdAddr seg raw 24 true (tableBytes t) ++ opdAddr seg raw 32 true ((t.map gradBytes).getD 0) ++ opdAddr seg raw 48 true 320
  rows _ _ seg raw := basedRow seg raw [24, 32, 48]
  credit c _ seg raw := c.buddies.isEmpty && c.placeFree seg raw [24, 48] 24
  look c _ seg raw := c.updateLook seg raw

/-! ### Elements (R275, R278, R279) -/

def keyRounds : List Nat → Nat → Nat → Nat
  | [], x, y => x ^^^ y
  | r :: rs, x, y =>
    let x := (x + y) % 2 ^ 64
    let y := rotl64 y r ^^^ x
    keyRounds rs (rotl64 x 29) y

/-- M(seed, idx, st). -/
def keyM (seed idx st : Nat) : Nat :=
  keyRounds [17, 31, 43, 11] (seed ^^^ idx) ((st * 2 ^ 32 + st) ^^^ 0x9E3779B97F4A7C15)

/-- Is the generator in KEYED mode (R279, R160)? -/
def Chan.keyed (c : Chan) : Bool := c.flag UU_CFG.GEN || c.e2

/-- The 16 random bits of an element: KEYED of its index and step, or FREE. -/
def randBits (keyed : Bool) (seed idx st fresh e : Nat) : Nat :=
  if keyed then bits (keyM seed (idx % 2 ^ 64) st) 48 16 else (Config.laneRandom fresh e).toNat

/-- The sign of a value as FP32; a NaN stays. -/
def sgn32 (g : Nat) : Nat := if isNan32 g then nan32 else if isZero32 g then 0 else if neg32? g then 0xBF800000 else one32

/-- One element: master and moments after the update. -/
def updateElem (rule : Nat) (k : List Nat) (p : List Byte) (g w m v : Nat) : Nat × Nat × Nat :=
  let lr := nth 0 k 1
  let dk := nth 0 k 2
  let wd := leAt p 16 4
  let g := mul32 g (nth 0 k 0)
  if rule = 0 then (sub32 w (mul32 lr (add32 g (mul32 wd w))), m, v)
  else if rule = 1 then
    let w := mul32 w dk
    (sub32 w (if isZero32 (sgn32 g) then 0 else mul32 lr (sgn32 g)), m, v)
  else if rule = 2 then
    let d := add32 g (mul32 wd w)
    let m := add32 (mul32 (leAt p 20 4) m) d
    (sub32 w (mul32 lr m), m, v)
  else
    let m := add32 (mul32 (leAt p 24 4) m) (mul32 (nth 0 k 3) g)
    let v := add32 (mul32 (leAt p 28 4) v) (mul32 (nth 0 k 4) (mul32 g g))
    let u := div32 (mul32 m (nth 0 k 5)) (add32 (sqrt32 (mul32 v (nth 0 k 6))) (leAt p 32 4))
    (sub32 (mul32 w dk) (mul32 lr u), m, v)

/-- The stored code of a master. -/
def storeMaster (compact : Bool) (mode : Rnd) (e2 : Bool) (w : Nat) : Nat :=
  if compact then (convert fmtBF16 mode true e2 w).code
  else if e2 then (convert fmtFP32 .rne true true w).code else w

/-- The inactive slot's new contents, from the gradient and the active slot. -/
def Chan.newSlot (c : Chan) (r : UuRun) (b : UuBlk) : List Byte :=
  let p := r.parm
  let e := tEntry r.table b.j
  let n := eNELEM e
  let compact := pCOMPACT p
  let mo := up64 (masterBytes p n)
  let vo := mo + up64 (4 * n)
  let keyed := c.keyed
  let one (i : Nat) : Nat × Nat × Nat :=
    let w := if compact then leAt b.slot (2 * i) 2 * 65536 else leAt b.slot (4 * i) 4
    let (w, m, v) := updateElem (pRULE p) r.consts p (leAt b.grad (4 * i) 4) w (leAt b.slot (mo + 4 * i) 4) (leAt b.slot (vo + 4 * i) 4)
    let mode := if compact && pMSR p then Rnd.sr (randBits keyed (leAt p 48 8) (ePINDEX e + i) r.step c.fresh i) else .rne
    (storeMaster compact mode c.e2 w, m, v)
  let es := (List.range n).map one
  let ms := padTo mo (es.flatMap (fun x => leBytes (if compact then 2 else 4) x.1))
  let m1 := if 1 ≤ moments (pRULE p) then padTo (up64 (4 * n)) (es.flatMap (fun x => leBytes 4 x.2.1)) else []
  let m2 := if 2 ≤ moments (pRULE p) then padTo (up64 (4 * n)) (es.flatMap (fun x => leBytes 4 x.2.2)) else []
  ms ++ m1 ++ m2

/-! ### Blocks (R276, R283) -/

def Chan.onBlk (c : Chan) (j : Nat) (f : UuBlk → UuBlk) : Chan :=
  (c.withUu (c.uu.map (fun r => { r with blks := r.blks.map (fun b => if b.j = j then f b else b) })))

/-- Blocks in flight: begun and neither committed nor skipped, of a command that runs. -/
def Chan.uuFlight (c : Chan) : Nat :=
  match c.uu with
  | some r => if c.isRunning qUU r.seq then (r.blks.filter (fun b => b.st != 0 && b.st != 5)).length else 0
  | none => 0

/-- UU_STAT as it reads (R285). -/
def Chan.uuStat (c : Chan) : Nat :=
  setBits (setBits (c.rd UU_STAT.off) 3 1 (b2n (!c.buddies.isEmpty))) 4 5 c.uuFlight

/-- The journal word of a block: STEP, and ACTIVE. -/
def Chan.journal (c : Chan) (e : List Byte) : Nat × Bool := (c.peekLe (eJOURNAL e) 4, bit (c.peekLe (eJOURNAL e + 6) 1) 0)

/-- Has the block been committed for this step already? -/
def Chan.blkDone (c : Chan) (e : List Byte) (step : Nat) : Bool := !later 32 step (c.journal e).1

/-- Address of a block's slot A or B. -/
def slotAt (p e : List Byte) (b : Bool) : Nat := eSTATE e + (if b then slotBytes p (eNELEM e) else 0)

/-- Bytes of a block's source read now when local, or asked for. -/
def Chan.blkRead (c : Chan) (seq j g n tag : Nat) : Option (List Byte) × Chan :=
  match locOf g with
  | .lcl a => c.load a n
  | l => (some [], c.getRemote qUU seq l n (fun o => .unit 6 j (tag + o)))

/-- A block begins: its journal decides, and its gradient and active slot are read. -/
def Chan.blkBegin (c : Chan) (r : UuRun) (j : Nat) : Chan :=
  let e := tEntry r.table j
  match c.load (eJOURNAL e) 32 with
  | (none, c) => c.fail qUU r.seq haltMEM 0
  | (some _, c) =>
    if c.blkDone e r.step then (c.count UU_CNT_SKIPBLK.COUNT 1).onBlk j (fun b => { b with st := 5 })
    else
      let n := eNELEM e
      match (match r.inl with
        | some bs => (some ((bs.drop (65536 * j)).take (4 * n)), c)
        | none => c.blkRead r.seq j (r.grad + 65536 * j) (4 * n) 0) with
      | (none, c) => c.fail qUU r.seq haltMEM 0
      | (some g, c) =>
        match c.blkRead r.seq j (slotAt r.parm e (c.journal e).2) (slotBytes r.parm n) (2 ^ 40) with
        | (none, c) => c.fail qUU r.seq haltMEM 0
        | (some s, c) =>
          let wait := (c.ops ++ c.opq).any (fun o => match o.cont with | .unit 6 k _ => o.q == qUU && k == j | _ => false)
          c.onBlk j (fun b => { b with st := if wait then 1 else 2, grad := padTo (4 * n) g, slot := padTo (slotBytes r.parm n) s })

/-- Blocks in the slow tier begin while fewer than 16 are in flight (R283). -/
def Chan.uuPump (c : Chan) : Chan :=
  match c.uu with
  | none => c
  | some r =>
    r.blks.foldl (fun (c : Chan) (b : UuBlk) =>
      match c.uu with
      | none => c
      | some r' =>
        let busy := (r'.blks.filter (fun b => b.st != 0 && b.st != 5)).length
        let slow : Bool := match locOf (eSTATE (tEntry r.table b.j)) with | .lcl _ => false | _ => true
        if b.st = 0 ∧ slow = true ∧ busy < 16 ∧ c.isRunning qUU r.seq = true then c.blkBegin r b.j else c) c

/-- R282: the committed slot of a block goes to its buddy. -/
def Chan.buddySend (c : Chan) (r : UuRun) (b : UuBlk) (toB : Bool) (word : List Byte) : Chan :=
  let e := tEntry r.table b.j
  match locOf (eBUDDY e) with
  | .fab node a =>
    if eBUDDY e = 0 then c
    else
      let base := a + 64 + (if toB then slotBytes r.parm (eNELEM e) else 0)
      let ps := (slotParts r.parm (eNELEM e)).flatMap (fun q => (cut q.2).map (fun x => (q.1 + x.1, x.2)))
      let c := (c.withBuddies (c.buddies ++ [{ blk := b.j, addr := eBUDDY e, step := r.step, sentWord := false, left := ps.length, word := word }]))
      ps.foldl (fun c q => c.request { op0 with
        kind := 1, cont := .unit 2 b.j 0
        pkt := { pkt0 with ptype := pWRITE, dst := node, len := q.2, addr := fabAddr node (base + q.1), data := (b.new.drop q.1).take q.2 } }) c
  | _ => c

/-- R276 step 5: the journal word commits the block. -/
def Chan.blkCommit (c : Chan) (r : UuRun) (b : UuBlk) : Chan :=
  let e := tEntry r.table b.j
  let toB := !(c.journal e).2
  let word := leBytes 4 r.step ++ leBytes 2 r.term ++ leBytes 1 (b2n toB) ++ leBytes 1 (pRULE r.parm) ++ leBytes 24 0
  match c.store (eJOURNAL e) word with
  | (true, c) => c.fail qUU r.seq haltMEM 0
  | (false, c) =>
    let c := ((c.count UU_CNT_BLOCKS.COUNT 1).count UU_CNT_ELEMS.COUNT (eNELEM e)).onBlk b.j (fun b => { b with st := 5, grad := [], slot := [], new := [] })
    c.buddySend r b toB (word ++ leBytes 32 0)

/-- A block whose inputs are at hand is computed and its inactive slot written. -/
def Chan.blkWrite (c : Chan) (r : UuRun) (b : UuBlk) : Chan :=
  let e := tEntry r.table b.j
  let b := { b with new := c.newSlot r b }
  let c := ((c.withFresh (c.fresh + 1)) : Chan).addWork qUU r.seq (ceilDiv (eNELEM e) (if pRULE r.parm = 3 then 64 else 128))
  let g := slotAt r.parm e (!(c.journal e).2)
  let parts := slotParts r.parm (eNELEM e)
  match locOf g with
  | .lcl a =>
    let (bad, c) := parts.foldl (fun acc q => let (x, c) := acc.2.store (a + q.1) ((b.new.drop q.1).take q.2); (acc.1 || x, c)) (false, c)
    if bad then c.fail qUU r.seq haltMEM 0 else c.blkCommit r b
  | l =>
    let c := c.onBlk b.j (fun _ => { b with st := 3 })
    parts.foldl (fun c q => (cut q.2).foldl (fun c x =>
      let data := (b.new.drop (q.1 + x.1)).take x.2
      match l with
      | .fab node a => c.cmdOp qUU r.seq { op0 with
          kind := 1, cont := .unit 7 b.j 0
          pkt := { pkt0 with ptype := pWRITE, dst := node, len := x.2, addr := fabAddr node (a + q.1 + x.1), data := data } }
      | .host pa => c.cmdOp qUU r.seq { op0 with
          kind := 1, host := true, cont := .unit 7 b.j 1
          pkt := { pkt0 with ptype := pWRITE, len := x.2, addr := pa + q.1 + x.1, data := data } }
      | _ => c) c) c

/-- BLOCK_COMMIT: the block at place `i` of the running command goes on: it begins, is computed and written, or commits.  Elements
are processed in open cycles only (R481). -/
def Chan.blockCommit (c : Chan) (i : Nat) : Chan :=
  match c.uu with
  | none => c
  | some r =>
    if !c.isRunning qUU r.seq then c
    else
      match r.blks.find? (fun b => b.j == i) with
      | none => c
      | some b =>
        let busy := (r.blks.filter (fun b => b.st != 0 && b.st != 5)).length
        let c := if b.st = 0 ∧ busy < 16 then c.blkBegin r i else c
        match c.uu.bind (fun r => r.blks.find? (fun b => b.j == i)) with
        | none => c
        | some b =>
          if !c.isRunning qUU r.seq then c
          else if b.st = 2 then if c.openCycle c.cyc8 then (c.blkWrite r b).uuPump else c
          else if b.st = 4 then (c.blkCommit r b).uuPump
          else c

/-! ### The command (R271, R272) -/

def normPairs (n : Nat) (bs : List Byte) : List (Nat × Nat) := (List.range n).map (fun i => (leAt bs (8 * i) 4, leAt bs (8 * i + 4) 4))

/-- Steps 3 and 4 of R271, given the block table, the parameter record and the norm's pairs. -/
def Chan.updateBegin (c : Chan) (q seq grad term step : Nat) (inl : Option (List Byte)) (t p nb : List Byte) : Chan :=
  let g2 := normSum (normPairs (pNB p) nb) 0 0
  let k := if pNB p = 0 then leAt p 12 4 else clipFactor p g2
  let r : UuRun :=
    { seq := seq, table := t, parm := p, grad := grad, inl := inl, term := term, step := step
      consts := stepConsts p step k c.fresh, blks := [] }
  let c := (c.withFresh (c.fresh + 1))
  if pNB p ≠ 0 ∧ ¬ isFin32 g2 then
    let c := ((c.count UU_CNT_NONFIN.COUNT 1).sf UU_STAT.SKIPPED 1).ev 0x04 0x71 2 (det [(16, 4, step), (20, 1, b2n (pSKIP p))])
    if pSKIP p then (c.withUu (some r)) else c.fail q seq haltNUMERIC 0
  else
    let c := c.onCmd q seq (fun h => { h with ready := c.now + 8 * (64 + pNB p) })
    ((c.withUu (some { r with blks := (List.range (tNBLK t)).map (fun j => { j := j, st := 0, grad := [], slot := [], new := [] }) })) : Chan).uuPump

/-- The rest of a block table whose header has been fetched: where it lies, and its bytes. -/
def tableRest (seg : Option Seg) (raw t : List Byte) : Option (Loc × Nat) :=
  let n := tNBLK t
  match operand seg raw 24 true 64 with
  | .addr g =>
    if t.length = 64 ∧ 1 ≤ n ∧ n ≤ 4096 ∧ extentOk g (64 + 64 * n) then
      (match locOf g with | .fab k a => some (.fab k (a + 64), 64 * n) | .host a => some (.host (a + 64), 64 * n) | _ => none)
    else none
  | _ => none

/-- R271 step 2: TERM differs from UU_TERM; the command reads and writes no block. -/
def Chan.updateStale (c : Chan) (raw : List Byte) : Chan :=
  ((c.count UU_CNT_STALE.COUNT 1).sf UU_STAT.STALE 1).ev 0x04 0x70 1
    (det [(16, 2, fieldOf raw 40 41), (18, 2, c.gf UU_TERM.TERM), (20, 4, fieldOf raw 42 45)])

/-- A UU_UPDATE whose block table and parameter record are at hand is checked (R270) and goes on (R271). -/
def Chan.updateReady (c : Chan) (q seq : Nat) (h : Started) (t p : List Byte) : Chan :=
  let raw := h.raw
  let seg := c.segOf q
  match least (recordsBad (some p) (some t) ++ opdField seg raw 32 true (gradBytes t)) with
  | some d => c.fail q seq haltFIELD d
  | none =>
    if !(opdAddr seg raw 24 true (64 + 64 * tNBLK t)).isEmpty then c.fail q seq haltADDR 24
    else if !(opdAddr seg raw 32 true (gradBytes t)).isEmpty then c.fail q seq haltADDR 32
    else if fieldOf raw 40 41 ≠ c.gf UU_TERM.TERM then c.updateStale raw
    else
      let inl := match operand seg raw 32 true (gradBytes t) with | .inl o => some (raw.drop o) | _ => none
      match c.load (leAt p 40 8) (8 * pNB p) with
      | (none, c) => c.fail q seq haltMEM 0
      | (some nb, c) => c.updateBegin q seq (opdGlobal seg raw 32) (fieldOf raw 40 41) (fieldOf raw 42 45) inl t p nb

/-- Everything that a UU_UPDATE has asked for is there: the rest of its block table is fetched, or it goes on. -/
def Chan.updateGathered (c : Chan) (q seq : Nat) : Chan :=
  if c.gathering q seq then c
  else
    match (c.queue q).cmd? seq with
    | none => c
    | some h =>
      let t := c.gatheredOf q seq false
      match tableRest (c.segOf q) h.raw t with
      | some (l, n) => c.getRemote q seq l n (fun o => .gather (64 + o))
      | none =>
        let p := c.gatheredOf q seq true
        ((c.withGathered (c.gathered.filter (fun e => !(e.1 == q && e.2.1 == seq)))) : Chan).updateReady q seq h t p

/-- A source of a UU_UPDATE is read, or asked for: `n` bytes, put at `base` among what the command gathers. -/
def Chan.updateFetch (c : Chan) (q seq : Nat) (raw : List Byte) (off n base : Nat) : Chan :=
  match c.atHand (c.segOf q) raw off n with
  | (some (some bs), c) => c.gatherPut q seq base bs
  | (some none, c) => c.fail q seq haltMEM 0
  | (none, c) =>
    match operand (c.segOf q) raw off true n with
    | .addr g => c.getRemote q seq (locOf g) n (fun o => .gather (base + o))
    | _ => c

def Chan.updateStart (c : Chan) (q seq : Nat) : Chan :=
  match (c.queue q).cmd? seq with
  | none => c
  | some h =>
    let raw := h.raw
    let t := (c.updateInputs (c.segOf q) raw).1
    let c := (c.withUu none).updateFetch q seq raw 24 (tableBytes t) 0
    let c := if c.isRunning q seq then c.updateFetch q seq raw 48 320 sideAt else c
    if c.isRunning q seq then c.updateGathered q seq else c

def specUuUpdate : CmdSpec := { specUpdate with start := fun c q seq => c.updateStart q seq }

/-- UU_UPDATE may complete: every block is committed or skipped. -/
def Chan.uuMayEnd (c : Chan) (seq : Nat) : Bool :=
  match c.uu with
  | some r => r.seq != seq || r.blks.all (fun b => b.st == 5)
  | none => true

/-- What the completion of a UU_UPDATE writes (R266, R285); DONE_STEP before any register write of the same cycle. -/
def Chan.uuDone (c : Chan) (seq : Nat) : Chan :=
  match c.uu with
  | some r =>
    if r.seq ≠ seq then c
    else ((((c.withUu none) : Chan).sf (VS_DONE.DONE_STEP (tSLOT r.table)) r.step).claimReg (VS_DONE.off (tSLOT r.table))).sf UU_STAT.LAST_STEP r.step
  | none => c

/-! ### Responses -/

/-- A piece of a block's inputs arrives. -/
def Chan.uuData (c : Chan) (j tag : Nat) (bs : List Byte) : Chan :=
  let put (l : List Byte) (o : Nat) : List Byte := l.take o ++ bs ++ l.drop (o + bs.length)
  let c := c.onBlk j (fun b => if tag < 2 ^ 40 then { b with grad := put b.grad tag } else { b with slot := put b.slot (tag - 2 ^ 40) })
  if (c.ops ++ c.opq).any (fun o => match o.cont with | .unit 6 k _ => o.q == qUU && k == j | _ => false) then c
  else c.onBlk j (fun b => { b with st := 2 })

/-- A write of an inactive slot is acknowledged; host memory is then read back (R276 step 4). -/
def Chan.uuWritten (c : Chan) (j host : Nat) : Chan :=
  if (c.ops ++ c.opq).any (fun o => match o.cont with | .unit 7 k _ => o.q == qUU && k == j | _ => false) then c
  else if host = 0 then c.onBlk j (fun b => { b with st := 4 })
  else
    match c.uu with
    | none => c
    | some r =>
      let e := tEntry r.table j
      let n := slotBytes r.parm (eNELEM e)
      match locOf (slotAt r.parm e (!(c.journal e).2)) with
      | .host pa => c.cmdOp qUU r.seq { op0 with
          host := true, cont := .unit 8 j 0, pkt := { pkt0 with ptype := pREAD, len := 64, addr := pa + n - 64 } }
      | _ => c

/-- A buddy write is acknowledged. -/
def Chan.buddyAck (c : Chan) (j : Nat) : Chan :=
  match c.buddies.find? (fun b => b.blk == j) with
  | none => c
  | some b =>
    if 1 < b.left then (c.withBuddies (c.buddies.map (fun x => if x.blk = j then { x with left := x.left - 1 } else x)))
    else if b.sentWord then (c.withBuddies (c.buddies.filter (fun x => x.blk != j)))
    else
      let c := (c.withBuddies (c.buddies.map (fun x => if x.blk = j then { x with left := 1, sentWord := true } else x)))
      match locOf b.addr with
      | .fab node a => c.request { op0 with
          kind := 1, cont := .unit 2 j 0, pkt := { pkt0 with ptype := pWRITE, dst := node, len := 64, addr := fabAddr node a, data := b.word } }
      | _ => c

/-- A buddy write fails. -/
def Chan.buddyLost (c : Chan) (j : Nat) : Chan :=
  match c.buddies.find? (fun b => b.blk == j) with
  | none => c
  | some b =>
    let node := match locOf b.addr with | .fab n _ => n | _ => 0
    let c := (((c.withBuddies (c.buddies.filter (fun x => x.blk != j))).withOpq (c.opq.filter (fun (o : Op) => o.cont != OpCont.unit 2 j 0))).withOps (c.ops.map (fun (o : Op) => if o.cont = OpCont.unit 2 j 0 then { o with cont := .ack } else o)))
    (c.sf UU_STAT.BUDDY_LOST 1).ev 0x04 0x72 2 (det [(16, 2, j), (18, 4, b.step), (22, 3, node)])

/-! ### UU_DERIVE (R280, R281) -/

def dvCount (raw : List Byte) : Nat := fieldOf raw 48 51
def dvEntry (raw : List Byte) : Nat := bits (fieldOf raw 40 40) 0 2
def dvSlot (raw : List Byte) : Nat := bits (fieldOf raw 40 40) 2 3
def dvCheck (raw : List Byte) : Bool := bit (fieldOf raw 40 40) 5
def dvSR (raw : List Byte) : Bool := bit (fieldOf raw 42 42) 0
def dvBF16 (raw : List Byte) : Bool := bit (fieldOf raw 42 42) 1
def dvMaster (raw : List Byte) : Nat := (if dvBF16 raw then 2 else 4) * dvCount raw

/-- An MX block rounded stochastically (R281). -/
def convertMxSr (f : Fmt) (rs : List Nat) (vs : List Nat) : Nat × List Conv :=
  if vs.any (fun v => !isFin32 v) then convertMx f .rne vs
  else
    match f32 (vs.foldl (fun a v => max a (abs32 v)) 0) with
    | .fin _ m q =>
      let x0 : Int := if m = 0 then -127 else (msb m : Int) + q - emaxOf f
      let t := f.roundMag .rtz false m (q - x0)
      let x1 : Int := if m ≠ 0 ∧ (f.over t ∨ t.code = f.maxCode ∧ t.inexact) then x0 + 1 else x0
      let x : Int := max x1 (-127)
      let one (i v : Nat) : Conv :=
        match f32 v with
        | .fin s m q =>
          if m = 0 then { code := f.sign s }
          else
            let r := f.roundMag (.sr (nth 0 rs i)) s m (q - x)
            { code := r.code + f.sign s, van := r.code == 0, sub := f.isSub r.code }
        | _ => { code := 0 }
      ((x + 127).toNat, (List.range vs.length).map (fun i => one i (nth 0 vs i)))
    | _ => convertMx f .rne vs

/-- FP32 values to a format with stochastic rounding, given each element's random bits. -/
def convertSr (fmt : Nat) (e2 : Bool) (rs vs : List Nat) : List Byte × List Byte × ConvCnt :=
  let f := fmtOf fmt
  if isMx fmt then
    let bs := ((blocks32 vs.length vs).zip (blocks32 rs.length rs)).map (fun b => convertMxSr f b.2 b.1)
    let cs := bs.flatMap (·.2)
    (packElems fmt (cs.map (·.code)), bs.map (fun b => BitVec.ofNat 8 b.1), countConv vs cs)
  else
    let cs := (vs.zip rs).map (fun e => convert f (.sr e.2) true e2 e.1)
    (packElems fmt (cs.map (·.code)), [], countConv vs cs)

/-- What a UU_DERIVE samples when it starts (R279, R285): DONE_STEP, UU_DPBASE and the seed, as bytes. -/
def Chan.deriveSample (c : Chan) (raw : List Byte) : List Byte :=
  leBytes 4 (c.gf (VS_DONE.DONE_STEP (dvSlot raw))) ++ leBytes 8 (c.gf UU_DPBASE.PBASE) ++ leBytes 8 (c.gf UU_DSEED.SEED)

/-- The master values at hand are derived and written, with the step, base and seed sampled at the start. -/
def Chan.deriveWrite (c : Chan) (q seq : Nat) (h : Started) (sample bs : List Byte) : Chan :=
  let raw := h.raw
  let n := dvCount raw
  let fmt := c.promote q (fieldOf raw 41 41)
  let vs := (List.range n).map (fun i => if dvBF16 raw then leAt bs (2 * i) 2 * 65536 else leAt bs (4 * i) 4)
  let st := (leAt sample 0 4 + 1) % 2 ^ 32
  let rs := (List.range n).map (fun e =>
    randBits c.keyed (leAt sample 12 8) (setBits (leAt sample 4 8 + e) 63 1 1) st c.fresh e)
  let (out, sc, k) := if dvSR raw then convertSr fmt c.e2 rs vs else convertAll fmt .rne true c.e2 vs
  let c := ((c.withFresh (c.fresh + 1)) : Chan).addWork q seq (ceilDiv n 256)
  let c := (c.rptConv q seq (tagOf raw) k).count UU_CNT_ELEMS.COUNT n
  let c := c.putGlobal q seq h.pos out
  if isMx fmt ∧ c.isRunning q seq then c.putGlobal q seq (h.pos + mxBase fmt n) sc else c

def Chan.deriveStart (c : Chan) (q seq : Nat) : Chan :=
  match (c.queue q).cmd? seq with
  | none => c
  | some h =>
    let raw := h.raw
    let seg := c.segOf q
    let n := dvMaster raw
    let h := { h with pos := opdGlobal seg raw 32 }
    let c := c.onCmd q seq (fun x => { x with pos := h.pos })
    let sample := c.deriveSample raw
    match c.atHand seg raw 24 n with
    | (some (some bs), c) => c.deriveWrite q seq h sample bs
    | (some none, c) => c.fail q seq haltMEM 0
    | (none, c) =>
      match operand seg raw 24 true n with
      | .addr g => (c.gatherPut q seq sideAt sample).getRemote q seq (locOf g) n .gather
      | _ => c

/-- The masters of a UU_DERIVE have been fetched. -/
def Chan.deriveGathered (c : Chan) (q seq : Nat) : Chan :=
  if c.gathering q seq then c
  else
    match (c.queue q).cmd? seq with
    | none => c
    | some h =>
      let bs := c.gatheredOf q seq false
      let sample := c.gatheredOf q seq true
      ((c.withGathered (c.gathered.filter (fun e => !(e.1 == q && e.2.1 == seq)))) : Chan).deriveWrite q seq h sample bs

/-- What a command of the update unit has asked for is there. -/
def Chan.uuGathered (c : Chan) (q seq : Nat) : Chan :=
  match (c.queue q).cmd? seq with
  | none => c
  | some h => if opcodeOf h.raw = 0x40 then c.updateGathered q seq else c.deriveGathered q seq

def specDerive : CmdSpec where
  fields c q seg raw :=
    let f := c.promote q (fieldOf raw 41 41)
    opdField seg raw 24 true (dvMaster raw) ++ opdField seg raw 32 false 0 ++ mustBe 40 (bits (fieldOf raw 40 40) 6 2 = 0) ++
    mustBe 41 (fmtOk (fieldOf raw 41 41)) ++ mustBe 42 (fieldOf raw 42 42 ≤ 3) ++ zeroField raw 43 47 ++
    mustBe 48 (dvCount raw != 0) ++ zeroField raw 52 63 ++
    (if isMx f then mustBe 48 (dvCount raw % 32 = 0) ++ mustBe 32 (opdGlobal seg raw 32 % 32 = 0) else [])
  addrs c q seg raw :=
    opdAddr seg raw 24 true (dvMaster raw) ++
    opdAddr seg raw 32 false (streamBytes (c.promote q (fieldOf raw 41 41)) (dvCount raw))
  rows c q seg raw :=
    basedRow seg raw [24, 32] ++ (if c.e2 && isMx (c.promote q (fieldOf raw 41 41)) then [6] else [])
  credit c _ seg raw := (!dvCheck raw || !c.vsReady (dvSlot raw) (dvEntry raw)) && c.placeFree seg raw [24] 32
  start c q seq := c.deriveStart q seq

end Sys2Proof.Machine
end

