-- ==== Sys2Proof/Machine/Regs.lean ====
section
/-!
DEFINITION. Register accesses of a channel: what each register reads as, and what a write of it does (R5 to R9, R557 to R564
and the register tables of each chapter).  A register whose write has no behaviour of its own takes the access codes of its
fields.
-/
namespace Sys2Proof.Machine

/-- Has the block that holds offset `off` power (Table 8-5, R213)?  The homeroom and the corridor switch with its ports stand
with the homeroom's supply. -/
def Chan.blockOn (c : Chan) (off : Nat) : Bool :=
  if 0x10000000 ≤ off then true
  else if off < 0x10000 ∨ (0x90000 ≤ off ∧ off < 0xB0000) then c.homeOn
  else if off < 0x30000 ∨ (0xB0000 ≤ off ∧ off < 0x100000) then c.baseOn
  else c.computeOn

/-! ### Reads -/

/-- The queue whose registers lie at the start of the page that holds `off` (R86), if it is one. -/
def queuePage (off : Nat) : Option Nat :=
  if 0x100000 ≤ off ∧ off < 0x110000 then some ((off - 0x100000) / 0x1000)
  else if 0x110000 ≤ off ∧ off < 0x114000 then some (0x10 + (off - 0x110000) / 0x1000)
  else if 0x50000 ≤ off ∧ off < 0x51000 then some 0x14
  else if 0x130000 ≤ off ∧ off < 0x138000 then some (0x18 + (off - 0x130000) / 0x1000)
  else if 0x70000 ≤ off ∧ off < 0x71000 then some 0x20
  else if 0x10000000 ≤ off ∧ off < 0x10001000 then some 0x80
  else none

/-- The lesson base Q_LBn as it reads: the bases of the running segment, zero outside a lesson (R91). -/
def Chan.qLb (c : Chan) (q n : Nat) : Nat :=
  match (c.queue q).seg with | some sg => nth 0 sg.bases n | none => 0

/-- CS_OUTST (R364, R371). -/
def Chan.outstStat (c : Chan) : Nat := c.outstanding 0 + c.outstanding 1 * 2 ^ 16 + c.tc0.length * 2 ^ 32

/-- Bits that are write-only read 0 (Table 0-2). -/
def RegDesc.readMask (d : RegDesc) : Nat :=
  d.fields.foldl (fun m f => if f.acc = .wo then m else m + (2 ^ f.w - 1) * 2 ^ f.lo) 0

/-- The contents as the access codes let them read. -/
def Chan.plainRead (c : Chan) (off : Nat) : Nat :=
  match chanDesc off with | some d => c.rd off &&& d.readMask | none => 0

/-- Registers of a queue page. -/
def Chan.readQueue (c : Chan) (q o off : Nat) : Nat :=
  if o = 0x10 then c.qStat q
  else if 0x40 ≤ o ∧ o < 0x80 ∧ o % 8 = 0 then c.qLb q ((o - 0x40) / 8)
  else if q < 0x10 ∧ o = 0x108 then c.meStat q
  else if q = 0x14 ∧ o = 0x128 then c.uuStat
  else if q = 0x20 ∧ 0x400 ≤ o ∧ o < 0x800 ∧ o % 0x80 = 0x58 then
    let g := (o - 0x400) / 0x80
    setBits (c.plainRead off) 3 1 (b2n (c.ceIv2 g))
  else if q = 0x80 ∧ o = 0x100 then setBits (c.plainRead off) 0 16 c.hqHead
  else if q = 0x80 ∧ o = 0x110 then
    setBits (setBits (c.plainRead off) 0 1 (b2n c.ucUp)) 1 1 (b2n c.reach)
  else c.plainRead off

/-- Registers of the CIC. -/
def Chan.readCic (c : Chan) (off : Nat) : Nat :=
  let o := off - 0x20000
  if o = 0x208 then c.gf CIC_SWSRC_SET.BITS
  else if 0x400 ≤ o ∧ o < 0x580 then
    let t := (o - 0x400) / 0x40
    if o % 0x40 = 0 then c.cicTop t
    else if o % 0x40 = 0x18 then c.cicStat t
    else c.plainRead off
  else if 0x1000 ≤ o ∧ o < 0x2000 ∧ o % 8 = 0 then c.cicSrc ((o - 0x1000) / 8)
  else c.plainRead off

/-- A register as it reads. -/
def Chan.regRead (c : Chan) (off : Nat) : Nat :=
  if !c.blockOn off then 0
  else
    match queuePage off with
    | some q => c.readQueue q (off % 0x1000) off
    | none =>
      if 0x20000 ≤ off ∧ off < 0x30000 then c.readCic off
      else if off = CH_CHART_ENT.off then c.chartEnt
      else if off = CS_OUTST.off then c.outstStat
      else if 0x140000 ≤ off ∧ off < 0x144000 ∧ off % 0x1000 = 0x18 then c.scStat ((off - 0x140000) / 0x1000)
      else c.plainRead off

/-! ### Counter clears (R118, R187, R189, R260, R285, R321, R373, R375, R464, R484, R448) -/

/-- The counters that the CNT_CTL register at `off` clears, as ranges of keys; none where no such register lies. -/
def counterRanges (off : Nat) : List (Nat × Nat) :=
  if 0x100000 ≤ off ∧ off < 0x110000 ∧ off % 0x1000 = 0x160 then [(off - 0x20, off)]
  else if 0x110000 ≤ off ∧ off < 0x114000 ∧ off % 0x1000 = 0x160 then [(off - 0x20, off - 0x10)]
  else if off = UU_CNT_CTL.off then [(off - 0x28, off)]
  else if off = CE_CNT_CTL.off then (List.range 8).map (fun g => (0x70460 + 0x80 * g, 0x70480 + 0x80 * g))
  else if 0x120000 ≤ off ∧ off < 0x124000 ∧ off % 0x1000 = 0x60 then [(off - 0x20, off - 0x08)]
  else if 0x150000 ≤ off ∧ off < 0x158000 ∧ off % 0x1000 = 0x440 then [(off - 0x40, off - 0x20)]
  else if off = CS_CNT_CTL.off then [(off - 0x28, off)]
  else if 0xA0000 ≤ off ∧ off < 0xA6000 ∧ off % 0x1000 = 0x68 then [(off - 0x28, off)]
  else if off = EN_CNT_CTL.off then [(off - 0x28, off)]
  else if off = UC_CNT_CTL.off then [(off - 0x20, off - 0x10)]
  else if off = HPC_CNT_CTL.off then [(off - 0x20, off)]
  else []

/-- A write of a CNT_CTL register. -/
def Chan.counterClear (c : Chan) (off v : Nat) : Chan :=
  if bit v 0 then (counterRanges off).foldl (fun c r => c.resetRange r.1 r.2) c else c

/-! ### Writes -/

/-- Table 0-2 and R372: NODE, MODE, TC0_HOP_LIMIT, NX_M1 and NY_M1 take writes of the homeroom and the service core only. -/
def isService : Agent → Bool
  | .core h => h == 4
  | .homeroom => true
  | _ => false

/-- CS_CFG: the channel leaves BYPASS only by channel reset (R363). -/
def Chan.csCfgWrite (c : Chan) (v : Nat) : Chan :=
  let d := c.wrFields CS_CFG.off v
  if c.mute then d.sf CS_CFG.MODE 1 else d

/-- A slot's register (R233): configuration only in UNBOUND. -/
def Chan.writeSlot (c : Chan) (off v : Nat) : Chan :=
  let s := (off - 0x150000) / 0x1000
  let o := off % 0x1000
  if o = 0x000 then c.ssAction s v
  else if o = 0x018 ∨ (chanDesc off).isNone ∨ o = 0x008 ∨ (0x380 ≤ o ∧ o < 0x440) then c.wrFields off v
  else if c.ssState s = ssUNBOUND then c.wrFields off v
  else c.slotIgnored s 0xFF o

/-- A version-store register (R262, R263). -/
def Chan.writeVs (c : Chan) (off v : Nat) : Chan :=
  let s := (off - 0x60100) / 0x80
  let o := (off - 0x60100) % 0x80
  if off < 0x60100 ∨ (chanDesc off).isNone ∨ 0x40 ≤ o then c.wrFields off v
  else if o = 0x18 then c.vsPub s v
  else if c.ssState s = ssUNBOUND then c.wrFields off v
  else c.slotIgnored s 0xFF (off - 0x60000)

/-- A register of a CE context (R290, R315). -/
def Chan.writeCe (c : Chan) (off v : Nat) : Chan :=
  let g := (off - 0x70400) / 0x80
  let o := (off - 0x70400) % 0x80
  if (chanDesc off).isNone then c
  else if o = 0x00 then c.ceCfgWrite g v
  else if o = 0x10 then c.ceTermWrite g v
  else if o = 0x50 then if bit v 0 then c.ceAbandon g else c
  else if o < 0x50 then c.ceConfWrite g off v
  else c.wrFields off v

/-- A register of a queue page; the CE contexts lie in that of the CE. -/
def Chan.writeQueue (c : Chan) (q o off v : Nat) : Chan :=
  if o = 0x00 then c.qBaseWrite q v
  else if o = 0x08 then c.qDepthWrite q v
  else if o = 0x20 then c.qCtl q v
  else if q = 0x20 ∧ 0x400 ≤ o ∧ o < 0x800 then c.writeCe off v
  else if q = 0x80 ∧ o = 0x130 then c.hlogAddrWrite v
  else c.wrFields off v

/-- A register of the CH_ block. -/
def Chan.writeCh (c : Chan) (off v : Nat) : Chan :=
  let o := off - 0x10000
  if 0x1000 ≤ o ∧ o < 0x1800 ∧ o % 8 = 0 then c.tokWrite ((o - 0x1000) / 8) v
  else if o = 0x800 then c.signal (bits v 0 8) (bits v 16 16)
  else if 0x900 ≤ o ∧ o < 0xA00 ∧ o % 16 = 0 then c.rtkCtlWrite ((o - 0x900) / 16) v
  else if o = 0x810 then c.e2Write v
  else if o = 0x830 then c.termCtl v
  else c.wrFields off v

/-- A register of the CIC. -/
def Chan.writeCic (c : Chan) (off v : Nat) : Chan :=
  let o := off - 0x20000
  if o = 0x200 then c.swSet v
  else if o = 0x208 then c.swClr v
  else if 0x400 ≤ o ∧ o < 0x580 ∧ o % 0x40 = 0x08 then c.cicAck ((o - 0x400) / 0x40) (bits v 0 9)
  else if 0x400 ≤ o ∧ o < 0x580 ∧ o % 0x40 = 0x10 then if bit v 0 then c.cicEoi ((o - 0x400) / 0x40) else c
  else c.wrFields off v

/-- A register of an Ivell port. -/
def Chan.writeIv (c : Chan) (off v : Nat) : Chan :=
  let p := (off - 0xA0000) / 0x1000
  if off % 0x1000 = 0x10 then
    let c := if bits v 1 1 = c.gf (IV_CTL.DISABLE p) then c else c.ivDisable p (bits v 1 1)
    if bit v 0 then c.ivRetrain p else c
  else c.wrFields off v

/-- A register of the Ethernet port (R455). -/
def Chan.writeEn (c : Chan) (off v : Nat) : Chan :=
  if 0xE1000 ≤ off ∧ off < 0xE2000 ∧ (chanDesc off).isSome then
    let q := (off - 0xE1000) / 0x40
    if off % 0x40 = 0 then c.qpStateWrite q v else c.qpFieldWrite q off v
  else c.wrFields off v

/-- A register of a stage core's page. -/
def Chan.writeSc (c : Chan) (off v : Nat) : Chan :=
  let h := (off - 0x140000) / 0x1000
  let o := off % 0x1000
  if o = 0x08 then c.scCtl h v
  else if o = 0x20 then c.wdogWrite h v
  else if o = 0x28 then c.wdogKick h v
  else c.wrFields off v

/-- A register of the homeroom. -/
def Chan.writeHr (c : Chan) (ag : Agent) (off v : Nat) : Chan :=
  if off = HR_PSTATE.off then c.pstateWrite ag v
  else if off = HR_RECOV_CTL.off then (match ag with | .core 4 | .host => c.vacate v | _ => c)
  else if off = HR_LOG_IDX.off then c.logIdx v
  else c.wrFields off v

/-- Registers that the hardware may write with precedence (R266, R337). -/
def precReg (off : Nat) : Bool :=
  off == UU_TERM.off || (List.range 8).any (fun s => off == VS_DONE.off s || off == SS_TERM.off s || off == CE_GRP_TERM.off s)

/-- A write of VS_DONE outside UNBOUND, which is ignored with its event whatever else writes the register (R262). -/
def Chan.vsDoneIgnored (c : Chan) (off : Nat) : Bool :=
  (List.range 8).any (fun s => off == VS_DONE.off s && c.ssState s != ssUNBOUND)

/-- A write of a register by an agent that may write it.  The blocks without power take none, and none has effect in the cycle of a
hardware write that takes precedence. -/
def Chan.regWrite (c : Chan) (ag : Agent) (off v : Nat) : Chan :=
  if !c.blockOn off then c
  else if precReg off && c.claimed off && !c.vsDoneIgnored off then c
  else if !(counterRanges off).isEmpty then c.counterClear off v
  else
    match queuePage off with
    | some q => c.writeQueue q (off % 0x1000) off v
    | none =>
      if off < 0x10000 then c.writeHr ag off v
      else if off < 0x20000 then c.writeCh off v
      else if off < 0x30000 then c.writeCic off v
      else if 0x60000 ≤ off ∧ off < 0x70000 then c.writeVs off v
      else if off = GB_CTL.off then if bit v 3 then c.gbClr (bits v 0 3) else c
      else if off = CS_CFG.off then if isService ag then c.csCfgWrite v else c
      else if off = CS_RING.off then if isService ag then c.wrFields off v else c
      else if 0xA0000 ≤ off ∧ off < 0xA6000 then c.writeIv off v
      else if off = HBM_ECC_CTL.off then if bit v 0 then c.sf HBM_ECC_CORR.COUNT 0 else c
      else if off = SP_ECC_CTL.off then if bit v 0 then c.sf SP_ECC_CORR.COUNT 0 else c
      else if off = UC_CTL.off then c.ucCtl v
      else if 0xE0000 ≤ off ∧ off < 0xF0000 then c.writeEn off v
      else if 0x140000 ≤ off ∧ off < 0x144000 then c.writeSc off v
      else if 0x150000 ≤ off ∧ off < 0x158000 then c.writeSlot off v
      else if off = RPT_CLR.off then c.rptClrWrite v
      else if off = RPT_SNAP_CTL.off then c.rptSnap v
      else c.wrFields off v

/-! ### Writes of one cycle (R561) -/

/-- The place of an agent's writes among those of one MCLK cycle: transfer engine, core, the host-port die's queue. -/
def agentRank : Agent → Nat
  | .te _ => 0
  | .core _ | .homeroom => 1
  | .host | .monitor => 2

/-- An agent of a later place has already written the register in this MCLK cycle. -/
def Chan.outranked (c : Chan) (ag : Agent) (off : Nat) : Bool :=
  match tget? off c.wrs with
  | some (k, r) => k == c.now / 4 && decide (agentRank ag < r)
  | none => false

/-- The write of an agent is noted for the cycle. -/
def Chan.noteWr (c : Chan) (ag : Agent) (off : Nat) : Chan :=
  c.withWrs (tins off (c.now / 4, agentRank ag) (c.wrs.filter (fun e => e.1 != off && e.2.1 == c.now / 4)))

/-- What a write that comes first in the block's order, but later in the run, still brings about: the fields that hold what is written
keep the later agent's contents, those that act on a written 1 act. -/
def RegDesc.lateValue (d : RegDesc) (old val : Nat) : Nat :=
  d.fields.foldl (fun v f => if f.acc = .rw then setBits v f.lo f.w (bits old f.lo f.w) else v) val

/-- A write of a register in its place among the writes of the cycle (R561). -/
def Chan.regBy (c : Chan) (ag : Agent) (off v : Nat) : Chan :=
  if c.outranked ag off then
    let old := if 0x11000 ≤ off ∧ off < 0x11800 then c.tokSeen ((off - 0x11000) / 8) else c.rd off
    c.regWrite ag off (match chanDesc off with | some d => d.lateValue old v | none => v)
  else (c.regWrite ag off v).noteWr ag off

/-- An offset at which no register of the window lies, or that is not 8-byte aligned (R560, R567). -/
def badOffset (off : Nat) : Bool := off % 8 != 0 || !chanAssigned off

/-! ### REG_WR and REG_RD (R567) -/

/-- A transfer engine may not name the register at this offset. -/
def regOffRefused (o : Nat) : Bool := badOffset o || o < 0x10000 || (0x30000 ≤ o && o < 0x40000)

/-- OFFSET of REG_WR or REG_RD is refused. -/
def regOffBad (raw : List Byte) : Bool := regOffRefused (fieldOf raw 24 27)

/-- REG_WR. -/
def specRegWr : CmdSpec where
  fields _ _ _ raw := zeroField raw 28 31 ++ zeroField raw 40 63
  addrs _ _ _ raw := if regOffBad raw then [24] else []
  rows c q _ _ := if c.inRegion q then [4] else []
  start c q seq :=
    match (c.queue q).cmd? seq with
    | some h => c.regBy (.te (q - 0x18)) (fieldOf h.raw 24 27) (fieldOf h.raw 32 39)
    | none => c

/-- REG_RD. -/
def specRegRd : CmdSpec where
  fields _ _ seg raw := zeroField raw 28 31 ++ opdField seg raw 32 false 0 ++ zeroField raw 40 63
  addrs _ _ seg raw := (if regOffBad raw then [24] else []) ++ opdAddr seg raw 32 false 8
  rows _ _ seg raw := noBaseRow seg raw [32]
  credit c _ seg raw := c.placeFree seg raw [] 32
  start c q seq :=
    match (c.queue q).cmd? seq with
    | some h =>
      c.putGlobal q seq (opdGlobal (c.segOf q) h.raw 32) (leBytes 8 (c.regRead (fieldOf h.raw 24 27)))
    | none => c

end Sys2Proof.Machine
end

