-- ==== Sys2Proof/Machine/Security.lean ====
section
/-!
DEFINITION. The syllabus image and its loader (R508 to R525), and the security module (R531 to R540).
-/
namespace Sys2Proof.Machine

/-! ### Image checks (R511, R512, R516, R517) -/

/-- More header fields (Table 20-4). -/
def hSLOT (hd : List Byte) : Nat := leAt hd 7 1
def hLEN (hd : List Byte) : Nat := leAt hd 8 4
def hSVN (hd : List Byte) : Nat := leAt hd 12 4
def hVER (hd : List Byte) : Nat := leAt hd 16 4
def hADVANCE (hd : List Byte) : Bool := bit (leAt hd 20 1) 0
def hSERIAL (hd : List Byte) : Nat := leAt hd 24 8

/-- Bytes of the signed region. -/
def hSigned (hd : List Byte) : Nat := 256 + 64 * hNSEC hd

/-- All the entries of a header. -/
def hEntries (hd : List Byte) : List (List Byte) := (List.range (hNSEC hd)).map (hEntry hd)

/-- The key digest in a slot's fuses (R509). -/
def Hpd.keyFuse (h : Hpd) (k : Nat) : List Byte := tget (fun _ => []) h.keyFuses k

/-- The public key of a slot, which verifies only while its digest is the fused one (R508, R517). -/
def Hpd.slotKey (h : Hpd) (k : Nat) : List Byte := if k = 0 then nolerdaKey else tget (fun _ => []) h.keys k

/-- The identity key has been erased from the key store (R537). -/
def Hpd.noKey (h : Hpd) : Bool := h.seeds.isNone

def Hpd.enrolled (h : Hpd) (k : Nat) : Bool := 1 ≤ k && k ≤ 4 && bit (h.gf SEC_FUSE.ENROLLED) (k - 1)
def Hpd.revoked (h : Hpd) (k : Nat) : Bool := 1 ≤ k && k ≤ 4 && bit (h.gf SEC_FUSE.REVOKED) (k - 1)

def isFw (t : Nat) : Bool := t == secFWSVC || t == secFWHPD

/-- R511, Table 20-5: one entry. -/
def entryOk (hd e : List Byte) : Bool :=
  sCHMASK e < 32 && leAt e 3 1 == 0 && sOFFSET e % 4096 == 0 && 1 ≤ sLEN e && ofLe ((e.drop 16).take 16) == 0 &&
  (if isFw (sTYPE e) then sSVN e ≤ 64 else sSVN e == 0) &&
  hSigned hd + 2820 ≤ sOFFSET e && sOFFSET e + sLEN e ≤ hLEN hd

/-- No two entries overlap. -/
def entriesApart : List (List Byte) → Bool
  | [] => true
  | e :: r => r.all (fun f => !overlaps (sOFFSET e) (sLEN e) (sOFFSET f) (sLEN f)) && entriesApart r

/-- Table 20-6: types, counts and channel masks. -/
def countsOk (es : List (List Byte)) : Bool :=
  let of (t : Nat) := es.filter (fun e => sTYPE e == t)
  let once (t m : Nat) := (of t).length == 1 && (of t).all (fun e => sCHMASK e == m)
  let perChan (t lo : Nat) := (of t).all (fun e => sCHMASK e < 16) && (List.range 4).all (fun n =>
    let k := ((of t).filter (fun e => bit (sCHMASK e) n)).length
    lo ≤ k && k ≤ 1)
  es.all (fun e => [secPOSITION, secFABRIC, secENVIRONMENT, secCHART, secPOWER, secPOLICY, secBOOTSTRAP, secPROGRAM, secFWSVC,
    secFWHPD].contains (sTYPE e)) &&
  once secPOSITION 0x1F && once secFABRIC 0x0F && once secPOLICY 0x10 && once secFWHPD 0x10 &&
  perChan secENVIRONMENT 1 && perChan secFWSVC 1 && perChan secPOWER 0 && perChan secBOOTSTRAP 0 &&
  (of secCHART).length ≤ 16 && (of secCHART).all (fun e => sCHMASK e == 0x0F) &&
  (of secPROGRAM).length ≤ 32 && (of secPROGRAM).all (fun e => sCHMASK e < 16)

def layoutOk (hd : List Byte) : Bool :=
  hLEN hd ≤ 32505856 && hSVN hd ≤ 64 && leAt hd 20 1 ≤ 1 && leAt hd 21 3 == 0 && ofLe ((hd.drop 32).take 224) == 0 &&
  (hEntries hd).all (entryOk hd) && entriesApart (hEntries hd) && countsOk (hEntries hd)

/-- R516: a firmware section. -/
def firmwareOk (e sec : List Byte) : Bool :=
  let n := leAt sec 10 4
  leAt sec 0 4 == 0x46575331 && leAt sec 4 2 == sTYPE e && leAt sec 6 4 == sSVN e && ofLe ((sec.drop 18).take 46) == 0 &&
  sec.length == 64 + n + 2820 && (sTYPE e != secFWSVC || sec.length ≤ 524288) &&
  xmssVerify nolerdaKey (sec.take (64 + n)) (sec.drop (64 + n))

/-- The signed region of a copy. -/
def Hpd.copyHeader (h : Hpd) (k : Nat) : List Byte :=
  let b := k * 0x1F00000
  h.flashPeek b (hSigned (h.flashPeek b 256))

def Hpd.copySection (h : Hpd) (k : Nat) (e : List Byte) : List Byte := h.flashPeek (k * 0x1F00000 + sOFFSET e) (sLEN e)

/-- R517: the checks of copy `k` in their order; `svn` says whether check 5 is made.  The code of Table 20-11. -/
def Hpd.copyCode (h : Hpd) (k : Nat) (svn : Bool) : Nat :=
  let h0 := h.flashPeek (k * 0x1F00000) 256
  if leAt h0 0 4 ≠ 0x4C595331 ∨ leAt h0 4 2 ≠ 1 ∨ hNSEC h0 = 0 ∨ 64 < hNSEC h0 then 0x10
  else if hSERIAL h0 ≠ 0 ∧ hSERIAL h0 ≠ h.rd SEC_SERIAL.off then 0x11
  else if hSLOT h0 ≠ 0 ∧ (!h.enrolled (hSLOT h0) || h.revoked (hSLOT h0)) then 0x12
  else
    let hd := h.copyHeader k
    if keyDigest (h.slotKey (hSLOT h0)) ≠ h.keyFuse (hSLOT h0) ∨
        !xmssVerify (h.slotKey (hSLOT h0)) hd (h.flashPeek (k * 0x1F00000 + hd.length) 2820) then 0x13
    else if svn ∧ hSVN hd < h.gf SEC_FUSE.SYL_SVN then 0x14
    else if !layoutOk hd then 0x15
    else
      let fws := (hEntries hd).filter (fun e => isFw (sTYPE e))
      if !fws.all (fun e => firmwareOk e (h.copySection k e) && h.gf SEC_FUSE.FW_SVN ≤ sSVN e) then 0x16
      else if !((hEntries hd).filter (fun e => sTYPE e == secPOLICY || sTYPE e == secFWHPD)).all
          (fun e => shake256 (h.copySection k e) == sDIGEST e) then 0x17
      else 0

/-- COPY_REJECTED. -/
def Hpd.rejected (h : Hpd) (k code : Nat) : Hpd :=
  if code = 0 then h else h.ev 0x22 0x150 2 (det [(16, 1, k), (17, 1, code)])

/-! ### The end of P0 (R517, R520, R534) -/

/-- The highest block of a good journal record, plus one (R534). -/
def Hpd.journalNext (h : Hpd) : Nat :=
  let recs := ((h.flash.filter (fun e => 0x3E00000 ≤ e.1 && e.1 < 0x3F00000)).map (fun e => e.1 / 16 * 16)).eraseDups
  recs.foldl (fun m a =>
    let r := h.flashPeek a 16
    if leAt r 0 2 = 0x4A52 ∧ leAt r 4 4 = crc32 (r.take 4) then max m (leAt r 2 2 + 1) else m) 0

/-- The lowest SVN of the firmware sections of headers. -/
def fwLow (hds : List (List Byte)) : Nat :=
  (least ((hds.flatMap hEntries).filterMap (fun e => if isFw (sTYPE e) then some (sSVN e) else none))).getD 0

/-- R520: the booted copy has ADVANCE. -/
def Hpd.advance (h : Hpd) (k : Nat) (hd : List Byte) : Hpd :=
  let both : Bool := h.copyCode (1 - k) false == 0
  let other := h.copyHeader (1 - k)
  let s := if both then min (hSVN hd) (hSVN other) else hSVN hd
  let f := fwLow (if both then [hd, other] else [hd])
  let h := h.sf SEC_FUSE.SYL_SVN (max s (h.gf SEC_FUSE.SYL_SVN))
  let h := h.sf SEC_FUSE.FW_SVN (max f (h.gf SEC_FUSE.FW_SVN))
  h.ev 0x21 0x141 1 (det [(16, 1, h.gf SEC_FUSE.SYL_SVN), (17, 1, h.gf SEC_FUSE.FW_SVN)])

/-- The copy that passed is booted. -/
def Hpd.boot (h : Hpd) (k : Nat) : Hpd :=
  let hd := h.copyHeader k
  let pol := match (hEntries hd).filter (fun e => sTYPE e == secPOLICY) with
    | e :: _ => leAt (h.copySection k e) 0 8
    | [] => 0
  let h := (((h.sf SYL_STAT.BOOT_COPY k).withHeader (some hd)).withPerm pol)
  let h := h.wr SYL_HDR.off (hSVN hd % 128 + b2n (hADVANCE hd) * 2 ^ 7 + hSLOT hd % 8 * 2 ^ 8 + hVER hd * 2 ^ 32)
  if hADVANCE hd then h.advance k hd else h

/-- SYLLABUS_VERIFIED: the security module has finished P0. -/
def Hpd.syllabus (h : Hpd) : Hpd :=
  let a := h.copyCode 0 true
  let h := (h.sf SYL_STAT.A_CODE a).rejected 0 a
  let h := (h.withP0 true)
  let h :=
    if a = 0 then (h.sf SYL_STAT.B_CODE 0xFF).boot 0
    else
      let b := h.copyCode 1 true
      let h := (h.sf SYL_STAT.B_CODE b).rejected 1 b
      if b = 0 then h.boot 1 else h
  h.sf SEC_IDX.NEXT (1024 * max (h.gf SEC_FUSE.IDX_BLOCKS) h.journalNext)

/-! ### Policy (R524, R525) -/

/-- A permission of Table 20-9. -/
def Hpd.may (h : Hpd) (i : Nat) : Bool := bit h.perm i

/-- POLICY_OVERRIDE is in force (R535). -/
def Hpd.override (h : Hpd) : Bool := bit (h.gf SEC_STAT.DEBUG) 1

/-- Limiterless event HOST_WRITE_REFUSED for a register of the host-port die. -/
def Hpd.hostRefused (h : Hpd) (off : Nat) : Hpd :=
  (h.count HP_CNT_REFUSED.COUNT 1).ev 0x20 0xE4 1 (det [(16, 4, off)])

/-! ### The syllabus loader (R521 to R523, R539) -/

/-- SYL_CMD fields. -/
def scOP (v : Nat) : Nat := bits v 0 3
def scCOPY (v : Nat) : Nat := bits v 3 1
def scADDR (v : Nat) : Nat := bits v 4 26
def scLEN (v : Nat) : Nat := bits v 32 13

/-- Does a range lie in copies A and B? -/
def inCopies (a n : Nat) : Bool := a + n ≤ 0x3E00000

/-- The refusal of R522, or of an address or length that the operation cannot have: a code of Table 20-11. -/
def Hpd.sylRefusal (h : Hpd) (ag : Agent) (v : Nat) : Nat :=
  let a := scADDR v
  let n := scLEN v
  let lenOk : Bool := 1 ≤ n && n ≤ 4096
  let range : Bool :=
    if scOP v = 1 then a % 65536 == 0 && inCopies a 65536
    else if scOP v = 2 then lenOk && inCopies a n && a / 4096 == (a + n - 1) / 4096
    else if scOP v = 3 then lenOk && a + n ≤ 2 ^ 26
    else true
  let policy : Bool := match ag with
    | .host => h.may 3
    | .monitor => h.may 5 || h.override
    | _ => true
  if !range then 1
  else if 3 ≤ scOP v then 0
  else if h.flag SYL_STAT.WP then 2
  else if !policy then 3
  else 0

/-- A write of SYL_CMD. -/
def Hpd.sylCmd (h : Hpd) (ag : Agent) (v : Nat) : Hpd :=
  if h.flag SYL_STAT.BUSY then h.sf SYL_STAT.IGNORED 1
  else if scOP v = 0 ∨ 4 < scOP v then h
  else
    let r := h.sylRefusal ag v
    if r ≠ 0 then
      let h := h.sf SYL_STAT.LAST_CODE r
      if scOP v ≤ 2 then
        let h := h.ev 0x22 0x151 1 (det [(16, 1, r), (17, 4, scADDR v)])
        if r = 3 ∧ ag = .host then h.hostRefused SYL_CMD.off else h
      else h
    else
      ((h.sf SYL_STAT.BUSY 1).withSylOp (some { op := scOP v, copy := scCOPY v, addr := scADDR v, len := scLEN v, began := h.now }))

/-- A byte of flash, of SYL_BUF and of SEC_BUF written. -/
def Hpd.putFlash (h : Hpd) (a : Nat) (b : Byte) : Hpd := (h.withFlash (tput flashDefault h.flash a b))
def bufDefault : Nat → Byte := fun _ => 0
def Hpd.putFlashes (h : Hpd) : Nat → List Byte → Hpd
  | _, [] => h
  | a, b :: r => Hpd.putFlashes (h.putFlash a b) (a + 1) r
def pokeBuf (t : Tbl Byte) : Nat → List Byte → Tbl Byte
  | _, [] => t
  | a, b :: r => pokeBuf (tput bufDefault t a b) (a + 1) r
def peekBuf (t : Tbl Byte) (a n : Nat) : List Byte := (List.range n).map (fun i => tget bufDefault t (a + i))

/-- FLASH_OP_DONE: the operation ends; the flash reports success or not. -/
def Hpd.sylDone (h : Hpd) (ok : Bool) : Hpd :=
  match h.sylOp with
  | none => h
  | some o =>
    let h := ((h.sf SYL_STAT.BUSY 0).withSylOp none)
    let erased : Bool := (h.flashPeek o.addr o.len).all (· == 0xFF)
    if o.op = 4 then
      let code := h.copyCode o.copy true
      (h.sf SYL_STAT.LAST_CODE code).rejected o.copy code
    else if !ok || (o.op == 2 && !erased) then h.sf SYL_STAT.LAST_CODE 4
    else
      let h := h.sf SYL_STAT.LAST_CODE 0
      if o.op = 1 then (h.withFlash (teraseRange o.addr (o.addr + 65536) h.flash))
      else if o.op = 2 then h.putFlashes o.addr (peekBuf h.sylBuf 0 o.len)
      else (h.withSylBuf (pokeBuf h.sylBuf 0 (h.flashPeek o.addr o.len)))

/-! ### The security module (R532 to R538) -/

def secSELFTEST : Nat := 0
def secOPERATIONAL : Nat := 1
def secERROR : Nat := 2
def secZEROISED : Nat := 3

/-- An operation ends with a code and output in SEC_BUF. -/
def Hpd.secResult (h : Hpd) (op code len : Nat) : Hpd :=
  (((h.wr SEC_RESULT.off (code % 256 + op % 16 * 2 ^ 8 + len % 2 ^ 14 * 2 ^ 16)).sf SEC_STAT.BUSY 0).withSecOp none)

/-- A self-test fails: ERROR until module power good, which a ZEROISE does not end (R532). -/
def Hpd.secFail (h : Hpd) (test : Nat) : Hpd :=
  ((h.sf SEC_STAT.STATE secERROR).withSecFailed true).ev 0x21 0x140 3 (det [(16, 1, test)])

/-- The module is in ERROR: it shows it, or shows ZEROISED since. -/
def Hpd.inError (h : Hpd) : Bool := h.secFailed || h.gf SEC_STAT.STATE == secERROR

/-- Operations that the host may only request under HOST_ATTEST. -/
def secPolicy (op : Nat) : Bool := op == 1 || op == 2 || op == 3 || op == 8

/-- A write of SEC_CTL. -/
def Hpd.secCtl (h : Hpd) (ag : Agent) (v : Nat) : Hpd :=
  let op := bits v 0 4
  if h.flag SEC_STAT.BUSY then h.sf SEC_STAT.IGNORED 1
  else if op = 0 ∨ 8 < op then h
  else if ag = .host ∧ secPolicy op ∧ !h.may 7 then (h.secResult op 9 0).hostRefused SEC_CTL.off
  else if op = 7 ∧ bits v 8 8 ≠ 0x5A then h
  else if h.inError ∧ op ≠ 7 then h.secResult op 8 0
  else ((h.sf SEC_STAT.BUSY 1).withSecOp (some op))

/-- The nonce registers as 32 bytes. -/
def Hpd.nonceBytes (h : Hpd) : List Byte := (List.range 4).flatMap (fun k => leBytes 8 (h.rd (SEC_NONCE.off k)))

/-- NONCE. -/
def Hpd.doNonce (h : Hpd) : Hpd :=
  let (k, h) := h.free
  let v := (Config.nonce k).toNat
  let h := (List.range 4).foldl (fun h i => h.wr (SEC_NONCE.off i) (v / 2 ^ (64 * i))) h
  ((h.withNonce true) : Hpd).secResult 1 0 0

/-- The attestation report (Table 20-14). -/
def Hpd.report (h : Hpd) : List Byte :=
  let hd := h.header.getD []
  let dig (t n : Nat) : List Byte :=
    ((hEntries hd).find? (fun e => sTYPE e == t && bit (sCHMASK e) n)).map sDIGEST |>.getD (leBytes 32 0)
  leBytes 4 0x54525041 ++ leBytes 8 (h.rd SEC_SERIAL.off) ++
  leBytes 1 (bits (regReset 0 CH_ID.off).toNat CH_ID.STEPPING.lo CH_ID.STEPPING.w) ++ leBytes 1 (h.gf SYL_STAT.BOOT_COPY) ++
  leBytes 1 (hSLOT hd) ++ leBytes 1 (h.gf SEC_STAT.DEBUG) ++ leBytes 1 (h.gf SEC_FUSE.SYL_SVN) ++
  leBytes 1 (h.gf SEC_FUSE.FW_SVN) ++ leBytes 2 0 ++ leBytes 4 (hVER hd) ++ leBytes 8 0 ++
  shake256 hd ++ dig secFWSVC 0 ++ dig secPOLICY 4 ++ peekBuf h.secBuf 0 32 ++ leBytes 96 0

/-- R534: before the first index of a block is used, the block is journalled and fused. -/
def Hpd.reserveBlock (h : Hpd) : Hpd :=
  let b := h.gf SEC_IDX.NEXT / 1024
  if h.gf SEC_IDX.NEXT % 1024 ≠ 0 then h
  else
    let used := (h.flash.filter (fun e => 0x3E00000 ≤ e.1 && e.1 < 0x3F00000)).foldl (fun m e => max m (e.1 / 16 * 16 + 16)) 0x3E00000
    let r := leBytes 2 0x4A52 ++ leBytes 2 b
    let h := if used < 0x3F00000 then h.putFlashes used (r ++ leBytes 4 (crc32 r) ++ leBytes 8 0) else h
    (h.sf SEC_FUSE.IDX_BLOCKS (max (b + 1) (h.gf SEC_FUSE.IDX_BLOCKS))).ev 0x21 0x142 0 (det [(16, 2, b)])

/-- ATTEST; `ok` says whether the signature verifies before its release. -/
def Hpd.doAttest (h : Hpd) (ok : Bool) : Hpd :=
  match h.seeds with
  | none => h.secResult 2 7 0
  | some k =>
    if 4096 * 1024 ≤ h.gf SEC_IDX.NEXT then h.secResult 2 6 0
    else
      let h := h.reserveBlock
      let i := h.gf SEC_IDX.NEXT
      let h := h.sf SEC_IDX.NEXT (i + 1)
      if !ok then (h.secFail 3).secResult 2 8 0
      else
        let out := h.report ++ xmssmtSign k i h.report
        ((h.withSecBuf (pokeBuf h.secBuf 0 out)) : Hpd).secResult 2 0 10149

/-- Bytes [127:0] of the identity certificate. -/
def Hpd.certBody (h : Hpd) : List Byte :=
  leBytes 4 0x54524543 ++ leBytes 8 (h.rd SEC_SERIAL.off) ++ leBytes 4 0 ++ identityKey ++ leBytes 44 0

/-- CERT. -/
def Hpd.doCert (h : Hpd) : Hpd :=
  ((h.withSecBuf (pokeBuf h.secBuf 0 (h.certBody ++ slot0Sign h.certBody))) : Hpd).secResult 3 0 2948

/-- UNLOCK (R535). -/
def Hpd.doUnlock (h : Hpd) : Hpd :=
  let t := peekBuf h.secBuf 0 64
  let scope := leAt t 44 1
  let code :=
    if leAt t 0 4 ≠ 0x4B4E4C55 ∨ ofLe ((t.drop 45).take 19) ≠ 0 ∨ 3 < scope then 4
    else if leAt t 4 8 ≠ h.rd SEC_SERIAL.off then 3
    else if !h.nonce ∨ (t.drop 12).take 32 ≠ h.nonceBytes then 2
    else if !xmssVerify nolerdaKey t (peekBuf h.secBuf 64 2820) then 1
    else 0
  let h := (h.withNonce false)
  let h :=
    if code = 0 then
      (h.sf SEC_STAT.DEBUG (h.gf SEC_STAT.DEBUG ||| scope)).ev 0x21 0x143 2 (det [(16, 1, scope)])
    else h
  h.secResult 4 code 0

/-- ENROL (R536). -/
def Hpd.doEnrol (h : Hpd) : Hpd :=
  let t := peekBuf h.secBuf 0 84
  let k := leAt t 12 1
  let code :=
    if leAt t 0 4 ≠ 0x4C524E45 ∨ k = 0 ∨ 4 < k ∨ leAt t 13 3 ≠ 0 then 4
    else if leAt t 4 8 ≠ h.rd SEC_SERIAL.off then 3
    else if h.enrolled k then 5
    else if !xmssVerify nolerdaKey t (peekBuf h.secBuf 84 2820) then 1
    else 0
  let h :=
    if code = 0 then
      let h := h.sf SEC_FUSE.ENROLLED (h.gf SEC_FUSE.ENROLLED ||| 2 ^ (k - 1))
      let pk := (t.drop 16).take 68
      ((((h.withKeys (tput (fun _ => []) h.keys k pk)) : Hpd).withKeyFuses (tput (fun _ => []) h.keyFuses k (keyDigest pk))) : Hpd).ev 0x21 0x144 2 (det [(16, 1, 0), (17, 1, k)])
    else h
  h.secResult 5 code 0

/-- REVOKE (R536). -/
def Hpd.doRevoke (h : Hpd) : Hpd :=
  let t := peekBuf h.secBuf 0 64
  let k := leAt t 12 1
  let sig := peekBuf h.secBuf 64 2820
  let code :=
    if leAt t 0 4 ≠ 0x4B564552 ∨ k = 0 ∨ 4 < k ∨ ofLe ((t.drop 44).take 20) ≠ 0 then 4
    else if leAt t 4 8 ≠ h.rd SEC_SERIAL.off then 3
    else if !h.nonce ∨ (t.drop 13).take 31 ≠ h.nonceBytes.take 31 then 2
    else if !xmssVerify nolerdaKey t sig && !(h.enrolled k && xmssVerify (h.slotKey k) t sig) then 1
    else 0
  let h :=
    if code = 0 then
      (((h.sf SEC_FUSE.REVOKED (h.gf SEC_FUSE.REVOKED ||| 2 ^ (k - 1))).withNonce false) : Hpd).ev 0x21 0x144 2
        (det [(16, 1, 1), (17, 1, k)])
    else h
  h.secResult 6 code 0

/-- ZEROISE (R537). -/
def Hpd.doZeroise (h : Hpd) : Hpd :=
  let h := (((h.sf SEC_STAT.NO_KEY 1).sf SEC_STAT.STATE secZEROISED).withSeeds none)
  (h.ev 0x21 0x144 2 (det [(16, 1, 2)])).secResult 7 0 0

/-- SELFTEST. -/
def Hpd.doSelftest (h : Hpd) (ok : Bool) : Hpd := if ok then h.secResult 8 0 0 else (h.secFail 1).secResult 8 8 0

/-- SEC_OP_DONE: the operation under way completes; `ok` is the outcome of the test that it contains. -/
def Hpd.secDone (h : Hpd) (ok : Bool) : Hpd :=
  match h.secOp with
  | none => h
  | some op =>
    if h.inError ∧ op ≠ 7 then h.secResult op 8 0
    else
      match op with
      | 1 => h.doNonce
      | 2 => h.doAttest ok
      | 3 => h.doCert
      | 4 => h.doUnlock
      | 5 => h.doEnrol
      | 6 => h.doRevoke
      | 7 => h.doZeroise
      | _ => h.doSelftest ok

/-- ENTROPY_HEALTH_FAILURE. -/
def Hpd.entropyFail (h : Hpd) : Hpd := h.secFail 2

end Sys2Proof.Machine
end

