-- ==== Sys2Proof/Machine/Bootstrap.lean ====
section
/-!
DEFINITION. The job bootstrap, which the service core runs on entering READY (R526 to R530).
-/
namespace Sys2Proof.Machine

/-! ### The BOOTSTRAP section (Table 20-10) -/

def Chan.bsSection (c : Chan) : List Byte := c.section1 secBOOTSTRAP
/-- SOURCE: 0 HOST, 1 ROCE, 2 FLASH, 3 NONE, and NONE where there is no section. -/
def Chan.bsSOURCE (c : Chan) : Nat := if c.bsSection = [] then 3 else leAt c.bsSection 0 1
def Chan.bsCORES (c : Chan) : Nat := leAt c.bsSection 1 1 % 16
def Chan.bsPROG (c : Chan) : Nat := leAt c.bsSection 2 1
def Chan.bsRETRIES (c : Chan) : Nat := leAt c.bsSection 3 1 % 16
def Chan.bsENTRY (c : Chan) : Nat := leAt c.bsSection 4 8
def Chan.bsLOAD (c : Chan) : Nat := leAt c.bsSection 12 8
def Chan.bsLEN (c : Chan) : Nat := leAt c.bsSection 20 4
def Chan.bsDIGEST (c : Chan) : List Byte := (c.bsSection.drop 32).take 32

/-- A digest is given: it is not all zero. -/
def digestGiven (d : List Byte) : Bool := ofLe d != 0

/-! ### Results (R529, R530) -/

/-- BOOT_RESULT. -/
def Chan.bootResult (c : Chan) (code : Nat) : Chan := c.mbSend (leBytes 2 0x0103 ++ leBytes 6 0 ++ leBytes 1 code)

/-- A failure that remains: BOOTSTRAP_FAILED, and the channel stays in READY. -/
def Chan.bsFailed (c : Chan) (source code : Nat) : Chan :=
  (((c.withBootstrap none) : Chan).ev 0x0E 0x161 2 (det [(16, 1, source), (17, 1, code)])).bootResult code

/-! ### Steps 2 to 4 (R527, R528) -/

/-- The pieces of a program image: destination, length, offset; none when the image breaks R527. -/
def imagePieces (m : List Byte) : Option (List (Nat × Nat × Nat)) :=
  let n := leAt m 2 2
  let ps := (List.range n).map (fun i => (leAt m (16 + 16 * i) 8, leAt m (24 + 16 * i) 4, leAt m (28 + 16 * i) 4))
  if leAt m 0 2 = 0x5047 ∧ 1 ≤ n ∧ n ≤ 64 ∧ ofLe ((m.drop 4).take 12) = 0 ∧ 16 + 16 * n ≤ m.length ∧
      ps.all (fun p => p.2.2 + p.2.1 ≤ m.length && inMem p.1 p.2.1) then some ps
  else none

/-- Step 4: the cores start and the channel enters SERVICE. -/
def Chan.bsStart (c : Chan) (source : Nat) : Chan :=
  let cores := (List.range 4).filter (fun k => bit c.bsCORES k)
  let c := cores.foldl (fun c k => (c.regWrite .homeroom (SC_BOOT.off k) c.bsENTRY).scRun k) c
  ((((c.setCstate csSERVICE).withBootstrap none) : Chan).ev 0x0E 0x160 0 (det [(16, 1, source)])).bootResult 0

/-- Step 3: the pieces are copied to their places; false where a codeword of a destination is uncorrectable. -/
def Chan.bsPut (c : Chan) (m : List Byte) : List (Nat × Nat × Nat) → Bool × Chan
  | [] => (true, c)
  | p :: r =>
    match c.store p.1 ((m.drop p.2.2).take p.2.1) with
    | (true, c) => (false, c)
    | (false, c) => Chan.bsPut c m r

/-- Digest, pieces and start, for an image and the digests given for it; `required` is DIGEST_REQUIRED. -/
def Chan.bsFinish (c : Chan) (source : Nat) (required : Bool) (m : List Byte) (digests : List (List Byte)) : Chan :=
  let given := digests.filter digestGiven
  if given = [] ∧ required ∧ source ≠ 2 then c.bsFailed source 4
  else if given.any (fun d => shake256 m != d) then c.bsFailed source 2
  else
    match imagePieces m with
    | none => c.bsFailed source 3
    | some ps =>
      match c.bsPut m ps with
      | (true, c) => c.bsStart source
      | (false, c) => c.bsFailed source 1

/-- An image that lies in the channel's memory. -/
def Chan.bsFromMem (c : Chan) (source : Nat) (required : Bool) (a n : Nat) (digests : List (List Byte)) : Chan :=
  if !inMem a n then c.bsFailed source 1
  else
    match c.load a n with
    | (some m, c) => c.bsFinish source required m digests
    | (none, c) => c.bsFailed source 1

/-! ### Fetching (R528 step 1) -/

/-- The bootstrap's own mark in the messages of queue pair 63, which belong to no command. -/
def bsMark : Nat := 0xFE

/-- The queue pair of the bootstrap. -/
def bsQp : Nat := 63

/-- ROCE: the port and queue pair 63 are set up and the image is asked for, in READs of at most 2^31 bytes, each known by its
offset. -/
def Chan.bsRoce (c : Chan) (retries : Nat) : Chan :=
  let b := c.bsSection
  let c := (((c.sf EN_MAC.MAC (leAt b 64 6)).wr EN_IP0.off (leAt b 72 8)).wr EN_IP1.off (leAt b 80 8)).sf EN_CFG.IPV6 (leAt b 115 1)
  let c := c.sf EN_CFG.EN 1
  let c := c.qpStateWrite bsQp (c.rd (EN_QP_A.off bsQp) / 8 * 8)
  let c := (((c.sf (EN_QP_B.DMAC bsQp) (leAt b 88 6)).wr (EN_QP_C.off bsQp) (leAt b 96 8)).wr (EN_QP_D.off bsQp) (leAt b 104 8)).sf
    (EN_QP_E.SPSN bsQp) 0
  let c := (c.sf (EN_QP_A.OWNER bsQp) 7).sf (EN_QP_A.DQPN bsQp) (leAt b 112 3)
  let c := [qpINIT, qpRTR, qpRTS].foldl (fun c s => c.qpStateWrite bsQp (setBits (c.rd (EN_QP_A.off bsQp)) 0 3 s)) c
  let read (c : Chan) (o : Nat) : Chan :=
    let n := min (2 ^ 31) (c.bsLEN - o)
    let m : EnMsg :=
      { te := bsMark, cmd := o, op := 0, psn := c.gf (EN_QP_E.SPSN bsQp), pkts := enPkts n, va := leAt b 120 8 + o
        key := leAt b 116 4, lcl := c.bsLOAD + o, len := n, got := 0 }
    let c := c.onQp bsQp (fun x => { x with msgs := x.msgs ++ [m], since := c.now })
    (c.sf (EN_QP_E.SPSN bsQp) (m.psn + m.pkts)).enEmit bsQp m
  let c := (c.withBootstrap (some { stage := 1, retries := retries, since := c.now, left := c.bsLEN }))
  let c := if 0 < c.bsLEN then read c 0 else c
  if 2 ^ 31 < c.bsLEN then read c (2 ^ 31) else c

/-- The fetch by RoCE ends: with the image in place, or in failure, after which it is tried again. -/
def Chan.bsSettle (c : Chan) (required : Bool) : Chan :=
  match c.bootstrap with
  | none => c
  | some x =>
    if x.stage ≠ 1 ∨ (c.qp bsQp).msgs.any (fun m => m.te == bsMark) then c
    else
      let ok := c.qpState bsQp = qpRTS
      let c := c.qpStateWrite bsQp (c.rd (EN_QP_A.off bsQp) / 8 * 8)
      if ok then c.bsFromMem 1 required c.bsLOAD c.bsLEN [c.bsDIGEST]
      else if x.retries = 0 then c.bsFailed 1 1
      else (c.withBootstrap (some { x with stage := 3, retries := x.retries - 1, since := c.now }))

/-- BOOTSTRAP_RETRY: 1 s after the failure. -/
def Chan.bsRetry (c : Chan) : Chan :=
  match c.bootstrap with
  | some x => if x.stage = 3 ∧ x.since + tSec ≤ c.now then c.bsRoce x.retries else c
  | none => c

/-- BOOTSTRAP: on entering READY, once. -/
def Chan.bsBegin (c : Chan) (required : Bool) : Chan :=
  if c.cstate ≠ csREADY ∨ !c.flag SVC_STAT.UP ∨ c.boot.strapped ∨ c.bootstrap.isSome then c
  else
    let c := (c.withBoot ({ c.boot with strapped := true }))
    match c.bsSOURCE with
    | 0 =>
      let a := if c.bsLOAD = 0 then 0x4000000000 else c.bsLOAD
      ((c.withBootstrap (some { stage := 2, retries := 0, since := c.now, left := 0 })) : Chan).mbSend
        (leBytes 2 0x0101 ++ leBytes 6 0 ++ leBytes 8 a)
    | 1 => if inMem c.bsLOAD c.bsLEN then c.bsRoce c.bsRETRIES else c.bsFailed 1 1
    | 2 =>
      match c.sections.find? (fun s => s.1 == c.bsPROG && s.2.1 == secPROGRAM) with
      | some s => c.bsFinish 2 required s.2.2 [c.bsDIGEST]
      | none => c.bsFailed 2 1
    | _ => c

/-- BOOT_LOAD, of the bytes `m`: the HOST path goes on at step 2. -/
def Chan.bootLoad (c : Chan) (required : Bool) (m : List Byte) : Chan :=
  let busy : Bool := match c.bootstrap with | some x => x.stage != 2 | none => false
  if c.cstate ≠ csREADY ∨ busy then c.bootResult 5
  else c.bsFromMem 0 required (leAt m 8 8) (leAt m 16 4) [c.bsDIGEST, (m.drop 24).take 32]

/-- The service core takes the host's BOOT_LOAD. -/
def State.bootLoad (s : State) (n : Fin 4) : State :=
  let c := s.chan n
  match mbMessage c s.hpd with
  | some (_, m) =>
    if leAt m 0 2 = 0x0102 ∧ c.flag SVC_STAT.UP ∧ c.ucUp then
      s.setChan n ((c.mbTaken).bootLoad (s.hpd.may 6) m)
    else s
  | none => s

end Sys2Proof.Machine
end

