-- ==== Sys2Proof/Machine/Rv.lean ====
section
/-!
DEFINITION. The instructions of the cores (R190, R191, R196): RV64I with M, A, F, C, Zicsr and Zifencei, machine and user
mode, and Xmiustan.  PRESUMED from the RISC-V Unprivileged and Privileged ISA, which R190 names (notes/assumptions/40.md);
Xmiustan is Table 8-1.
-/
namespace Sys2Proof.Machine

/-- Integer operations. -/
inductive Alu where
  | add | sub | sll | slt | sltu | xor | srl | sra | or | and
  | mul | mulh | mulhsu | mulhu | div | divu | rem | remu
  deriving DecidableEq, Repr

/-- Floating-point operations with a rounding mode, and without. -/
inductive Fop where
  | add | sub | mul | div | sqrt
  | sgnj | sgnjn | sgnjx | min | max | le | lt | eq | cls | mvxw | mvwx
  | cvtW | cvtWU | cvtL | cvtLU | cvtSW | cvtSWU | cvtSL | cvtSLU
  deriving DecidableEq, Repr

/-- A decoded instruction.  Immediates are sign-extended to 64 bits; `f3` is the field funct3. -/
inductive Rv where
  | lui (rd imm : Nat)
  | auipc (rd imm : Nat)
  | jal (rd imm : Nat)
  | jalr (rd rs1 imm : Nat)
  | branch (f3 rs1 rs2 imm : Nat)
  | load (f3 rd rs1 imm : Nat)
  | store (f3 rs1 rs2 imm : Nat)
  | flw (rd rs1 imm : Nat)
  | fsw (rs1 rs2 imm : Nat)
  | imm (op : Alu) (w : Bool) (rd rs1 i : Nat)
  | op (o : Alu) (w : Bool) (rd rs1 rs2 : Nat)
  | fence
  | fenceI
  | ecall
  | ebreak
  | mret
  | wfi
  | csr (f3 rd rs1 num : Nat)
  /-- An AMO (funct5) or LR (2) or SC (3), of a doubleword or a word. -/
  | amo (f5 : Nat) (dw : Bool) (rd rs1 rs2 : Nat)
  /-- FMADD, FMSUB, FNMSUB, FNMADD: 0 to 3. -/
  | fma (k rd rs1 rs2 rs3 rm : Nat)
  | fop (o : Fop) (rd rs1 rs2 rm : Nat)
  /-- Xmiustan: custom-0 (Table 8-1) and the cache-maintenance operations. -/
  | xm (f3 rd rs1 rs2 : Nat)
  | cmo (f3 rs1 rs2 : Nat)
  | illegal
  deriving DecidableEq, Repr

/-- The low `n` bits of `v`, sign-extended to 64 bits. -/
def sext (n v : Nat) : Nat := ofSigned 64 (toSigned n v)

/-! ### 32-bit encodings -/

def rdF (w : Nat) : Nat := bits w 7 5
def rs1F (w : Nat) : Nat := bits w 15 5
def rs2F (w : Nat) : Nat := bits w 20 5
def f3F (w : Nat) : Nat := bits w 12 3
def f7F (w : Nat) : Nat := bits w 25 7

def immI (w : Nat) : Nat := sext 12 (bits w 20 12)
def immS (w : Nat) : Nat := sext 12 (bits w 25 7 * 32 + bits w 7 5)
def immB (w : Nat) : Nat :=
  sext 13 (bits w 31 1 * 4096 + bits w 7 1 * 2048 + bits w 25 6 * 32 + bits w 8 4 * 2)
def immU (w : Nat) : Nat := sext 32 (bits w 12 20 * 4096)
def immJ (w : Nat) : Nat :=
  sext 21 (bits w 31 1 * 2 ^ 20 + bits w 12 8 * 4096 + bits w 20 1 * 2048 + bits w 21 10 * 2)

/-- OP and OP-32 by funct7 and funct3. -/
def aluOf (w32 : Bool) (f7 f3 : Nat) : Option Alu :=
  match f7, f3 with
  | 0x00, 0 => some .add
  | 0x20, 0 => some .sub
  | 0x00, 1 => some .sll
  | 0x00, 5 => some .srl
  | 0x20, 5 => some .sra
  | 0x01, 0 => some .mul
  | 0x01, 4 => some .div
  | 0x01, 5 => some .divu
  | 0x01, 6 => some .rem
  | 0x01, 7 => some .remu
  | f7, f3 =>
    if w32 then none
    else
      match f7, f3 with
      | 0x00, 2 => some .slt
      | 0x00, 3 => some .sltu
      | 0x00, 4 => some .xor
      | 0x00, 6 => some .or
      | 0x00, 7 => some .and
      | 0x01, 1 => some .mulh
      | 0x01, 2 => some .mulhsu
      | 0x01, 3 => some .mulhu
      | _, _ => none

/-- OP-IMM and OP-IMM-32. -/
def decodeImm (w : Nat) (w32 : Bool) : Rv :=
  let rd := rdF w
  let rs1 := rs1F w
  let sh := bits w 20 (if w32 then 5 else 6)
  let top := if w32 then f7F w else bits w 26 6 * 2
  match f3F w with
  | 0 => .imm .add w32 rd rs1 (immI w)
  | 1 => if top = 0 then .imm .sll w32 rd rs1 sh else .illegal
  | 5 => if top = 0 then .imm .srl w32 rd rs1 sh else if top = 0x20 then .imm .sra w32 rd rs1 sh else .illegal
  | f3 =>
    if w32 then .illegal
    else
      match f3 with
      | 2 => .imm .slt false rd rs1 (immI w)
      | 3 => .imm .sltu false rd rs1 (immI w)
      | 4 => .imm .xor false rd rs1 (immI w)
      | 6 => .imm .or false rd rs1 (immI w)
      | _ => .imm .and false rd rs1 (immI w)

/-- OP-FP of single precision. -/
def decodeFp (w : Nat) : Rv :=
  let rd := rdF w
  let rs1 := rs1F w
  let rs2 := rs2F w
  let rm := f3F w
  let fop (o : Fop) : Rv := .fop o rd rs1 rs2 rm
  match f7F w with
  | 0x00 => fop .add
  | 0x04 => fop .sub
  | 0x08 => fop .mul
  | 0x0C => fop .div
  | 0x2C => if rs2 = 0 then fop .sqrt else .illegal
  | 0x10 => match rm with | 0 => fop .sgnj | 1 => fop .sgnjn | 2 => fop .sgnjx | _ => .illegal
  | 0x14 => match rm with | 0 => fop .min | 1 => fop .max | _ => .illegal
  | 0x50 => match rm with | 0 => fop .le | 1 => fop .lt | 2 => fop .eq | _ => .illegal
  | 0x60 => match rs2 with | 0 => fop .cvtW | 1 => fop .cvtWU | 2 => fop .cvtL | 3 => fop .cvtLU | _ => .illegal
  | 0x68 => match rs2 with | 0 => fop .cvtSW | 1 => fop .cvtSWU | 2 => fop .cvtSL | 3 => fop .cvtSLU | _ => .illegal
  | 0x70 => if rs2 ≠ 0 then .illegal else match rm with | 0 => fop .mvxw | 1 => fop .cls | _ => .illegal
  | 0x78 => if rs2 = 0 ∧ rm = 0 then fop .mvwx else .illegal
  | _ => .illegal

/-- SYSTEM. -/
def decodeSystem (w : Nat) : Rv :=
  match f3F w with
  | 0 =>
    if rdF w ≠ 0 ∨ rs1F w ≠ 0 then .illegal
    else match bits w 20 12 with
      | 0x000 => .ecall
      | 0x001 => .ebreak
      | 0x302 => .mret
      | 0x105 => .wfi
      | _ => .illegal
  | 4 => .illegal
  | f3 => .csr f3 (rdF w) (rs1F w) (bits w 20 12)

/-- AMO. -/
def decodeAmo (w : Nat) : Rv :=
  let f5 := bits w 27 5
  let f3 := f3F w
  let ok := [0x00, 0x01, 0x02, 0x03, 0x04, 0x08, 0x0C, 0x10, 0x14, 0x18, 0x1C].contains f5
  if (f3 = 2 ∨ f3 = 3) ∧ ok ∧ (f5 ≠ 2 ∨ rs2F w = 0) then .amo f5 (f3 == 3) (rdF w) (rs1F w) (rs2F w) else .illegal

/-- Xmiustan (Table 8-1): funct7 zero, and the fields marked x0 zero. -/
def decodeXm (w : Nat) : Rv :=
  let rd := rdF w
  let rs1 := rs1F w
  let rs2 := rs2F w
  let ok : Bool := match f3F w with
    | 0 | 2 => true
    | 1 | 4 => rd == 0
    | 3 => rs2 == 0
    | 5 => rd == 0 && rs1 == 0 && rs2 == 0
    | _ => false
  if f7F w = 0 ∧ ok then .xm (f3F w) rd rs1 rs2 else .illegal

def decodeCmo (w : Nat) : Rv :=
  if f7F w = 0 ∧ rdF w = 0 ∧ f3F w ≤ 2 then .cmo (f3F w) (rs1F w) (rs2F w) else .illegal

/-- A 32-bit instruction. -/
def decode32 (w : Nat) : Rv :=
  match bits w 0 7 with
  | 0x37 => .lui (rdF w) (immU w)
  | 0x17 => .auipc (rdF w) (immU w)
  | 0x6F => .jal (rdF w) (immJ w)
  | 0x67 => if f3F w = 0 then .jalr (rdF w) (rs1F w) (immI w) else .illegal
  | 0x63 => if f3F w = 2 ∨ f3F w = 3 then .illegal else .branch (f3F w) (rs1F w) (rs2F w) (immB w)
  | 0x03 => if f3F w = 7 then .illegal else .load (f3F w) (rdF w) (rs1F w) (immI w)
  | 0x23 => if 4 ≤ f3F w then .illegal else .store (f3F w) (rs1F w) (rs2F w) (immS w)
  | 0x07 => if f3F w = 2 then .flw (rdF w) (rs1F w) (immI w) else .illegal
  | 0x27 => if f3F w = 2 then .fsw (rs1F w) (rs2F w) (immS w) else .illegal
  | 0x13 => decodeImm w false
  | 0x1B => decodeImm w true
  | 0x33 => match aluOf false (f7F w) (f3F w) with | some o => .op o false (rdF w) (rs1F w) (rs2F w) | none => .illegal
  | 0x3B => match aluOf true (f7F w) (f3F w) with | some o => .op o true (rdF w) (rs1F w) (rs2F w) | none => .illegal
  | 0x0F => if f3F w = 0 then .fence else if f3F w = 1 then .fenceI else .illegal
  | 0x73 => decodeSystem w
  | 0x2F => decodeAmo w
  | 0x43 => if bits w 25 2 = 0 then .fma 0 (rdF w) (rs1F w) (rs2F w) (bits w 27 5) (f3F w) else .illegal
  | 0x47 => if bits w 25 2 = 0 then .fma 1 (rdF w) (rs1F w) (rs2F w) (bits w 27 5) (f3F w) else .illegal
  | 0x4B => if bits w 25 2 = 0 then .fma 2 (rdF w) (rs1F w) (rs2F w) (bits w 27 5) (f3F w) else .illegal
  | 0x4F => if bits w 25 2 = 0 then .fma 3 (rdF w) (rs1F w) (rs2F w) (bits w 27 5) (f3F w) else .illegal
  | 0x53 => decodeFp w
  | 0x0B => decodeXm w
  | 0x2B => decodeCmo w
  | _ => .illegal

/-! ### 16-bit encodings -/

/-- Registers x8 to x15 of the short fields. -/
def cHi (w : Nat) : Nat := 8 + bits w 7 3
def cLo (w : Nat) : Nat := 8 + bits w 2 3
/-- The six-bit immediate of bits 12 and 6 to 2. -/
def cImm (w : Nat) : Nat := sext 6 (bits w 12 1 * 32 + bits w 2 5)
def cShamt (w : Nat) : Nat := bits w 12 1 * 32 + bits w 2 5
/-- Offsets of words and doublewords in quadrant 0. -/
def cOffW (w : Nat) : Nat := bits w 5 1 * 64 + bits w 10 3 * 8 + bits w 6 1 * 4
def cOffD (w : Nat) : Nat := bits w 5 2 * 64 + bits w 10 3 * 8
def cImmJ (w : Nat) : Nat :=
  sext 12 (bits w 12 1 * 2048 + bits w 8 1 * 1024 + bits w 9 2 * 256 + bits w 6 1 * 128 + bits w 7 1 * 64 + bits w 2 1 * 32 +
    bits w 11 1 * 16 + bits w 3 3 * 2)
def cImmB (w : Nat) : Nat :=
  sext 9 (bits w 12 1 * 256 + bits w 5 2 * 64 + bits w 2 1 * 32 + bits w 10 2 * 8 + bits w 3 2 * 2)

def decodeC0 (w : Nat) : Rv :=
  match bits w 13 3 with
  | 0 =>
    let i := bits w 7 4 * 64 + bits w 11 2 * 16 + bits w 5 1 * 8 + bits w 6 1 * 4
    if i = 0 then .illegal else .imm .add false (cLo w) 2 i
  | 2 => .load 2 (cLo w) (cHi w) (cOffW w)
  | 3 => .load 3 (cLo w) (cHi w) (cOffD w)
  | 6 => .store 2 (cHi w) (cLo w) (cOffW w)
  | 7 => .store 3 (cHi w) (cLo w) (cOffD w)
  | _ => .illegal

def decodeC1 (w : Nat) : Rv :=
  let rd := bits w 7 5
  match bits w 13 3 with
  | 0 => .imm .add false rd rd (cImm w)
  | 1 => if rd = 0 then .illegal else .imm .add true rd rd (cImm w)
  | 2 => .imm .add false rd 0 (cImm w)
  | 3 =>
    if rd = 2 then
      let i := bits w 12 1 * 512 + bits w 3 2 * 128 + bits w 5 1 * 64 + bits w 2 1 * 32 + bits w 6 1 * 16
      if i = 0 then .illegal else .imm .add false 2 2 (sext 10 i)
    else if cShamt w = 0 then .illegal else .lui rd (sext 18 (cShamt w * 4096))
  | 4 =>
    let r := cHi w
    match bits w 10 2 with
    | 0 => .imm .srl false r r (cShamt w)
    | 1 => .imm .sra false r r (cShamt w)
    | 2 => .imm .and false r r (cImm w)
    | _ =>
      match bits w 12 1, bits w 5 2 with
      | 0, 0 => .op .sub false r r (cLo w)
      | 0, 1 => .op .xor false r r (cLo w)
      | 0, 2 => .op .or false r r (cLo w)
      | 0, 3 => .op .and false r r (cLo w)
      | 1, 0 => .op .sub true r r (cLo w)
      | 1, 1 => .op .add true r r (cLo w)
      | _, _ => .illegal
  | 5 => .jal 0 (cImmJ w)
  | 6 => .branch 0 (cHi w) 0 (cImmB w)
  | _ => .branch 1 (cHi w) 0 (cImmB w)

def decodeC2 (w : Nat) : Rv :=
  let rd := bits w 7 5
  let rs2 := bits w 2 5
  match bits w 13 3 with
  | 0 => .imm .sll false rd rd (cShamt w)
  | 2 => if rd = 0 then .illegal else .load 2 rd 2 (bits w 2 2 * 64 + bits w 12 1 * 32 + bits w 4 3 * 4)
  | 3 => if rd = 0 then .illegal else .load 3 rd 2 (bits w 2 3 * 64 + bits w 12 1 * 32 + bits w 5 2 * 8)
  | 4 =>
    if bits w 12 1 = 0 then
      if rs2 = 0 then (if rd = 0 then .illegal else .jalr 0 rd 0) else .op .add false rd 0 rs2
    else if rs2 = 0 then (if rd = 0 then .ebreak else .jalr 1 rd 0)
    else .op .add false rd rd rs2
  | 6 => .store 2 2 rs2 (bits w 7 2 * 64 + bits w 9 4 * 4)
  | 7 => .store 3 2 rs2 (bits w 7 3 * 64 + bits w 10 3 * 8)
  | _ => .illegal

/-- Is an instruction whose low 16 bits are `w` a 16-bit one? -/
def isShort (w : Nat) : Bool := w % 4 != 3

/-- An instruction from its bits: 16 of them where it is short. -/
def decodeRv (w : Nat) : Rv :=
  match w % 4 with
  | 0 => decodeC0 (w % 65536)
  | 1 => decodeC1 (w % 65536)
  | 2 => decodeC2 (w % 65536)
  | _ => decode32 w

/-- The rows of the command table by which an instruction is carried out. -/
inductive Kind where
  | cmdPush | tokAdd | tokWait | sumRd | evtRaise | xfence | cmoClean | cmoInv | cmoFlush | fenceI | load | store | amo | other
  deriving DecidableEq, Repr

def Rv.kind : Rv → Kind
  | .xm 0 .. => .cmdPush
  | .xm 1 .. => .tokAdd
  | .xm 2 .. => .tokWait
  | .xm 3 .. => .sumRd
  | .xm 4 .. => .evtRaise
  | .xm .. => .xfence
  | .cmo 0 .. => .cmoClean
  | .cmo 1 .. => .cmoInv
  | .cmo .. => .cmoFlush
  | .fenceI => .fenceI
  | .load .. | .flw .. => .load
  | .store .. | .fsw .. => .store
  | .amo .. => .amo
  | _ => .other

/-! ### Integer arithmetic -/

def s64 (v : Nat) : Int := toSigned 64 v
def u64 (v : Int) : Nat := ofSigned 64 v

/-- A 64-bit operation. -/
def alu64 (o : Alu) (a b : Nat) : Nat :=
  match o with
  | .add => (a + b) % 2 ^ 64
  | .sub => u64 ((a : Int) - b)
  | .sll => a * 2 ^ (b % 64) % 2 ^ 64
  | .slt => b2n (decide (s64 a < s64 b))
  | .sltu => b2n (decide (a < b))
  | .xor => a ^^^ b
  | .srl => a / 2 ^ (b % 64)
  | .sra => u64 (s64 a / (2 ^ (b % 64) : Nat))
  | .or => a ||| b
  | .and => a &&& b
  | .mul => a * b % 2 ^ 64
  | .mulh => u64 (s64 a * s64 b / (2 ^ 64 : Nat))
  | .mulhsu => u64 (s64 a * (b : Int) / (2 ^ 64 : Nat))
  | .mulhu => a * b / 2 ^ 64
  | .div => if b = 0 then 2 ^ 64 - 1 else u64 (Int.tdiv (s64 a) (s64 b))
  | .divu => if b = 0 then 2 ^ 64 - 1 else a / b
  | .rem => if b = 0 then a else u64 (Int.tmod (s64 a) (s64 b))
  | .remu => if b = 0 then a else a % b

/-- A word operation: on the low 32 bits, the result sign-extended. -/
def alu32 (o : Alu) (a b : Nat) : Nat :=
  let x := a % 2 ^ 32
  let y := b % 2 ^ 32
  let sx := toSigned 32 x
  let sy := toSigned 32 y
  match o with
  | .sll => sext 32 (x * 2 ^ (y % 32))
  | .srl => sext 32 (x / 2 ^ (y % 32))
  | .sra => u64 (sx / (2 ^ (y % 32) : Nat))
  | .div => if y = 0 then 2 ^ 64 - 1 else sext 32 (ofSigned 32 (Int.tdiv sx sy))
  | .divu => if y = 0 then 2 ^ 64 - 1 else sext 32 (x / y)
  | .rem => if y = 0 then sext 32 x else sext 32 (ofSigned 32 (Int.tmod sx sy))
  | .remu => if y = 0 then sext 32 x else sext 32 (x % y)
  | o => sext 32 (alu64 o a b)

def aluRun (o : Alu) (w : Bool) (a b : Nat) : Nat := if w then alu32 o a b else alu64 o a b

/-- Is a branch taken? -/
def taken (f3 a b : Nat) : Bool :=
  match f3 with
  | 0 => a == b
  | 1 => a != b
  | 4 => decide (s64 a < s64 b)
  | 5 => decide (s64 b ≤ s64 a)
  | 6 => decide (a < b)
  | _ => decide (b ≤ a)

/-- The new value of an AMO on `n` bytes. -/
def amoNew (f5 n old src : Nat) : Nat :=
  let m := 2 ^ (8 * n)
  let a := old % m
  let b := src % m
  let lt := decide (toSigned (8 * n) a < toSigned (8 * n) b)
  match f5 with
  | 0x00 => (a + b) % m
  | 0x01 => b
  | 0x04 => a ^^^ b
  | 0x0C => a &&& b
  | 0x08 => a ||| b
  | 0x10 => if lt then a else b
  | 0x14 => if lt then b else a
  | 0x18 => min a b
  | _ => max a b

end Sys2Proof.Machine
end

