-- ==== Sys2Proof/Machine/Hart.lean ====
section
/-!
DEFINITION. A core's view of the module: registers, control and status registers, traps, the regions of Table 8-2, caches and
TCM (R190 to R195, R200, R204, R205).
-/
namespace Sys2Proof.Machine

/-! ### Registers -/

def Core.xr (x : Core) (r : Nat) : Nat := if r = 0 then 0 else (tget (fun _ => 0) x.x r).toNat
def Core.xw (x : Core) (r v : Nat) : Core :=
  if r = 0 then x else { x with x := tput (fun _ => 0) x.x r (BitVec.ofNat 64 v) }
def Core.fr (x : Core) (r : Nat) : Nat := (tget (fun _ => 0) x.f r).toNat
def Core.fw (x : Core) (r v : Nat) : Core := { x with f := tput (fun _ => 0) x.f r (BitVec.ofNat 32 v) }

/-- A control and status register as it is held; all are 0 at reset. -/
def Core.cs (x : Core) (n : Nat) : Nat := (tget (fun _ => 0) x.csr n).toNat
def Core.setCs (x : Core) (n v : Nat) : Core := { x with csr := tput (fun _ => 0) x.csr n (BitVec.ofNat 64 v) }

def csrMSTATUS : Nat := 0x300
def csrMIE : Nat := 0x304
def csrMTVEC : Nat := 0x305
def csrMEPC : Nat := 0x341
def csrMCAUSE : Nat := 0x342
def csrMTVAL : Nat := 0x343
def csrFCSR : Nat := 0x003
def csrMCYCLE : Nat := 0xB00
def csrMINSTRET : Nat := 0xB02

/-- misa: RV64 with A, C, F, I, M, U and X (R190). -/
def misaVal : Nat := 2 ^ 63 + 2 ^ 0 + 2 ^ 2 + 2 ^ 5 + 2 ^ 8 + 2 ^ 12 + 2 ^ 20 + 2 ^ 23

/-- Bits of mstatus that software sets: MIE, MPIE, MPP, FS, MPRV, TW. -/
def mstatusMask : Nat := 2 ^ 3 + 2 ^ 7 + 3 * 2 ^ 11 + 3 * 2 ^ 13 + 2 ^ 17 + 2 ^ 21

/-- mstatus as it reads: UXL is 64 bits, SD sums FS up. -/
def Core.mstatus (x : Core) : Nat :=
  let v := x.cs csrMSTATUS
  v + 2 ^ 33 + (if bits v 13 2 = 3 then 2 ^ 63 else 0)

/-- KCLK cycles since channel reset. -/
def Chan.kclk (c : Chan) : Nat := (c.now - c.t0) / 3

/-- mip (R195): MEIP while the CIC presents a source, MTIP while time ≥ SC_MTIMECMP, MSIP 0. -/
def Chan.mip (c : Chan) (h : Nat) : Nat :=
  b2n (c.presented h).isSome * 2 ^ 11 +
    b2n (decide (h < 4) && decide (c.gf (SC_MTIMECMP.CMP h) ≤ c.localNs)) * 2 ^ 7

/-- May the present mode use CSR `n`, for writing or not?  The counters of user mode are gated by mcounteren. -/
def Core.csrAllowed (x : Core) (n : Nat) (write : Bool) : Bool :=
  (!x.user || bits n 8 2 == 0) && !(write && bits n 10 2 == 3) &&
  (!(x.user && 0xC00 ≤ n && n < 0xC20) || bit (x.cs 0x306) (n - 0xC00)) &&
  (!(1 ≤ n && n ≤ 3) || bits (x.cs csrMSTATUS) 13 2 != 0)

/-- A CSR as it reads; none where the core has none of that number. -/
def Chan.csrRead (c : Chan) (h n : Nat) : Option Nat :=
  let x := c.core h
  if n = 0x001 then some (bits (x.cs csrFCSR) 0 5)
  else if n = 0x002 then some (bits (x.cs csrFCSR) 5 3)
  else if n = 0x003 then some (x.cs csrFCSR)
  else if n = 0xC00 ∨ n = 0xB00 then some ((c.kclk + x.cs csrMCYCLE) % 2 ^ 64)
  else if n = 0xC01 then some c.localNs
  else if n = 0xC02 ∨ n = 0xB02 then some (x.cs csrMINSTRET)
  else if (0xC03 ≤ n ∧ n < 0xC20) ∨ (0xB03 ≤ n ∧ n < 0xB20) ∨ (0x323 ≤ n ∧ n < 0x340) ∨ n = 0x320 then some 0
  else if n = 0xF11 ∨ n = 0xF12 ∨ n = 0xF13 ∨ n = 0xF15 then some 0
  else if n = 0xF14 then some h
  else if n = csrMSTATUS then some x.mstatus
  else if n = 0x301 then some misaVal
  else if n = 0x344 then some (c.mip h)
  else if n = csrMIE ∨ n = csrMTVEC ∨ n = 0x306 ∨ n = 0x30A ∨ n = 0x340 ∨ n = csrMEPC ∨ n = csrMCAUSE ∨ n = csrMTVAL then
    some (x.cs n)
  else none

/-- A write of a CSR, with the bits that cannot be written left as they are. -/
def Chan.csrWrite (c : Chan) (h n v : Nat) : Chan :=
  c.onCore h (fun x =>
    let dirty (x : Core) := x.setCs csrMSTATUS (setBits (x.cs csrMSTATUS) 13 2 3)
    if n = 0x001 then dirty (x.setCs csrFCSR (setBits (x.cs csrFCSR) 0 5 v))
    else if n = 0x002 then dirty (x.setCs csrFCSR (setBits (x.cs csrFCSR) 5 3 v))
    else if n = 0x003 then dirty (x.setCs csrFCSR (v % 256))
    else if n = 0xB00 then x.setCs csrMCYCLE (u64 ((v : Int) - c.kclk))
    else if n = 0xB02 then x.setCs csrMINSTRET v
    else if n = csrMSTATUS then
      let v := v &&& mstatusMask
      let v := if bits v 11 2 = 0 ∨ bits v 11 2 = 3 then v else setBits v 11 2 (bits (x.cs csrMSTATUS) 11 2)
      x.setCs csrMSTATUS v
    else if n = csrMIE then x.setCs n (v &&& (2 ^ 3 + 2 ^ 7 + 2 ^ 11))
    else if n = csrMTVEC then if bits v 1 1 = 0 then x.setCs n v else x
    else if n = 0x306 then x.setCs n (v % 8)
    else if n = 0x30A then x.setCs n (v % 2)
    else if n = csrMEPC then x.setCs n (v - v % 2)
    else if n = 0x340 ∨ n = csrMCAUSE ∨ n = csrMTVAL then x.setCs n v
    else x)

/-! ### Traps -/

/-- A trap is taken: mepc, mcause and mtval, MPIE and MPP save, machine mode without interrupts, and the handler of mtvec. -/
def Core.trap (x : Core) (intr : Bool) (cause tval : Nat) : Core :=
  let s := x.cs csrMSTATUS
  let s := setBits (setBits (setBits s 7 1 (bits s 3 1)) 3 1 0) 11 2 (if x.user then 0 else 3)
  let vec := x.cs csrMTVEC
  let base := vec / 4 * 4
  let x := (((x.setCs csrMEPC x.pc.toNat).setCs csrMCAUSE (cause + (if intr then 2 ^ 63 else 0))).setCs csrMTVAL tval).setCs
    csrMSTATUS s
  { x with user := false, waiting := false, pc := BitVec.ofNat 64 (if intr ∧ vec % 4 = 1 then base + 4 * cause else base) }

/-- MRET. -/
def Core.mret (x : Core) : Core :=
  let s := x.cs csrMSTATUS
  let mpp := bits s 11 2
  let s1 := setBits (setBits (setBits s 3 1 (bits s 7 1)) 7 1 1) 11 2 0
  let s1 := if mpp = 3 then s1 else setBits s1 17 1 0
  { (x.setCs csrMSTATUS s1) with user := mpp != 3, pc := BitVec.ofNat 64 (x.cs csrMEPC) }

/-- Trap entry of a core.  A trap of the service core that its firmware cannot handle also fences the channel (R210); the firmware is
no part of the manual, so whether it can is a free value. -/
def Chan.takeTrap (c : Chan) (h : Nat) (intr : Bool) (cause tval : Nat) : Chan :=
  let d := c.onCore h (fun x => x.trap intr cause tval)
  if h = 4 then
    let e := (d.withFresh (d.fresh + 1))
    if Config.svcHandles d.fresh then e else e.askFence 3
  else d

/-- An exception of a core. -/
def Chan.coreTrap (c : Chan) (h cause tval : Nat) : Chan := c.takeTrap h false cause tval

/-- An instruction of `len` bytes ends, and the next follows. -/
def Core.retire (x : Core) (len : Nat) : Core :=
  { (x.setCs csrMINSTRET (x.cs csrMINSTRET + 1)) with pc := x.pc + BitVec.ofNat 64 len }

/-! ### Regions (R192, R193, Table 8-2) -/

/-- What an address of a core names. -/
inductive Region where
  | tcm (o : Nat)
  | mem (a : Nat)
  | reg (off : Nat)
  | fab (node a : Nat)
  | host (pa : Nat)
  | none
  deriving DecidableEq, Repr

def tcmBase : Nat := 0x7FFFFC0000
def tcmSize : Nat := 0x40000

def regionOf (g : Nat) : Region :=
  match locOf g with
  | .lcl a =>
    if tcmBase ≤ a ∧ a < tcmBase + tcmSize then .tcm (a - tcmBase)
    else if inMem a 1 then .mem a
    else if inRegs a 1 then .reg (a - regBase)
    else .none
  | .fab node a => if inMem a 1 then .fab node a else .none
  | .host pa => .host pa
  | .bad => .none

/-! ### TCM and caches -/

def Core.tcmRead (x : Core) (o n : Nat) : Nat := ofLe ((List.range n).map (fun i => tget (fun _ => (0 : Byte)) x.tcm (o + i)))
def pokeTcm (t : Tbl Byte) : Nat → List Byte → Tbl Byte
  | _, [] => t
  | o, b :: r => pokeTcm (tput (fun _ => 0) t o b) (o + 1) r
def Core.tcmBytes (x : Core) (o n : Nat) : List Byte := (List.range n).map (fun i => tget (fun _ => (0 : Byte)) x.tcm (o + i))

/-- The set of a line: 128 sets of four lines. -/
def setOf (line : Nat) : Nat := line % 128

/-- The lines of a set. -/
def linesIn {α : Type} (t : Tbl α) (s : Nat) : List Nat := (t.filter (fun e => setOf e.1 == s)).map (·.1)

/-- A dirty line is written back to memory; the line stays. -/
def Chan.writeBack (c : Chan) (h line : Nat) : Chan :=
  match tget? line (c.core h).dcache with
  | some (true, bs) =>
    let (_, c) := c.store (line * 64) bs
    c.onCore h (fun x => { x with dcache := tins line (false, bs) (terase line x.dcache) })
  | _ => c

/-- A line leaves the data cache. -/
def Chan.evict (c : Chan) (h line : Nat) : Chan :=
  (c.writeBack h line).onCore h (fun x => { x with dcache := terase line x.dcache })

/-- The data of a line, brought into the data cache when it is not there; none when memory's code cannot correct it. -/
def Chan.fillD (c : Chan) (h line : Nat) : Option (List Byte) × Chan :=
  match tget? line (c.core h).dcache with
  | some (_, bs) => (some bs, c)
  | none =>
    match c.load (line * 64) 64 with
    | (none, c) => (none, c)
    | (some bs, c) =>
      let full := linesIn (c.core h).dcache (setOf line)
      let c :=
        if full.length < 4 then c
        else
          let (k, c) := c.free
          c.evict h (nth 0 full (Config.cacheVictim k % full.length))
      (some bs, c.onCore h (fun x => { x with dcache := tins line (false, bs) (terase line x.dcache) }))

/-- The same for the instruction cache. -/
def Chan.fillI (c : Chan) (h line : Nat) : Option (List Byte) × Chan :=
  match tget? line (c.core h).icache with
  | some bs => (some bs, c)
  | none =>
    match c.load (line * 64) 64 with
    | (none, c) => (none, c)
    | (some bs, c) =>
      let full := linesIn (c.core h).icache (setOf line)
      let c :=
        if full.length < 4 then c
        else
          let (k, c) := c.free
          c.onCore h (fun x => { x with icache := terase (nth 0 full (Config.cacheVictim k % full.length)) x.icache })
      (some bs, c.onCore h (fun x => { x with icache := tins line bs (terase line x.icache) }))

/-- Bytes written into a cached line, which becomes dirty. -/
def Chan.putD (c : Chan) (h a : Nat) (bs : List Byte) : Chan :=
  match tget? (a / 64) (c.core h).dcache with
  | none => c
  | some (_, old) =>
    let new := old.take (a % 64) ++ bs ++ old.drop (a % 64 + bs.length)
    c.onCore h (fun x => { x with dcache := tins (a / 64) (true, new) (terase (a / 64) x.dcache) })

/-! ### Loads, stores and atomics -/

/-- Has the core a remote access outstanding? -/
def Chan.coreWaitsRemote (c : Chan) (h : Nat) : Bool :=
  (c.ops ++ c.opq).any (fun o => match o.cont with | .core k _ _ _ _ | .coreStore k => k == h | _ => false)

/-- The outcome of an access: a value, an exception, a remote access begun, or nothing yet. -/
inductive MemRes where
  | val (v : Nat) (c : Chan)
  | trap (cause : Nat) (c : Chan)
  | sent (c : Chan)
  | stall
  deriving DecidableEq, Repr

/-- A load of `n` bytes; a remote one names the register that its value will go to. -/
def Chan.coreRead (c : Chan) (h g n rd : Nat) (signed isFp : Bool) : MemRes :=
  match regionOf g with
  | .tcm o => if o % 64 + n ≤ 64 then .val ((c.core h).tcmRead o n) c else .trap 4 c
  | .mem a =>
    if a % 64 + n ≤ 64 then
      match c.fillD h (a / 64) with
      | (some bs, c) => .val (leAt bs (a % 64) n) c
      | (none, c) => .trap 5 c
    else .trap 4 c
  | .reg off => if n = 8 ∧ !badOffset off then .val (c.regRead off) c else .trap 5 c
  | .fab node a =>
    if a % n ≠ 0 then .trap 4 c
    else if c.coreWaitsRemote h then .stall
    else .sent ((c.onCore h (fun x => { x with busy := true })).request { op0 with
      cont := .core h rd n signed isFp, pkt := { pkt0 with ptype := pREAD, dst := node, len := n, addr := fabAddr node a } })
  | .host pa =>
    if pa % n ≠ 0 then .trap 4 c
    else if c.coreWaitsRemote h then .stall
    else .sent ((c.onCore h (fun x => { x with busy := true })).request { op0 with
      host := true, cont := .core h rd n signed isFp, pkt := { pkt0 with ptype := pREAD, len := n, addr := pa } })
  | .none => .trap 5 c

/-- May the core store to the register at this offset?  Stage cores may not write SVC_ and HR_ (Table 8-2). -/
def coreMayWrite (h off : Nat) : Bool := h == 4 || !(off < 0x10000 || (0x30000 ≤ off && off < 0x40000))

/-- A store of bytes; a remote one is posted.  A store whose cache line cannot be read for an uncorrectable codeword raises the store
access fault; Table 2-4 names a load's alone (DESIGN CHOICE, notes/assumptions/142.md). -/
def Chan.coreWrite (c : Chan) (h g : Nat) (bs : List Byte) : MemRes :=
  let n := bs.length
  match regionOf g with
  | .tcm o => if o % 64 + n ≤ 64 then .val 0 (c.onCore h (fun x => { x with tcm := pokeTcm x.tcm o bs })) else .trap 6 c
  | .mem a =>
    if a % 64 + n ≤ 64 then
      match c.fillD h (a / 64) with
      | (some _, c) => .val 0 (c.putD h a bs)
      | (none, c) => .trap 7 c
    else .trap 6 c
  | .reg off =>
    if n = 8 ∧ !badOffset off ∧ coreMayWrite h off then .val 0 (c.regBy (.core h) off (ofLe bs)) else .trap 7 c
  | .fab node a =>
    if a % n ≠ 0 then .trap 6 c
    else if c.coreWaitsRemote h then .stall
    else .val 0 (c.request { op0 with
      kind := 1, cont := .coreStore h,
      pkt := { pkt0 with ptype := pWRITE, dst := node, len := n, addr := fabAddr node a, data := bs } })
  | .host pa =>
    if pa % n ≠ 0 then .trap 6 c
    else if c.coreWaitsRemote h then .stall
    else .val 0 (c.request { op0 with
      kind := 1, host := true, cont := .coreStore h, pkt := { pkt0 with ptype := pWRITE, len := n, addr := pa, data := bs } })
  | .none => .trap 7 c

/-- Where an atomic acts locally: own TCM or cached memory, in one 64-byte block, and for LR and SC at a natural boundary. -/
def Chan.atomicLocal (g n : Nat) (f5 : Nat) : Option Bool :=
  let fits (a : Nat) : Bool := a % 64 + n ≤ 64 && (!(f5 == 2 || f5 == 3) || a % n == 0)
  match regionOf g with
  | .tcm o => some (fits o)
  | .mem a => some (fits a)
  | _ => none

/-- An AMO, LR or SC (R194, Table 8-2); the answer is the value for rd, sign-extended from a word.  A misaligned AMO to the fabric
is address-misaligned (cause 6), as Table 8-2 has it, although R56 with R27 lets one read an access fault (DESIGN CHOICE,
notes/assumptions/126.md). -/
def Chan.coreAtomic (c : Chan) (h f5 g n rd src : Nat) : MemRes :=
  let mis := if f5 = 2 then 4 else 6
  let acc := if f5 = 2 then 5 else 7
  match Chan.atomicLocal g n f5 with
  | some true =>
    if f5 = 3 then
      if (c.core h).resv = some (g, n) then
        match c.coreWrite h g (leBytes n src) with
        | .val _ c => .val 0 (c.onCore h (fun x => { x with resv := none }))
        | r => r
      else .val 1 (c.onCore h (fun x => { x with resv := none }))
    else
      match c.coreRead h g n rd true false with
      | .val v c =>
        if f5 = 2 then .val (sext (8 * n) v) (c.onCore h (fun x => { x with resv := some (g, n) }))
        else
          match c.coreWrite h g (leBytes n (amoNew f5 n v src)) with
          | .val _ c => .val (sext (8 * n) v) c
          | r => r
      | .trap _ c => .trap acc c
      | r => r
  | some false => .trap mis c
  | none =>
    match regionOf g with
    | .fab node a =>
      if n ≠ 8 ∨ ¬ (f5 = 0 ∨ f5 = 1) then .trap 7 c
      else if a % 8 ≠ 0 then .trap 6 c
      else if c.coreWaitsRemote h then .stall
      else .sent ((c.onCore h (fun x => { x with busy := true })).request { op0 with
        cont := .core h rd 8 false false
        pkt := { pkt0 with ptype := pATOMIC, dst := node, aux := f5, addr := fabAddr node a, aux2 := src } })
    | _ => .trap acc c

/-- Does a remote load that returned fill a register?  Its value, zero- or sign-extended. -/
def Core.loaded (x : Core) (rd n : Nat) (signed isFp : Bool) (v : Nat) : Core :=
  if isFp then (x.fw rd v).setCs csrMSTATUS (setBits (x.cs csrMSTATUS) 13 2 3)
  else x.xw rd (if signed then sext (8 * n) v else v)

/-! ### Fetch -/

/-- Two bytes of an instruction. -/
def Chan.fetch16 (c : Chan) (h g : Nat) : Option Nat × Chan :=
  match regionOf g with
  | .tcm o => (some ((c.core h).tcmRead o 2), c)
  | .mem a =>
    match c.fillI h (a / 64) with
    | (some bs, c) => (some (leAt bs (a % 64) 2), c)
    | (none, c) => (none, c)
  | _ => (none, c)

/-- The instruction at the core's pc: its bits and length, or the address at which the fetch failed. -/
def Chan.fetch (c : Chan) (h : Nat) : Except Nat (Nat × Nat) × Chan :=
  let pc := (c.core h).pc.toNat
  match c.fetch16 h pc with
  | (none, c) => (.error pc, c)
  | (some lo, c) =>
    if isShort lo then (.ok (lo, 2), c)
    else
      let pc2 := (pc + 2) % 2 ^ 64
      match c.fetch16 h pc2 with
      | (none, c) => (.error pc2, c)
      | (some hi, c) => (.ok (lo + 65536 * hi, 4), c)

end Sys2Proof.Machine
end

