-- ==== Sys2Proof/Machine/Supply.lean ====
section
/-!
DEFINITION. Module power: MOD_PWRGD, the converters, the loss of one channel's supply, and the restoring of a channel in OFF
(R228, R381, R405, R495 to R497, R545, R548).
-/
namespace Sys2Proof.Machine

/-- A change to every channel. -/
def State.allChans (s : State) (f : Chan → Chan) : State := { s with ch := s.ch.map f }

/-- What survives a reset of the host-port die: fuses and key store, flash, the non-volatile store with PON_CNT, and the level
of the FLASH_WP_N pin. -/
def Hpd.powerOn (h : Hpd) : Hpd :=
  let r : Hpd :=
    { now := h.now, t0 := h.now, fresh := h.fresh, nv := h.nv, nvCount := h.nvCount, flash := h.flash, keys := h.keys, keyFuses := h.keyFuses,
      idFuse := h.idFuse, seeds := h.seeds, good := true, conv := h.conv, sens := h.sens }
  let r := (((r.wr SEC_FUSE.off (h.rd SEC_FUSE.off)).wr SEC_SERIAL.off (h.rd SEC_SERIAL.off)).sf MG_VER.IANA (h.gf MG_VER.IANA)).sf
    MG_STAT.PON_CNT (h.gf MG_STAT.PON_CNT + 1)
  ((r.sf SEC_STAT.NO_KEY (b2n h.noKey)).sf SYL_STAT.WP (h.gf SYL_STAT.WP)).sf MG_STAT.CH_POWER 15

/-- A channel at module power good: BOOT, P0, every register at its reset value; its UCIe link trains (R471). -/
def Chan.powerOn (c : Chan) : Chan :=
  ({ num := c.num, now := c.now, t0 := c.now, hpdT0 := c.now, erase := (c.now, c.now), fresh := c.fresh, noCompute := true } : Chan).ucTrain 0

/-- POWER_GOOD: MOD_PWRGD rises; the security module's pre-operational tests pass (0) or fail (1 ROM, 2 known answer,
3 entropy). -/
def State.powerGood (s : State) (test : Nat) : State :=
  if s.hpd.good ∨ !s.hpd.conv then s
  else
    let h := s.hpd.powerOn
    let h := if test = 0 then h.sf SEC_STAT.STATE secOPERATIONAL else { h.secFail (test - 1) with p0 := true }
    { (s.allChans Chan.powerOn) with hpd := h }

/-- P0 ends for a channel; a link to the host-port die that is DOWN is a fault of P1 (R473, Table 14-4). -/
def Chan.p0Done (c : Chan) : Chan :=
  let c := c.phaseDone 0
  if c.gf UC_STAT.STATE = 0 then c.bootFault 1 else c

/-- SYLLABUS_VERIFIED: the end of P0 for the module; the channels go on to P1 when a copy was accepted. -/
def State.syllabusVerified (s : State) : State :=
  if !s.hpd.good || s.hpd.p0 || s.hpd.gf SEC_STAT.STATE != secOPERATIONAL then s
  else
    let h := s.hpd.syllabus
    let s := { s with hpd := h }
    if h.header.isNone then s
    else s.allChans (fun c => if c.cstate = csBOOT ∧ c.phase = 0 then c.p0Done else c)

/-- The module loses its power: the supply monitor writes PWR_LOST to the non-volatile store, and every die stops. -/
def State.powerLost (s : State) (cause : Nat) : State :=
  let h := s.hpd.ev 0x23 0x170 3 (det [(16, 1, cause), (17, 4, s.hpd.gf MG_STAT.PON_CNT)])
  { (s.allChans Chan.turnOff) with hpd := (((((((((h.sf MG_STAT.CH_POWER 0).withGood false).withP0 false).withHeader none).withSecOp none).withSylOp none).withInq []).withOutb []).withReads []) }

/-- PWRGD_FALL. -/
def State.pwrgdFall (s : State) : State := if s.hpd.good then s.powerLost 0 else s

/-- PWRGD_GLITCH: a low level of `us` µs that ends before 1 ms. -/
def Hpd.pwrgdGlitch (h : Hpd) (us : Nat) : Hpd :=
  if h.good ∧ us < 1000 then h.evLim 1 100 0x23 0x174 1 (det [(16, 4, us)]) else h

/-- CONVERTER_OFF: 1 undervoltage, 2 overvoltage, 3 eFuse trip. -/
def State.converterOff (s : State) (cause : Nat) : State :=
  if !s.hpd.conv ∨ cause < 1 ∨ 3 < cause then s
  else
    let s := if s.hpd.good then s.powerLost cause else s
    { s with hpd := (s.hpd.withConv false) }

/-- CONVERTER_ON. -/
def Hpd.converterOn (h : Hpd) : Hpd := (h.withConv true)

/-- CHANNEL_POWER_LOST: the channel falls silent; its neighbours find out. -/
def Chan.powerLost (c : Chan) : Chan :=
  if c.gf HR_PSTATE.CUR = 4 then c else (c.turnOff.withOut (c.out ++ [HpdMsg.power false]))

/-- R228, R548: power is restored to a channel in OFF, which starts in BOOT from P1; OFF is left (Table 8-8). -/
def Chan.restore (c : Chan) : Chan :=
  let r : Chan := (c.loseAll.withNoCompute true)
  ((r.sf HR_CSTATE.PHASE 1).pstateEv 4 0 0 0).ucTrain 0

/-- Restoring the power of channel `n`, with CH_POWER in the log of the host-port die. -/
def State.chanOn (s : State) (n : Fin 4) : State :=
  let s := s.onChan n Chan.restore
  s.onHpd (fun h => (h.sf MG_STAT.CH_POWER (h.gf MG_STAT.CH_POWER ||| 2 ^ n.val)).ev 0x23 0x171 0 (det [(16, 1, n.val), (17, 1, 1)]))

/-- CHANNEL_RESET: the blocks at their reset values, and the UCIe link trains; the channel's host accesses that had not
reached the host-port die are lost with their units. -/
def State.channelReset (s : State) (n : Fin 4) : State :=
  s.onChan n (fun c => c.ownHostLost.resetChannel.ucTrain 0)

/-! ### The eraser (R39 to R44) -/

/-- Codewords of a memory, and the ticks of one pass over them: 24 hours for HBM, one hour for the scratchpad. -/
def eraseSpan (sp : Bool) : Nat × Nat := if sp then (spSize / 32, 3600 * tSec) else (hbmSize / 32, 24 * 3600 * tSec)

/-- The place of the next codeword to be read in its pass. -/
def Chan.erasePos (c : Chan) (sp : Bool) : Nat :=
  if sp then c.gf SP_ERASE_STAT.POS - spBase / 32 else c.gf HBM_ERASE_STAT.POS

/-- The next codeword is due: the pass is spread evenly over its period (notes/assumptions/118.md). -/
def Chan.eraseDue (c : Chan) (sp : Bool) : Bool :=
  decide ((if sp then c.erase.2 else c.erase.1) + c.erasePos sp * (eraseSpan sp).2 / (eraseSpan sp).1 ≤ c.now)

/-- A pass ends and the next begins, a period after it. -/
def Chan.eraseAgain (c : Chan) (sp : Bool) : Chan :=
  c.withErase (if sp then (c.erase.1, c.erase.2 + (eraseSpan sp).2) else (c.erase.1 + (eraseSpan sp).2, c.erase.2))

/-- ERASER_READ: the next codeword of the pass, 32 bytes, once it is due; the write-back of a corrected codeword is not
overtaken by a write (R40), since the read and the write-back are one command. -/
def Chan.eraserRead (c : Chan) (sp : Bool) : Chan :=
  let base := if sp then 0xC0000 else 0xB0000
  let lo := if sp then spBase else 0
  let hi := if sp then spBase + spSize else hbmSize
  let fPos : Fld := ⟨base + 0x110, 5, 35⟩
  let fPass : Fld := ⟨base + 0x110, 48, 16⟩
  let a := max lo (c.gf fPos * 32)
  if !c.eraseDue sp then c
  else
    let (_, c) := c.access 1 a 32
    if a + 32 < hi then c.sf fPos ((a + 32) / 32)
    else
      let c := ((c.eraseAgain sp).sf fPos (lo / 32)).sf fPass (c.gf fPass + 1)
      (c.memIrq lo 2).ev (memBlk lo).2 0x0003 0 (det [(16, 2, c.gf fPass)])

end Sys2Proof.Machine
end

