-- ==== Sys2Proof/Machine/HpdRegs.lean ====
section
/-!
DEFINITION. Register accesses of the host, the monitor and the other agents (R424, R425, R524, R525, R549, R558 to R561), and
the registers of the host-port die.
-/
namespace Sys2Proof.Machine

/-! ### Registers of the host-port die -/

/-- SEC_BUF and SYL_BUF (R538, R539). -/
def inSecBuf (off : Nat) : Bool := 0x11000 ≤ off && off < 0x14000
def inSylBuf (off : Nat) : Bool := 0x21000 ≤ off && off < 0x22000

/-- A register of the die as it reads. -/
def Hpd.regRead (h : Hpd) (off : Nat) : Nat :=
  if inSecBuf off then ofLe (peekBuf h.secBuf (off - 0x11000) 8)
  else if inSylBuf off then ofLe (peekBuf h.sylBuf (off - 0x21000) 8)
  else match hpdDesc off with | some d => h.rd off &&& d.readMask | none => 0

/-- A write of a register of the die. -/
def Hpd.regWrite (h : Hpd) (ag : Agent) (off v : Nat) : Hpd :=
  if inSecBuf off then (h.withSecBuf (pokeBuf h.secBuf (off - 0x11000) (leBytes 8 v)))
  else if inSylBuf off then (h.withSylBuf (pokeBuf h.sylBuf (off - 0x21000) (leBytes 8 v)))
  else if off = SEC_CTL.off then h.secCtl ag v
  else if off = SYL_CMD.off then h.sylCmd ag v
  else if off = MG_LOG_IDX.off then h.logIdx v
  else if off = HP_CNT_CTL.off then if bit v 0 then (h.sf HP_CNT_BADACC.COUNT 0).sf HP_CNT_REFUSED.COUNT 0 else h
  else if off = MG_CNT_CTL.off then if bit v 0 then (h.sf MG_CNT_UART.COUNT 0).sf MG_CNT_SMB.COUNT 0 else h
  else h.wrFields off v

/-- Host accesses are accepted (R446). -/
def Hpd.hostOpen (h : Hpd) : Bool := h.flag HP_LINK.UP && h.flag HP_LINK.BME

/-! ### MSI-X (R426) -/

/-- A vector is sent, or held as pending. -/
def Hpd.raise (h : Hpd) (v : Nat) : Hpd :=
  if h.hostOpen && !bit h.mask v then ((h.withSent (h.sent ++ [v])).withPba (setBits h.pba v 1 0))
  else (h.withPba (setBits h.pba v 1 1))

/-- Pending vectors that may go now are sent once, lowest first. -/
def Hpd.flushMsix (h : Hpd) : Hpd :=
  ((List.range 64).filter (bit h.pba)).foldl Hpd.raise h

/-- Entry `v` of the MSI-X table as the host sees it: address, data, vector control. -/
def Hpd.msixEntry (h : Hpd) (v : Nat) : List Byte :=
  let e := tget (fun _ => (0, 0)) h.msix v
  leBytes 8 e.1 ++ leBytes 4 e.2 ++ leBytes 4 (bits h.mask v 1)

/-- One byte of the MSI-X table is written. -/
def Hpd.msixPoke (h : Hpd) (o : Nat) (b : Byte) : Hpd :=
  let v := o / 16
  let e := (h.msixEntry v).set (o % 16) b
  ((h.withMsix (tput (fun _ => (0, 0)) h.msix v (leAt e 0 8, leAt e 8 4))).withMask (setBits h.mask v 1 (bits (leAt e 12 4) 0 1))).flushMsix

/-- Bytes written one after another from offset `o`. -/
def pokeAll (f : Hpd → Nat → Byte → Hpd) (h : Hpd) (o : Nat) (bs : List Byte) : Hpd :=
  bs.zipIdx.foldl (fun h e => f h (o + e.2) e.1) h

/-! ### Reach of a channel -/

/-- A register access of the host-port die gets through to the channel: its link is not DOWN and it is not OFF (R425, Table
21-4); during a training it waits for the link. -/
def Chan.regReach (c : Chan) : Bool := c.gf UC_STAT.STATE != 0 && c.gf HR_PSTATE.CUR != 4

/-- Channel number as an index. -/
def finOf (n : Nat) : Fin 4 := ⟨n % 4, Nat.mod_lt n (by decide)⟩

/-- The registers of the channel that the host-port die keeps (their key), by BAR0 offset. -/
def pageOf (off : Nat) : Option (Fin 4 × Nat) :=
  if 0x1000 ≤ off ∧ off < 0x5000 then some (finOf (off / 0x1000 - 1), 0x10000000 + off % 0x1000) else none

/-- A read in the host-port die's part of BAR0. -/
def State.bar0Read (s : State) (off : Nat) : Nat :=
  match pageOf off with
  | some (n, k) => (s.chan n).regRead k
  | none => s.hpd.regRead off

/-- PWR t ON (R548): done when the channel is in OFF. -/
def State.pwrOn (s : State) (n : Fin 4) : State := if (s.chan n).gf HR_PSTATE.CUR = 4 then s.chanOn n else s

/-- A write in the host-port die's part of BAR0 that is permitted. -/
def State.bar0Write (s : State) (ag : Agent) (off v : Nat) : State :=
  match pageOf off with
  | some (n, k) => s.onChan n (fun c => c.regWrite ag k v)
  | none =>
    if off = MG_PWR_CTL.off then if bit v 2 then s.pwrOn (finOf (bits v 0 2)) else s
    else s.onHpd (fun h => h.regWrite ag off v)

/-! ### Host policy (R524, R525) -/

/-- May the host write the channel register at window offset `off`? -/
def Hpd.hostMayChan (h : Hpd) (off : Nat) : Bool :=
  h.may 0 || off == CIC_ACK.off 5 || off == CIC_EOI.off 5 || off == CH_TOK_INC.off ||
  (h.may 1 && 0x140000 ≤ off && off < 0x144000 && (off % 0x1000 == 0x08 || off % 0x1000 == 0x10)) ||
  (h.may 2 && (off == HR_RECOV_CTL.off || off == HR_PSTATE.off))

/-- May the host write `v` at an offset of the die's own blocks?  SYL_CMD and SEC_CTL judge for themselves. -/
def Hpd.hostMayHpd (h : Hpd) (off v : Nat) : Bool := off != MG_PWR_CTL.off || !bit v 2 || h.may 2

/-- The BAR0 offset of a channel register. -/
def hostOff (n off : Nat) : Nat := if 0x10000000 ≤ off then 0x1000 + 0x1000 * n + (off - 0x10000000) else 0x1000000 + 0xC00000 * n + off

/-! ### Host writes (R425, Tables 16-2 and 16-3) -/

/-- A write that no register takes, counted. -/
def State.badAccess (s : State) : State := s.onHpd (fun h => h.count HP_CNT_BADACC.COUNT 1)

/-- Bytes written to BAR2 outside its registers: the MSI-X table, the host-to-device areas; all else discards them. -/
def State.bar2Put (s : State) (off : Nat) (bs : List Byte) : State :=
  if 0x80000 ≤ off then
    if off + bs.length ≤ 0x80400 then s.onHpd (fun h => pokeAll Hpd.msixPoke h (off - 0x80000) bs) else s
  else
    let o := off % 0x20000
    if 0x10000 ≤ o ∧ o + bs.length ≤ 0x11000 then
      s.onHpd (fun h => pokeAll (fun h i b => h.withH2d (tput (fun _ => (0 : Byte)) h.h2d i b)) h (off / 0x20000 * 4096 + (o - 0x10000)) bs)
    else s

/-- A BAR2 write of 8 bytes. -/
def State.bar2Write (s : State) (off v : Nat) : State :=
  let n := finOf (off / 0x20000)
  if 0x80000 ≤ off then s.bar2Put off (leBytes 8 v)
  else
    match off % 0x20000 with
    | 0x00 => s.onChan n (fun c => c.doorbell v)
    | 0x08 =>
      let (c, h) := mbPost (s.chan n) s.hpd v
      { (s.setChan n c) with hpd := h }
    | 0x18 => s.onChan n (fun c => c.mbAck v)
    | _ => s.bar2Put off (leBytes 8 v)

/-- A write of 8 bytes by the host: BAR0 offsets below 2^26, BAR2 at 2^28. -/
def State.hostWrite (s : State) (off v : Nat) : State :=
  if !s.hpd.flag HP_LINK.UP then s
  else if 0x10000000 ≤ off then s.bar2Write (off - 0x10000000) v
  else if off % 8 ≠ 0 then s.badAccess
  else if off < 0x1000000 then
    if !hpdAssigned off then s.badAccess
    else if s.hpd.hostMayHpd off v then s.bar0Write .host off v
    else s.onHpd (fun h => h.hostRefused off)
  else
    let n := finOf ((off - 0x1000000) / 0xC00000)
    let o := (off - 0x1000000) % 0xC00000
    if 0x4000000 ≤ off then s
    else if !chanAssigned o then s.badAccess
    else if !s.hpd.hostMayChan o then
      (s.onHpd (fun h => h.count HP_CNT_REFUSED.COUNT 1)).onChan n (fun c => c.hpdEv 0x20 0xE4 1 (det [(16, 4, off)]))
    else if (s.chan n).regReach then s.onChan n (fun c => c.regBy .host o v)
    else s

/-- A write of any size by the host, as `hostWrite` takes offsets.  BAR0 counts what is not 8 bytes on an 8-byte boundary; BAR2's
registers take 8-byte writes only (DESIGN CHOICE, notes/assumptions/124.md). -/
def State.barWrite (s : State) (off : Nat) (bs : List Byte) : State :=
  if !s.hpd.flag HP_LINK.UP then s
  else if bs.length = 8 ∧ off % 8 = 0 then s.hostWrite off (ofLe bs)
  else if 0x10000000 ≤ off then s.bar2Put (off - 0x10000000) bs
  else s.badAccess

/-! ### Host reads (R425) -/

/-- A byte of BAR2 as it reads. -/
def State.bar2Byte (s : State) (off : Nat) : Byte :=
  if 0x80000 ≤ off then
    if off < 0x80400 then nth 0 (s.hpd.msixEntry ((off - 0x80000) / 16)) (off % 16)
    else if 0x81000 ≤ off ∧ off < 0x81008 then nth 0 (leBytes 8 s.hpd.pba) (off - 0x81000)
    else 0
  else
    let n := off / 0x20000
    let o := off % 0x20000
    if o < 0x20 then nth 0 (leBytes 8 ((s.chan (finOf n)).regRead (HP_DB.off + o / 8 * 8))) (o % 8)
    else if 0x10000 ≤ o ∧ o < 0x11000 then tget (fun _ => (0 : Byte)) s.hpd.h2d (n * 4096 + (o - 0x10000))
    else if 0x18000 ≤ o ∧ o < 0x19000 then tget (fun _ => (0 : Byte)) s.hpd.d2h (n * 4096 + (o - 0x18000))
    else 0

/-- The aligned doubleword of BAR0 at `off` as the host reads it: all ones in the aperture of a channel out of reach, 0 from a block
without power. -/
def State.bar0Word (s : State) (off : Nat) : Nat :=
  if off < 0x1000000 then s.bar0Read off
  else
    let c := s.chan (finOf ((off - 0x1000000) / 0xC00000))
    if c.regReach then c.regRead ((off - 0x1000000) % 0xC00000) else 2 ^ 64 - 1

/-- A host read of `n` bytes, by an offset as `hostWrite` takes it.  A BAR0 read that is no part of one aligned doubleword has no stated result (free value). -/
def State.barRead (s : State) (off n : Nat) : State :=
  if !s.hpd.flag HP_LINK.UP then s
  else if 0x10000000 ≤ off then
    s.onHpd (fun h => h.withHostAns (some (.bytes ((List.range n).map (fun i => s.bar2Byte (off - 0x10000000 + i))))))
  else if 0x4000000 ≤ off then s
  else if 1 ≤ n ∧ off % 8 + n ≤ 8 then
    s.onHpd (fun h => h.withHostAns (some (.bytes (((leBytes 8 (s.bar0Word (off / 8 * 8))).drop (off % 8)).take n))))
  else
    let ws := (List.range ((off % 8 + n + 7) / 8)).map (fun i => s.bar0Word (off / 8 * 8 + 8 * i))
    s.onHpd (fun h => h.withHostAns (some (.bytes ((List.range n).map (Config.barByte off ws)))))

/-! ### Monitor writes (R547, R549) -/

/-- MON_WRITE. -/
def State.monWrote (s : State) (t off : Nat) : State := s.onHpd (fun h => h.ev 0x23 0x172 1 (det [(16, 1, t), (17, 4, off)]))

/-- May the monitor write `v` at offset `off` of target `t` (0 to 3 a channel, 4 the die)?  The operations of SEC_CTL and
SYL_CMD that authenticate or only read are always permitted (R525). -/
def Hpd.monMay (h : Hpd) (t off v : Nat) : Bool :=
  h.may 4 || h.override ||
  (t == 4 && ((off == SEC_CTL.off && 4 ≤ bits v 0 4 && bits v 0 4 ≤ 7) ||
              (off == SYL_CMD.off && (scOP v == 3 || scOP v == 4 || ((scOP v == 1 || scOP v == 2) && h.may 5)))))

/-- A monitor write that is permitted and reaches its target. -/
def State.monWrite (s : State) (t off v : Nat) : State :=
  if 4 ≤ t then (s.bar0Write .monitor off v).monWrote 4 off
  else (s.onChan (finOf t) (fun c => c.regBy .monitor off v)).monWrote t off

/-- MON_REFUSED (R547). -/
def State.monRefusal (s : State) (t off : Nat) : State :=
  s.onHpd (fun h => h.ev 0x23 0x173 1 (det [(16, 1, t), (17, 4, off), (21, 1, 2)]))

/-- Does an offset lie in a block of its target, aligned (R560, Table 21-4)? -/
def monAligned (t off : Nat) : Bool := off % 8 == 0 && (if t < 4 then chanAssigned off else hpdAssigned off)

/-- Is the target out of reach? -/
def State.monFar (s : State) (t : Nat) : Bool := t < 4 && !(s.chan (finOf t)).regReach

/-- What keeps a write of the monitor from being performed: 2 POLICY, 4 ALIGN, 3 UNREACHABLE, 0 nothing. -/
def State.monBar (s : State) (may : Bool) (t off : Nat) : Nat :=
  if !may then 2 else if !monAligned t off then 4 else if s.monFar t then 3 else 0

/-- A write of the monitor: performed and logged, refused with MON_REFUSED, or without effect; and the code of its answer. -/
def State.monPut (s : State) (t off v : Nat) : Nat × State :=
  let k := s.monBar (s.hpd.monMay t off v) t off
  (k, if k = 0 then s.monWrite t off v else if k = 2 then s.monRefusal t off else s)

/-! ### A write by any agent -/

/-- A write to the register at key `off` of channel `n` (window offset, or the key of a register that the host-port die keeps
for the channel) by agent `ag`, where that agent may write it. -/
def State.write (s : State) (n : Fin 4) (ag : Agent) (off v : Nat) : State :=
  match ag with
  | .host => s.hostWrite (hostOff n.val off) v
  | .monitor =>
    let (t, o) := if 0x10000000 ≤ off then (4, hostOff n.val off) else (n.val, off)
    if !s.hpd.good then s else (s.monPut t o v).2
  | .core h => if 0x10000000 ≤ off ∨ badOffset off ∨ !coreMayWrite h off ∨ !(s.chan n).computeOn then s else s.onChan n (fun c => c.regBy ag off v)
  | .te _ => if 0x10000000 ≤ off ∨ regOffRefused off ∨ !(s.chan n).computeOn then s else s.onChan n (fun c => c.regBy ag off v)
  | .homeroom => if 0x10000000 ≤ off ∨ off = HR_RECOV_CTL.off then s else s.onChan n (fun c => c.regWrite ag off v)

/-- A write to a register of the host-port die by the host or the monitor. -/
def State.writeHpd (s : State) (ag : Agent) (off v : Nat) : State :=
  match ag with
  | .host => s.hostWrite off v
  | .monitor => if !s.hpd.good then s else (s.monPut 4 off v).2
  | _ => s

/-- REGISTER_WRITE: an offset of the channel's register window for its own agents, a BAR0 offset, or 2^28 plus a BAR2 offset,
for the host; a window offset, or 2^28 plus a BAR0 offset of the host-port die, for the monitor. -/
def State.registerWrite (s : State) (n : Fin 4) (ag : Agent) (off v : Nat) : State :=
  match ag with
  | .host => s.hostWrite off v
  | .monitor => if 0x10000000 ≤ off then s.writeHpd .monitor (off - 0x10000000) v else s.write n ag off v
  | _ => s.write n ag off v

end Sys2Proof.Machine
end

