-- ==== Sys2Proof/Machine/HartExec.lean ====
section
/-!
DEFINITION. Instructions of the cores carried out (R190, R191, R194 to R203, R205).
-/
namespace Sys2Proof.Machine

/-! ### Single-precision arithmetic of the F extension -/

def isSnan (a : Nat) : Bool := isNan32 a && !bit a 22

/-- NV for a signalling NaN among the operands. -/
def snanFlag (l : List Nat) : Nat := if l.any isSnan then 16 else 0

/-- The rounding mode of an instruction: its own, or frm; none when reserved. -/
def Core.rnd (x : Core) (rm : Nat) : Option Rnd :=
  match (if rm = 7 then bits (x.cs csrFCSR) 5 3 else rm) with
  | 0 => some .rne | 1 => some .rtz | 2 => some .rdn | 3 => some .rup | 4 => some .rmm | _ => none

/-- Minimum and maximum: the operand that is a number wins over a NaN; −0 lies below +0. -/
def fminmax (mx : Bool) (a b : Nat) : Nat :=
  if isNan32 a && isNan32 b then nan32
  else if isNan32 a then b
  else if isNan32 b then a
  else if mx then max32 a b else min32 a b

/-- FCLASS. -/
def fclass (a : Nat) : Nat :=
  let s := bit a 31
  match f32 a with
  | .nan => if isSnan a then 2 ^ 8 else 2 ^ 9
  | .inf _ => if s then 2 ^ 0 else 2 ^ 7
  | .fin _ m _ =>
    if m = 0 then (if s then 2 ^ 3 else 2 ^ 4)
    else if bits a 23 8 = 0 then (if s then 2 ^ 2 else 2 ^ 5)
    else if s then 2 ^ 1 else 2 ^ 6

/-- A magnitude m × 2^q rounded to an integer, and whether bits were lost. -/
def roundInt (mode : Rnd) (neg : Bool) (m : Nat) (q : Int) : Nat × Bool :=
  if 0 ≤ q then (m * 2 ^ q.toNat, false)
  else
    let sh := (-q).toNat
    let r := m / 2 ^ sh
    let rem := m % 2 ^ sh
    (if rem != 0 && mode.up neg r rem sh then r + 1 else r, rem != 0)

/-- FCVT to an integer of `n` bits: the value as a number of `n` bits, and the flags. -/
def cvtInt (mode : Rnd) (n : Nat) (signed : Bool) (a : Nat) : Nat × Nat :=
  let hi : Int := if signed then (2 ^ (n - 1) : Nat) - 1 else (2 ^ n : Nat) - 1
  let lo : Int := if signed then -((2 ^ (n - 1) : Nat) : Int) else 0
  match f32 a with
  | .nan => (ofSigned n hi, 16)
  | .inf s => (ofSigned n (if s then lo else hi), 16)
  | .fin s m q =>
    let (k, inexact) := roundInt mode s m q
    let v : Int := if s then -(k : Int) else k
    if v < lo then (ofSigned n lo, 16) else if hi < v then (ofSigned n hi, 16) else (ofSigned n v, b2n inexact)

/-- FCVT from an integer. -/
def cvtFloat (mode : Rnd) (v : Int) : Nat × Nat := if v = 0 then (0, 0) else f32Round mode (v < 0) v.natAbs 0

/-- A floating-point operation: an integer or a floating-point result, and the flags.  The mode is not looked at by those
that do not round. -/
def fopRun (o : Fop) (mode : Rnd) (a b x : Nat) : (Bool × Nat) × Nat :=
  let f (r : Nat × Nat) (l : List Nat) : (Bool × Nat) × Nat := ((true, r.1), r.2 ||| snanFlag l)
  let i (v fl : Nat) : (Bool × Nat) × Nat := ((false, v), fl)
  let anyNan := if isNan32 a || isNan32 b then 16 else 0
  match o with
  | .add => f (addF mode (f32 a) (f32 b)) [a, b]
  | .sub => f (addF mode (f32 a) (f32 (if isNan32 b then b else negate32 b))) [a, b]
  | .mul => f (mulF mode (f32 a) (f32 b)) [a, b]
  | .div => f (divF mode (f32 a) (f32 b)) [a, b]
  | .sqrt => f (sqrtF mode (f32 a)) [a]
  | .sgnj => f (setBits a 31 1 (bits b 31 1), 0) []
  | .sgnjn => f (setBits a 31 1 (1 - bits b 31 1), 0) []
  | .sgnjx => f (setBits a 31 1 (bits a 31 1 + bits b 31 1), 0) []
  | .min => f (fminmax false a b, 0) [a, b]
  | .max => f (fminmax true a b, 0) [a, b]
  | .le => i (b2n (lt32 a b || eq32 a b)) anyNan
  | .lt => i (b2n (lt32 a b)) anyNan
  | .eq => i (b2n (eq32 a b)) (snanFlag [a, b])
  | .cls => i (fclass a) 0
  | .mvxw => i (sext 32 a) 0
  | .mvwx => f (x % 2 ^ 32, 0) []
  | .cvtW => let r := cvtInt mode 32 true a; i (sext 32 r.1) r.2
  | .cvtWU => let r := cvtInt mode 32 false a; i (sext 32 r.1) r.2
  | .cvtL => let r := cvtInt mode 64 true a; i r.1 r.2
  | .cvtLU => let r := cvtInt mode 64 false a; i r.1 r.2
  | .cvtSW => f (cvtFloat mode (toSigned 32 x)) []
  | .cvtSWU => f (cvtFloat mode ((x % 2 ^ 32 : Nat) : Int)) []
  | .cvtSL => f (cvtFloat mode (s64 x)) []
  | .cvtSLU => f (cvtFloat mode (x : Int)) []

/-- Does the operation look at its rounding mode? -/
def Fop.rounds : Fop → Bool
  | .add | .sub | .mul | .div | .sqrt | .cvtW | .cvtWU | .cvtL | .cvtLU | .cvtSW | .cvtSWU | .cvtSL | .cvtSLU => true
  | _ => false

/-- FMADD, FMSUB, FNMSUB, FNMADD. -/
def fmaRun (k : Nat) (mode : Rnd) (a b c : Nat) : Nat × Nat :=
  let na := if (k = 2 ∨ k = 3) ∧ ¬ isNan32 a then negate32 a else a
  let nc := if (k = 1 ∨ k = 3) ∧ ¬ isNan32 c then negate32 c else c
  let r := fmaF mode (f32 na) (f32 b) (f32 nc)
  (r.1, r.2 ||| snanFlag [a, b, c])

/-- Flags accrue in fcsr. -/
def Core.addFlags (x : Core) (fl : Nat) : Core := x.setCs csrFCSR (x.cs csrFCSR ||| fl)

/-- mstatus.FS becomes Dirty. -/
def Core.dirtyFs (x : Core) : Core := x.setCs csrMSTATUS (setBits (x.cs csrMSTATUS) 13 2 3)

def Core.fsOn (x : Core) : Bool := bits (x.cs csrMSTATUS) 13 2 != 0

/-! ### One instruction -/

/-- The instruction `raw` of `len` bytes at the pc is illegal (R191). -/
def Chan.illegalInstr (c : Chan) (h raw : Nat) : Chan := c.coreTrap h 2 raw

/-- An instruction ends with a change to the core. -/
def Chan.finish (c : Chan) (h len : Nat) (f : Core → Core) : Chan := c.onCore h (fun x => (f x).retire len)

/-- It ends with a jump. -/
def Chan.jump (c : Chan) (h target : Nat) (f : Core → Core) : Chan :=
  c.onCore h (fun x => { ((f x).retire 0) with pc := BitVec.ofNat 64 (target - target % 2) })

/-- Instructions of the core alone. -/
def Chan.runPlain (c : Chan) (h raw len : Nat) (i : Rv) : Chan :=
  let x := c.core h
  let pc := x.pc.toNat
  match i with
  | .lui rd imm => c.finish h len (fun x => x.xw rd imm)
  | .auipc rd imm => c.finish h len (fun x => x.xw rd ((pc + imm) % 2 ^ 64))
  | .jal rd imm => c.jump h ((pc + imm) % 2 ^ 64) (fun x => x.xw rd ((pc + len) % 2 ^ 64))
  | .jalr rd rs1 imm => c.jump h ((x.xr rs1 + imm) % 2 ^ 64) (fun x => x.xw rd ((pc + len) % 2 ^ 64))
  | .branch f3 rs1 rs2 imm =>
    if taken f3 (x.xr rs1) (x.xr rs2) then c.jump h ((pc + imm) % 2 ^ 64) id else c.finish h len id
  | .imm o w rd rs1 k => c.finish h len (fun x => x.xw rd (aluRun o w (x.xr rs1) k))
  | .op o w rd rs1 rs2 => c.finish h len (fun x => x.xw rd (aluRun o w (x.xr rs1) (x.xr rs2)))
  | .fence => c.finish h len id
  | .ecall => c.coreTrap h (if x.user then 8 else 11) 0
  | .ebreak => c.coreTrap h 3 0
  | .mret => if x.user then c.illegalInstr h raw else c.onCore h (fun x => (x.retire 0).mret)
  | .wfi => if x.user ∧ bit (x.cs csrMSTATUS) 21 then c.illegalInstr h raw else c.finish h len id
  | .csr f3 rd rs1 num =>
    let src := if 4 ≤ f3 then rs1 else x.xr rs1
    let write := f3 % 4 = 1 ∨ rs1 ≠ 0
    match c.csrRead h num with
    | some old =>
      if x.csrAllowed num write then
        let new := if f3 % 4 = 1 then src else if f3 % 4 = 2 then old ||| src else old - (old &&& src)
        let c := c.onCore h (fun x => x.retire len)
        let c := if write then c.csrWrite h num new else c
        c.onCore h (fun x => x.xw rd old)
      else c.illegalInstr h raw
    | none => c.illegalInstr h raw
  | .fma k rd rs1 rs2 rs3 rm =>
    match x.rnd rm with
    | some mode =>
      if x.fsOn then
        let r := fmaRun k mode (x.fr rs1) (x.fr rs2) (x.fr rs3)
        c.finish h len (fun x => ((x.fw rd r.1).addFlags r.2).dirtyFs)
      else c.illegalInstr h raw
    | none => c.illegalInstr h raw
  | .fop o rd rs1 rs2 rm =>
    let mode := if o.rounds then x.rnd rm else some .rne
    match mode with
    | some mode =>
      if x.fsOn then
        match fopRun o mode (x.fr rs1) (x.fr rs2) (x.xr rs1) with
        | ((true, v), fl) => c.finish h len (fun x => ((x.fw rd v).addFlags fl).dirtyFs)
        | ((false, v), fl) =>
          c.finish h len (fun x => let x := (x.xw rd v).addFlags fl; if fl = 0 then x else x.dirtyFs)
      else c.illegalInstr h raw
    | none => c.illegalInstr h raw
  | _ => c.illegalInstr h raw

/-- The outcome of an access ends the instruction, with its exception, or the core waits. -/
def MemRes.settle (r : MemRes) (h addr : Nat) (f : Nat → Chan → Chan) : Option Chan :=
  match r with
  | .val v c => some (f v c)
  | .trap cause c => some (c.coreTrap h cause addr)
  | .sent c => some c
  | .stall => none

/-- Loads. -/
def Chan.runLoad (c : Chan) (h raw len : Nat) (i : Rv) : Option Chan :=
  let x := c.core h
  match i with
  | .load f3 rd rs1 imm =>
    let g := (x.xr rs1 + imm) % 2 ^ 64
    let n := 2 ^ (f3 % 4)
    let signed := f3 < 4
    (c.coreRead h g n rd signed false).settle h g (fun v c => c.finish h len (fun x => x.loaded rd n signed false v))
  | .flw rd rs1 imm =>
    let g := (x.xr rs1 + imm) % 2 ^ 64
    if x.fsOn then
      (c.coreRead h g 4 rd false true).settle h g (fun v c => c.finish h len (fun x => x.loaded rd 4 false true v))
    else some (c.illegalInstr h raw)
  | _ => some c

/-- Stores. -/
def Chan.runStore (c : Chan) (h raw len : Nat) (i : Rv) : Option Chan :=
  let x := c.core h
  match i with
  | .store f3 rs1 rs2 imm =>
    let g := (x.xr rs1 + imm) % 2 ^ 64
    (c.coreWrite h g (leBytes (2 ^ f3) (x.xr rs2))).settle h g (fun _ c => c.finish h len id)
  | .fsw rs1 rs2 imm =>
    let g := (x.xr rs1 + imm) % 2 ^ 64
    if x.fsOn then (c.coreWrite h g (leBytes 4 (x.fr rs2))).settle h g (fun _ c => c.finish h len id)
    else some (c.illegalInstr h raw)
  | _ => some c

/-- Atomics.  One with its release bit set (bit 25) waits until the core's own stores are visible. -/
def Chan.runAmo (c : Chan) (h raw len : Nat) (i : Rv) : Option Chan :=
  let x := c.core h
  match i with
  | .amo f5 dw rd rs1 rs2 =>
    let g := x.xr rs1
    if bit raw 25 ∧ c.coreWaitsRemote h then none
    else (c.coreAtomic h f5 g (if dw then 8 else 4) rd (x.xr rs2)).settle h g (fun v c => c.finish h len (fun x => x.xw rd v))
  | _ => some c

/-! ### The rows -/

/-- May the core carry out an instruction now? -/
def Chan.hartRuns (c : Chan) (h : Nat) : Bool :=
  let x := c.core h
  c.computeOn && !x.waiting && !x.busy &&
  (if h < 4 then c.flag (SC_CTL.RUN h) else h == 4 && c.flag SVC_STAT.UP && !x.held)

/-- An instruction of a kind, when that is what stands at the pc: its encoding, length and decoding go to `f`, whose `none`
leaves the core waiting at it. -/
def Chan.hart (c : Chan) (h : Nat) (kind : Kind) (f : Chan → Nat → Nat → Rv → Option Chan) : Chan :=
  if !c.hartRuns h then c
  else
    match c.fetch h with
    | (.error a, c') => if kind = .other then c'.coreTrap h 1 a else c
    | (.ok (raw, len), c') =>
      let i := decodeRv raw
      if i.kind = kind then (f c' raw len i).getD c else c

def Chan.coreLoad (c : Chan) (h : Nat) : Chan := c.hart h .load (fun c raw len i => c.runLoad h raw len i)
def Chan.coreStore (c : Chan) (h : Nat) : Chan := c.hart h .store (fun c raw len i => c.runStore h raw len i)
def Chan.coreAmo (c : Chan) (h : Nat) : Chan := c.hart h .amo (fun c raw len i => c.runAmo h raw len i)
/-- A FENCE, whatever sets it names, waits until the core's own stores to FABRIC and HOST space are visible (DEDUCED,
notes/assumptions/144.md). -/
def Chan.coreInstruction (c : Chan) (h : Nat) : Chan :=
  c.hart h .other (fun c raw len i => if i = .fence ∧ c.coreWaitsRemote h then none else some (c.runPlain h raw len i))

/-- FENCE.I. -/
def Chan.runFenceI (c : Chan) (h : Nat) : Chan :=
  c.hart h .fenceI (fun c _ len _ => some (c.finish h len (fun x => { x with icache := [] })))

/-- The operands of a Xmiustan instruction. -/
def Core.xmArgs (x : Core) : Rv → Nat × Nat × Nat
  | .xm _ rd rs1 rs2 => (rd, x.xr rs1, x.xr rs2)
  | .cmo _ rs1 rs2 => (0, x.xr rs1, x.xr rs2)
  | _ => (0, 0, 0)

/-- R203: has everything earlier been made visible?  Write-backs and register stores are so at once. -/
def Chan.coreQuiet (c : Chan) (h : Nat) : Bool := !c.coreWaitsRemote h

/-- The command of a CMD.PUSH: its bytes, when they lie aligned and wholly in the TCM. -/
def Core.pushSource (x : Core) (g : Nat) : Option (List Byte) :=
  match regionOf g with
  | .tcm o =>
    if o % 64 ≠ 0 then none
    else
      let n := if bit (x.tcmRead (o + 1) 1) 0 then 256 else 64
      if o + n ≤ tcmSize then some (x.tcmBytes o n) else none
  | _ => none

/-- CMD.PUSH (R197). -/
def Chan.runPush (c : Chan) (h : Nat) : Chan :=
  c.hart h .cmdPush (fun c _ len i =>
    let x := c.core h
    let (rd, src, q) := x.xmArgs i
    let q := q % 256
    if !c.coreQuiet h then none
    else if !qidOk q then some (c.finish h len (fun x => x.xw rd 1))
    else if c.qDepth q = 0 then some (c.finish h len (fun x => x.xw rd 2))
    else
      match x.pushSource src with
      | none => some (c.finish h len (fun x => x.xw rd 3))
      | some raw =>
        if c.canAppend q raw then some ((c.append q raw none).finish h len (fun x => x.xw rd 0))
        else some ((c.push q raw none (some h) none).onCore h (fun x => { x with waiting := true })))

/-- TOK.ADD (R198). -/
def Chan.runTokAdd (c : Chan) (h : Nat) : Chan :=
  c.hart h .tokAdd (fun c _ len i =>
    let (_, a, b) := (c.core h).xmArgs i
    if c.coreQuiet h then some ((c.signal (a % 256) (b % 65536)).finish h len id) else none)

/-- TOK.WAIT begins (R199). -/
def Chan.runTokWait (c : Chan) (h : Nat) : Chan :=
  c.hart h .tokWait (fun c _ _ _ => some (c.onCore h (fun x => { x with waiting := true })))

/-- The instruction at which a core waits. -/
def Chan.waitingAt (c : Chan) (h : Nat) : Option Rv × Chan :=
  if (c.core h).waiting then
    match c.fetch h with
    | (.ok (raw, _), c) => (some (decodeRv raw), c)
    | (.error _, c) => (none, c)
  else (none, c)

/-- A waiting TOK.WAIT completes. -/
def Chan.tokWaitDone (c : Chan) (h : Nat) : Chan :=
  match c.waitingAt h with
  | (some i, c') =>
    let (rd, a, b) := (c.core h).xmArgs i
    if i.kind = .tokWait ∧ c.tokOk (a % 256) (b % 2 ^ 32) then
      c'.finish h 4 (fun x => { (x.xw rd (c.tokSeen (a % 256))) with waiting := false })
    else c
  | _ => c

/-- A core that waited in CMD.PUSH has appended its command. -/
def Chan.pushDone (c : Chan) (h : Nat) : Chan :=
  match c.waitingAt h with
  | (some i, c') => c'.finish h 4 (fun x => { (x.xw ((c.core h).xmArgs i).1 0) with waiting := false })
  | (none, c') => c'.onCore h (fun x => { x with waiting := false })

/-- SUM.RD (R201). -/
def Chan.runSumRd (c : Chan) (h : Nat) : Chan :=
  c.hart h .sumRd (fun c _ len i =>
    let (rd, a, _) := (c.core h).xmArgs i
    some (c.finish h len (fun x => x.xw rd (c.rd (VE_SUM.off (bits a 4 2) (bits a 0 4))))))

/-- EVT.RAISE (R202). -/
def Chan.runEvt (c : Chan) (h : Nat) : Chan :=
  c.hart h .evtRaise (fun c raw len i =>
    let (_, a, b) := (c.core h).xmArgs i
    let code := bits a 0 16
    let sev := bits a 16 2
    if code < 0x8000 ∨ sev = 3 then some (c.illegalInstr h raw)
    else if c.coreQuiet h then some ((c.ev (coreBlock h) code sev (det [(16, 8, b)])).finish h len id)
    else none)

/-- XFENCE (R203). -/
def Chan.runXfence (c : Chan) (h : Nat) : Chan :=
  c.hart h .xfence (fun c _ len _ => if c.coreQuiet h then some (c.finish h len id) else none)

/-- The lines on which a cache-maintenance operation acts (R205). -/
def Core.cmoLines (x : Core) (a n : Nat) : List Nat :=
  let all := x.dcache.map (·.1)
  if n = 0 then [] else if 32768 ≤ n then all
  else all.filter (fun l => overlaps (l * 64) 64 a n)

/-- A cache-maintenance operation: each line is changed by `f`. -/
def Chan.runCmo (c : Chan) (h : Nat) (kind : Kind) (f : Chan → Nat → Chan) : Chan :=
  c.hart h kind (fun c _ len i =>
    let (_, a, n) := (c.core h).xmArgs i
    some ((((c.core h).cmoLines a n).foldl f c).finish h len id))

/-- CMO.CLEAN, CMO.INV, CMO.FLUSH. -/
def Chan.runClean (c : Chan) (h : Nat) : Chan := c.runCmo h .cmoClean (fun c l => c.writeBack h l)
def Chan.runInv (c : Chan) (h : Nat) : Chan :=
  c.runCmo h .cmoInv (fun c l => c.onCore h (fun x => { x with dcache := terase l x.dcache }))
def Chan.runFlush (c : Chan) (h : Nat) : Chan := c.runCmo h .cmoFlush (fun c l => c.evict h l)

/-- CACHE_EVICTION: a dirty line is written back and leaves. -/
def Chan.cacheEviction (c : Chan) (h line : Nat) : Chan :=
  match tget? line (c.core h).dcache with
  | some (true, _) => if c.computeOn then c.evict h line else c
  | _ => c

/-- INTERRUPT: an enabled pending interrupt is taken, the external one first; a waiting instruction is abandoned (R200). -/
def Chan.interrupt (c : Chan) (h : Nat) : Chan :=
  let x := c.core h
  let on := c.computeOn && !x.busy && (if h < 4 then c.flag (SC_CTL.RUN h) else h == 4 && c.flag SVC_STAT.UP && !x.held)
  let p := c.mip h &&& x.cs csrMIE
  if !on ∨ !(x.user || bit (x.cs csrMSTATUS) 3) ∨ p = 0 then c
  else (c.dropWaiting h).takeTrap h true (if bit p 11 then 11 else 7) 0

end Sys2Proof.Machine
end

