-- ==== Sys2Proof/Machine/Respond.lean ====
section
/-!
DEFINITION. What the response, the error or the lack of a response does to a remote operation (R48, R54, R82, R355, R364, R366,
Table 13-8), and the completion of commands (R51, R71).
-/
namespace Sys2Proof.Machine

/-! ### Data and acknowledgements -/

/-- The instruction of a core whose remote access has ended is over. -/
def Chan.coreLoaded (c : Chan) (h rd n : Nat) (signed isFp : Bool) (data : List Byte) : Chan :=
  let r := c.fetch h
  let len := match r.1 with | .ok (_, l) => l | .error _ => 4
  r.2.onCore h (fun x => ({ x with busy := false } : Core).loaded rd n signed isFp (leAt data 0 n) |>.retire len)

/-- A DELIVER, UU_UPDATE or UU_DERIVE goes on once everything it fetches is there. -/
def Chan.gatherDone (c : Chan) (q seq : Nat) : Chan := if isUu q then c.uuGathered q seq else c.deliverGathered q seq

/-- A unit's operation is done: 1 CE, 2 buddy copy, 4 chart image, 6 to 8 the update unit. -/
def Chan.unitDone (c : Chan) (u a b : Nat) (data : List Byte) : Chan :=
  if u = 1 then c.ceAcked a b
  else if u = 2 then c.buddyAck a
  else if u = 4 then c.imageAcked a b
  else if u = 6 then c.uuData a b data
  else if u = 7 then c.uuWritten a b
  else if u = 8 then c.onBlk a (fun k => { k with st := 4 })
  else c

/-- An operation, already taken from the list, has been done. -/
def Chan.opDone (c : Chan) (o : Op) (data : List Byte) : Chan :=
  let c :=
    match o.cont with
    | .ack | .coreStore _ => c
    | .toMem a =>
      match c.store a data with
      | (false, c) => c
      | (true, c) => c.fail o.q o.cmd haltMEM 0
    | .toGlobal g => c.putGlobal o.q o.cmd g data
    | .gather off => (c.gatherPut o.q o.cmd off data).gatherDone o.q o.cmd
    | .result g => c.putGlobal o.q o.cmd g (data.take 8)
    | .core h rd n signed isFp => c.coreLoaded h rd n signed isFp data
    | .unit u a b => c.unitDone u a b data
  if o.q = 0xFF ∨ o.dead then c else c.part o.q o.cmd 1

/-! ### Errors -/

/-- The DETAIL of ADDR_FAULT: the address field of the command that the operation served. -/
def opDetail (o : Op) (raw : List Byte) : Nat :=
  match o.cont with
  | .gather off => if sideAt ≤ off then 48 else 24
  | .toMem _ | .toGlobal _ | .result _ => 24
  | _ => if opcodeOf raw = 0x22 then 48 else 32

/-- The command of an operation fails (R82). -/
def Chan.cmdFailed (c : Chan) (o : Op) (code : Nat) : Chan :=
  match (c.queue o.q).cmd? o.cmd with
  | some h => c.fail o.q o.cmd code (if code = haltADDR then opDetail o h.raw else 0)
  | none => c

/-- The global address of an operation. -/
def Op.global (o : Op) : Nat := if o.host then 2 ^ 63 + o.pkt.addr else o.pkt.addr

/-- An operation, already taken from the list, has failed with a halt code. -/
def Chan.opFailed (c : Chan) (o : Op) (code : Nat) : Chan :=
  match o.cont with
  | .core h _ _ _ _ =>
    (c.onCore h (fun x => { x with busy := false })).coreTrap h (if o.pkt.ptype = pATOMIC then 7 else 5) o.global
  | .coreStore _ => c
  | .unit u a b =>
    if u = 1 then c.ceFailed a b code
    else if u = 2 then c.buddyLost a
    else if u = 4 then c.imageFailed a b
    else c.cmdFailed o code
  | _ => if o.q = 0xFF ∨ o.dead then c else c.cmdFailed o code

/-! ### Responses (R355, R366) -/

/-- A response that arrives: late, of data, or of an error. -/
def Chan.response (c : Chan) (k : Pkt) : Chan :=
  match c.opOf k.tid false with
  | none => c.count CS_CNT_LATE.COUNT 1
  | some o =>
    let c := c.opGone k.tid false
    if k.ptype = pERROR_RESP then c.opFailed o (haltOfErr k.err) else c.opDone o k.data

/-- The oldest packet of a port's virtual channel, when it is a response of a type. -/
def Chan.takeResponse (c : Chan) (p vc ptype : Nat) : Chan := c.takePkt p vc (isType ptype) Chan.response

/-- RESP_TIMEOUT. -/
def Chan.respTimeout (c : Chan) (tid : Nat) : Chan :=
  match c.opOf tid false with
  | none => c
  | some o =>
    if c.now < o.sent + c.gf CS_TO.RESP_TIMEOUT_US * tUs then c
    else
      let c := ((c.opGone tid false).count CS_CNT_TIMEOUT.COUNT 1).sf CS_STAT.TIMEOUT 1
      let c := c.evLim 5 100 0x09 0xB8 2 (det [(16, 3, o.pkt.dst), (19, 2, tid), (21, 1, o.pkt.ptype)])
      c.opFailed o haltREMOTE

/-- A host access is done. -/
def Chan.hostDone (c : Chan) (tid : Nat) (data : List Byte) : Chan :=
  match c.opOf tid true with
  | some o => (c.opGone tid true).opDone o data
  | none => c

/-- A host access is refused or lost (R48). -/
def Chan.hostFailed (c : Chan) (tid : Nat) : Chan :=
  match c.opOf tid true with
  | some o => (c.opGone tid true).opFailed o haltHOST
  | none => c

/-- Every host access of a channel whose UCIe link is down (R473). -/
def Chan.hostAllFailed (c : Chan) : Chan :=
  ((c.ops.filter (·.host)).map (·.tid)).foldl Chan.hostFailed c.hostOpsLost

/-! ### Completion of commands (R51, R71) -/

/-- May the started command complete: its parts are done, its time has passed, and its unit's own condition holds? -/
def Chan.cmdMayEnd (c : Chan) (q : Nat) (h : Started) : Bool :=
  let op := opcodeOf h.raw
  h.st == .running && h.out == 0 && decide (h.ready ≤ c.now) && !isCe q && !c.phased q h.seq &&
  (!isVe q || c.veMayEnd q h.seq) && (!(isTe q && op == 0x23) || c.fenceMayEnd q h.seq) &&
  (!(isUu q && op == 0x40) || c.uuMayEnd h.seq)

/-- COMMAND_COMPLETE: the `i`-th started command of the queue. -/
def Chan.commandComplete (c : Chan) (q i : Nat) : Chan :=
  match (c.queue q).started[i]? with
  | none => c
  | some h =>
    if !c.cmdMayEnd q h then c
    else
      let c :=
        if isMe q then c.meDone q h.seq
        else if isVe q then c.veDone q h.seq
        else if isUu q ∧ opcodeOf h.raw = 0x40 then c.uuDone h.seq
        else c
      c.complete q h.seq

/-- QUEUE_APPEND: the producer waiting at place `i`; a core that waited in CMD.PUSH goes on. -/
def Chan.queueAppend (c : Chan) (i : Nat) : Chan :=
  match c.waiting[i]? with
  | none => c
  | some w =>
    let n := c.waiting.length
    let c := c.appendWaiting i
    match w.core with
    | some h => if c.waiting.length < n then c.pushDone h else c
    | none => c

end Sys2Proof.Machine
end

