-- ==== Sys2Proof/Machine/HostLink.lean ====
section
/-!
DEFINITION. The link to the host (R421 to R426, R437, R438, R441 to R446): host-bound writes and reads in the host-port die,
MSI-X, link loss and link up, and the host's configuration writes.
-/
namespace Sys2Proof.Machine

/-- Every channel by number. -/
def allCh : List (Fin 4) := [0, 1, 2, 3]

/-! ### Host-bound writes and reads (R437, R438) -/

/-- The outbound buffer's size. -/
def outbMax : Nat := 0x200000

/-- Bytes of the buffer in use. -/
def Hpd.outbFill (h : Hpd) : Nat := h.outb.foldl (fun n w => n + w.bytes.length) 0

/-- Writes of a channel waiting in the die. -/
def Hpd.inqOf (h : Hpd) (n : Nat) : List HostWr := tget (fun _ => []) h.inq n
def Hpd.setInq (h : Hpd) (n : Nat) (l : List HostWr) : Hpd := (h.withInq (tput (fun _ => []) h.inq n l))

/-- The next channel, round robin, that has a write waiting. -/
def Hpd.nextIn (h : Hpd) : Option (Fin 4) :=
  ([1, 2, 3, 4].map (fun k => finOf (h.lastIn + k))).find? (fun n => !(h.inqOf n.val).isEmpty)

/-- Bytes of the next PCIe memory write of a host-bound write. -/
def Hpd.partLen (h : Hpd) (w : HostWr) : Nat := min (min w.bytes.length h.mps) (4096 - w.addr % 4096)

/-- HOST_WRITE_ACCEPT: one PCIe memory write enters the outbound buffer; with the last the host-bound write is complete. -/
def State.hostWriteAccept (s : State) : State :=
  if !s.hpd.hostOpen then s
  else
    match s.hpd.nextIn with
    | none => s
    | some n =>
      match s.hpd.inqOf n.val with
      | [] => s
      | w :: r =>
        let k := s.hpd.partLen w
        if outbMax < s.hpd.outbFill + k then s
        else
          let c := (s.chan n).count HPC_HWSEQ.LAST 1
          let part : HostWr := { w with bytes := w.bytes.take k, seq := c.gf HPC_HWSEQ.LAST }
          let rest : HostWr := { w with addr := w.addr + k, bytes := w.bytes.drop k }
          let last := w.bytes.length ≤ k
          let h := s.hpd.setInq n.val (if last then r else rest :: r)
          let c := if last then c.hostDone w.tid [] else c
          { (s.setChan n c) with hpd := ((h.withOutb (h.outb ++ [part])).withLastIn n.val) }

/-- HOST_READ_COMPLETION: data of the outstanding read at place `i`. -/
def State.hostReadDone (s : State) (i : Nat) (data : List Byte) : State :=
  match s.hpd.reads[i]? with
  | none => s
  | some r =>
    if !s.hpd.flag HP_LINK.UP ∨ data.length ≠ r.len then s
    else
      let s := s.onHpd (fun h => (h.withReads (h.reads.eraseIdx i)))
      s.onChan (finOf r.chan) (fun c => c.hostDone r.tid data)

/-! ### Link loss (R442 to R444) -/

/-- A host log entry (Table 16-9). -/
def hlogEntry (first last addr n block unit cause kind epoch : Nat) : List Byte :=
  leBytes 4 first ++ leBytes 4 last ++ leBytes 8 addr ++ leBytes 4 (min n 0xFFFFFFFF) ++ leBytes 1 block ++ leBytes 1 unit ++
  leBytes 1 cause ++ leBytes 1 kind ++ leBytes 4 epoch ++ leBytes 4 0

/-- A run of dropped writes: the first write, its last sequence number and the bytes. -/
structure DropRun where
  head : HostWr
  last : Nat
  n : Nat
  deriving DecidableEq, Repr

/-- Dropped writes of one channel, in order, joined into runs of one source with consecutive numbers and contiguous addresses.-/
def dropRuns : List HostWr → List DropRun
  | [] => []
  | w :: r =>
    let one : DropRun := { head := w, last := w.seq, n := w.bytes.length }
    match dropRuns r with
    | [] => [one]
    | d :: ds =>
      if d.head.block = w.block ∧ d.head.unit = w.unit ∧ d.head.seq = (w.seq + 1) % 2 ^ 32 ∧
          d.head.addr = w.addr + w.bytes.length then
        { head := w, last := d.last, n := w.bytes.length + d.n } :: ds
      else one :: d :: ds

/-- Order 3: the channel's unacknowledged writes are dropped, counted and logged. -/
def Chan.writesDropped (c : Chan) (ws : List HostWr) (cause epoch : Nat) : Chan :=
  (dropRuns ws).foldl (fun c d =>
    c.hlogAdd (hlogEntry d.head.seq d.last d.head.addr d.n d.head.block d.head.unit cause 0 epoch))
    (c.count HPC_CNT_DROPPED.COUNT ws.length)

/-- A host queue halted by a failure of its head command, which still stands there (R89, R442). -/
def Chan.hqKeeps (c : Chan) : Bool :=
  let x := c.queue 0x80
  let code := c.gf (Q_ERR.CODE 0x80)
  x.st == .halted && (x.failed?.isSome || x.next?.isSome) &&
    !(code == 0 || code == haltHALT_REQUESTED || code == haltDRAINED || code == haltFENCED || code == 0x10)

/-- Order 5: the started command ends, the rest is discarded and logged, and the queue halts with LINK_RESET unless a failed
head keeps its code. -/
def Chan.hqLinkLost (c : Chan) (cause epoch : Nat) : Chan :=
  if c.qDepth 0x80 = 0 then c
  else
    let c := (c.queue 0x80).started.foldl (fun c h => if h.st = .running ∧ h.out = 0 then c.complete 0x80 h.seq else c) c
    let c := (c.withWaiting (c.waiting.filter (fun w => w.fwd.isNone)))
    let head := c.hqHead
    let tail := c.gf HPC_HQ_CNT.TAIL_CNT
    let keeps := c.hqKeeps
    let c := if head = tail then c else
      c.hlogAdd (hlogEntry head ((tail + c.hqW - 1) % c.hqW) 0 0 0x20 (0x80 + c.num) cause 1 epoch)
    let c := (c.sf HPC_HQ_CNT.TAIL_CNT head).onQueue 0x80 (fun x =>
      { x with ents := [], started := [], tail := head, wait := none })
    if keeps then c else c.haltQuiet 0x80 0x10

/-- Orders 1 to 6 for one channel. -/
def Chan.hostLost (c : Chan) (ws : List HostWr) (cause epoch : Nat) : Chan :=
  let c := (c.withHostUp false)
  let c := if c.reach then c.hpdEv 0x20 0xE0 2 (det [(16, 1, cause), (17, 4, epoch)]) else c
  let c := c.writesDropped ws cause epoch
  let c := c.hostAllFailed
  let c := c.hqLinkLost cause epoch
  let c := (((c.sf HPC_WIN.BASE 0).sf HPC_STAT.MB_H2D_BUSY 0).withMbWait false)
  (c.wr HP_MB_D2H.off 0).wr HP_MB_H2D.off 0

/-- Table 16-8 in the host-port die. -/
def Hpd.hostReset (h : Hpd) : Hpd :=
  let h := ((((h.sf HP_LINK.CXL 0).sf HP_LINK.BME 0).sf HP_LINK.WIDTH 0).sf HP_LINK.SPEED 0)
  let h := ((((h.withCxlMem false).withMrrs 512).withD3 false).withAer 0).withHostAns none
  ((((((((((h.withInq []).withOutb []).withReads []).withH2d []).withD2h []).withH2dMsg []).withHdm []).withMsix []).withMask (2 ^ 64 - 1)).withMps 128)

/-- HOST_LINK_LOST, with a cause of Table 16-9. -/
def State.hostLinkLost (s : State) (cause : Nat) : State :=
  if !s.hpd.flag HP_LINK.UP ∨ cause < 1 ∨ 6 < cause then s
  else
    let h := (s.hpd.sf HP_LINK.UP 0).count HP_LINK.EPOCH 1
    let epoch := h.gf HP_LINK.EPOCH
    let s := allCh.foldl (fun s n =>
      s.onChan n (fun c => c.hostLost (h.outb.filter (fun w => w.chan == n.val)) cause epoch)) s
    { s with hpd := h.hostReset }

/-- HOST_LINK_UP: lanes, rate code and whether CXL was negotiated. -/
def State.hostLinkUp (s : State) (cxl : Bool) (width speed : Nat) : State :=
  if !s.hpd.good ∨ s.hpd.flag HP_LINK.UP ∨ ¬ (width = 4 ∨ width = 8 ∨ width = 16) ∨ speed < 3 ∨ 5 < speed then s
  else
    let h := (((s.hpd.sf HP_LINK.UP 1).sf HP_LINK.CXL (b2n cxl)).sf HP_LINK.WIDTH width).sf HP_LINK.SPEED speed
    let h := h.sf HP_VER.DECODERS (if cxl then 4 else 0)
    let s := allCh.foldl (fun s n =>
      s.onChan n (fun c => ((c.withHostUp true) : Chan).hpdEv 0x20 0xE1 0
        (det [(16, 1, width), (17, 1, speed), (18, 1, b2n cxl)]))) s
    { s with hpd := h }

/-! ### Configuration writes (R424, R427, R446) -/

/-- HOST_CONFIGURATION_WRITE. -/
def Hpd.configWrite (h : Hpd) (w : CfgWrite) : Hpd :=
  if !h.flag HP_LINK.UP then h
  else
    match w with
    | .hdm i base size ways commit lock =>
      if h.flag HP_LINK.CXL ∧ i < 4 ∧ ¬ ((h.decoder i).lock ∧ (h.decoder i).commit) then
        let d : Hdm := { base := base, size := size, ways := ways, commit := commit && size == 2 ^ 36 && ways == 1, lock := lock }
        (h.withHdm (tput (fun _ => {}) h.hdm i d))
      else h
    | .bme on => (h.sf HP_LINK.BME (b2n on)).flushMsix
    | .mask v m => if v < 64 then ((h.withMask (setBits h.mask v 1 (b2n m))) : Hpd).flushMsix else h
    | .entry v addr data => if v < 64 then (h.withMsix (tput (fun _ => (0, 0)) h.msix v (addr, data))) else h
    | .mps n => if n = 128 ∨ n = 256 ∨ n = 512 then (h.withMps n) else h
    | .memEnable on => if h.flag HP_LINK.CXL then h.withCxlMem on else h
    | .mrrs n => if n = 128 ∨ n = 256 ∨ n = 512 ∨ n = 1024 ∨ n = 2048 ∨ n = 4096 then h.withMrrs n else h
    | .power d3 => h.withD3 d3
    | .aerClear m => h.withAer (h.aer &&& (2 ^ 32 - 1 - m % 2 ^ 32))

/-! ### CXL.mem without data and the memory-device mailbox (Table 16-1) -/

/-- MemInv, MemInvNT: answered Cmp without action, when the window is active. -/
def Hpd.memInv (h : Hpd) (off : Nat) : Hpd := if h.winOn (off / 2 ^ 36) then h.withHostAns (some .cmp) else h

/-- The UUID of the Command Effects Log, as CXL gives it (PRESUMED, notes/assumptions/125.md). -/
def effectsLog : List Byte :=
  [0x0D, 0xA9, 0xC0, 0xB5, 0xBF, 0x41, 0x4B, 0x78, 0x8F, 0x79, 0x96, 0xB1, 0x62, 0x3B, 0x3F, 0x17]

/-- A command of the memory-device mailbox is one of the four that the function supports: Identify Memory Device, Get Supported
Logs, Get Log of the Command Effects Log, Get Health Info (opcodes of CXL: PRESUMED, notes/assumptions/125.md). -/
def memCmdKnown (op : Nat) (input : List Byte) : Bool :=
  op == 0x4000 || op == 0x0400 || op == 0x4200 || (op == 0x0401 && input.take 16 == effectsLog)

/-- A command of the memory-device mailbox is answered: Success with a payload whose contents the manual leaves to CXL (free
value), or Unsupported. -/
def Hpd.memCmd (h : Hpd) (op : Nat) (input : List Byte) : Hpd :=
  if !h.flag HP_LINK.UP || !h.flag HP_LINK.CXL then h
  else if memCmdKnown op input then
    let (n, h) := h.free
    h.withHostAns (some (.mbox 0 (Config.memDevice op n)))
  else h.withHostAns (some (.mbox 0x15 []))

/-! ### Windows (R427, R428) -/

/-- An access at offset `off` of the module's four decoders (64 GiB each), when its window is active. -/
def State.windowAt (s : State) (off : Nat) : Option (Fin 4 × Nat) :=
  let n := off / 2 ^ 36
  if n < 4 ∧ s.hpd.winOn n then some (finOf n, off % 2 ^ 36) else none

/-- HOST_WINDOW_READ: data or poison, as the host sees them. -/
def State.windowRead (s : State) (off len : Nat) : State :=
  match s.windowAt off with
  | none => s
  | some (n, o) =>
    let (tell, h) := s.hpd.winTell (s.chan n) o len
    let (r, c) := (s.chan n).winRead o len tell
    { (s.setChan n c) with hpd := (h.withWinRd (some r)) }

/-- HOST_WINDOW_WRITE. -/
def State.windowWrite (s : State) (off : Nat) (data : List Byte) : State :=
  match s.windowAt off with
  | none => s
  | some (n, o) =>
    let (tell, h) := s.hpd.winTell (s.chan n) o data.length
    { (s.onChan n (fun c => c.winWrite o data tell)) with hpd := h }

end Sys2Proof.Machine
end

