-- ==== Sys2Proof/Machine/Monitor.lean ====
section
/-!
DEFINITION. The monitor and telemetry over SMBus (R546 to R552): requests from the management UART and from host mailboxes,
their answers, sensors, and the MCTP messages.
-/
namespace Sys2Proof.Machine

/-! ### Text -/

/-- The ASCII characters of a text. -/
def ascii (s : String) : List Byte := s.toList.map (fun ch => BitVec.ofNat 8 ch.toNat)

def hexDigit (n : Nat) : Byte := BitVec.ofNat 8 (if n < 10 then 48 + n else 55 + n)

/-- The low `n` hexadecimal digits of a number, most significant first. -/
def hexDigits : Nat → Nat → List Byte
  | 0, _ => []
  | n + 1, v => hexDigit (v / 16 ^ n % 16) :: hexDigits n v

/-- A number as the monitor writes it: 0x and groups of four digits. -/
def hexText (groups v : Nat) : List Byte :=
  ascii "0x" ++ ((List.range groups).map (fun i =>
    (if i = 0 then [] else ascii "_") ++ hexDigits 4 (v / 65536 ^ (groups - 1 - i)))).flatten

/-- The bytes of a record, byte 0 first. -/
def hexBytes (bs : List Byte) : List Byte := (bs.map (fun b => hexDigits 2 b.toNat)).flatten

/-- The words of a line. -/
def wordsOf : List Byte → List (List Byte)
  | [] => [[]]
  | b :: r =>
    match wordsOf r with
    | [] => [[b]]
    | w :: ws => if b = 32 then [] :: w :: ws else (b :: w) :: ws

/-- The value of a hexadecimal digit. -/
def digitVal (b : Byte) : Option Nat :=
  let n := b.toNat
  if 48 ≤ n ∧ n ≤ 57 then some (n - 48)
  else if 65 ≤ n ∧ n ≤ 70 then some (n - 55)
  else if 97 ≤ n ∧ n ≤ 102 then some (n - 87)
  else none

/-- Hexadecimal digits, with underscores passed over. -/
def digitsVal : List Byte → Nat → Option Nat
  | [], v => some v
  | b :: r, v =>
    if b = 95 then digitsVal r v
    else match digitVal b with | some d => digitsVal r (16 * v + d) | none => none

/-- A number of a request: hexadecimal, with or without 0x, of at most 64 bits. -/
def numberOf (w : List Byte) : Option Nat :=
  let d := if w.take 2 = ascii "0x" then w.drop 2 else w
  if d.all (fun b => b == 95) then none
  else match digitsVal d 0 with | some v => if v < 2 ^ 64 then some v else none | none => none

/-- A target: 0 to 3 a channel, 4 the host-port die, 5 the non-volatile store. -/
def targetOf (w : List Byte) : Option Nat :=
  if w = ascii "c0" then some 0
  else if w = ascii "c1" then some 1
  else if w = ascii "c2" then some 2
  else if w = ascii "c3" then some 3
  else if w = ascii "h" then some 4
  else if w = ascii "hv" then some 5
  else none

/-! ### Requests (Table 21-2) -/

inductive MonReq where
  | id
  | rd (t off : Nat)
  | wr (t off v : Nat)
  | log (t i n : Nat)
  | sens
  | pwr
  | pwrOn (t : Nat)
  | pwrOff (t : Nat)
  | baud (r : Nat)
  | svcHalt (t : Nat)
  | svcRun (t : Nat)
  | svcReg (t n : Nat)
  deriving DecidableEq, Repr

/-- Are the operands within what Table 21-2 gives the request? -/
def MonReq.ok : MonReq → Bool
  | .id | .sens | .pwr => true
  | .rd t _ | .wr t _ _ => t ≤ 4
  | .log t i n => t ≤ 5 && 1 ≤ n && n ≤ 64 && i < 2 ^ 32
  | .pwrOn t | .pwrOff t | .svcHalt t | .svcRun t => t < 4
  | .svcReg t n => t < 4 && n ≤ 32
  | .baud r => r ≤ 5

/-- The request that the words of a line spell. -/
def parseWords (ws : List (List Byte)) : Option MonReq :=
  match ws with
  | [a] => if a = ascii "ID" then some .id else if a = ascii "SENS" then some .sens else if a = ascii "PWR" then some .pwr else none
  | [a, b] => if a = ascii "BAUD" then (numberOf b).map .baud else none
  | [a, t, x] =>
    match targetOf t with
    | none => none
    | some t =>
      if a = ascii "RD" then (numberOf x).map (.rd t)
      else if a = ascii "PWR" then if x = ascii "ON" then some (.pwrOn t) else if x = ascii "OFF" then some (.pwrOff t) else none
      else if a = ascii "SVC" then
        if x = ascii "HALT" then some (.svcHalt t) else if x = ascii "RUN" then some (.svcRun t) else none
      else none
  | [a, t, x, y] =>
    match targetOf t with
    | none => none
    | some t =>
      if a = ascii "SVC" then if x = ascii "REG" then (numberOf y).map (.svcReg t) else none
      else
        match numberOf x, numberOf y with
        | some x, some y => if a = ascii "WR" then some (.wr t x y) else if a = ascii "LOG" then some (.log t x y) else none
        | _, _ => none
  | _ => none

/-- The characters before CR LF; none where a line does not end so. -/
def lineOf : List Byte → Option (List Byte)
  | 13 :: 10 :: _ => some []
  | b :: r => (lineOf r).map (b :: ·)
  | [] => none

/-- The request of a line of at most 256 characters. -/
def parseLine (bs : List Byte) : Option MonReq :=
  match lineOf (bs.take 256) with
  | none => none
  | some l =>
    match parseWords (wordsOf l) with
    | some r => if r.ok then some r else none
    | none => none

/-! ### Answers -/

/-- An answer: OK with the rest of its line and the data lines, or an error code of Table 21-4. -/
inductive MonAns where
  | ok (rest : List Byte) (lines : List (List Byte))
  | err (code : Nat)
  deriving DecidableEq, Repr

def ansOK : MonAns := .ok [] []

/-- Names of Table 21-4. -/
def errName (code : Nat) : List Byte :=
  ascii (match code with
    | 1 => "SYNTAX" | 2 => "POLICY" | 3 => "UNREACHABLE" | 4 => "ALIGN" | 5 => "STATE" | _ => "OVERRUN")

/-- The lines of an answer. -/
def MonAns.lines : MonAns → List (List Byte)
  | .ok rest ls => (ascii "OK" ++ (if rest = [] then [] else ascii " " ++ rest)) :: ls
  | .err code => [ascii "ERR " ++ hexDigits 2 code ++ ascii " " ++ errName code]

/-! ### Sensors (Table 21-5) -/

/-- A sensor by id: value and VALID. -/
def State.sensor (s : State) (id : Nat) : Nat × Bool :=
  if id < 0x200 then (ofSigned 32 (nth 0 s.hpd.sens (id - 0x80)), decide (id - 0x80 < s.hpd.sens.length))
  else
    let c := s.chan (finOf ((id - 0x200) / 32))
    let n := (id - 0x200) % 32
    let on := c.regReach && c.ucUp
    if n < 26 then (ofSigned 32 (c.temp n), on && c.tempValid n)
    else if n = 26 then (ofSigned 32 (toSigned 16 (c.gf HR_THERM.T_BASE)), on)
    else if n = 27 then (c.gf HR_THERM.DUTY, on)
    else if n = 28 then (c.gf HR_ENV.VIN, on)
    else if n = 29 then (c.gf HR_ENV.IIN, on)
    else if n = 30 then (ofSigned 32 (toSigned 16 (c.gf HR_ENV.T_IN)), on)
    else (c.gf HR_ENV.FLOW, on)

/-- Every sensor's id. -/
def sensorIds : List Nat := (List.range 4).map (0x80 + ·) ++ (List.range 128).map (0x200 + ·)

/-! ### Records (R544, R546) -/

/-- Records `i` to `i + n − 1` of a target. -/
def State.records (s : State) (t i n : Nat) : List (Option EvRec) :=
  (List.range n).map (fun k =>
    if t < 4 then (s.chan (finOf t)).logAt (i + k) else if t = 4 then s.hpd.logAt (i + k) else s.hpd.nvAt (i + k))

/-! ### What a request does (R547 to R550) -/

/-- MON_REFUSED, and the answer POLICY. -/
def State.monRefused (s : State) (t off : Nat) : MonAns × State := (.err 2, s.monRefusal t off)

/-- The answer to a write with the code of what kept it from being performed. -/
def codeAns (k : Nat) : MonAns := if k = 0 then ansOK else .err k

/-- ID: the serial, the stepping, SYL_HDR and each channel's firmware version. -/
def State.monId (s : State) : MonAns × State :=
  (.ok [] (([s.hpd.regRead SEC_SERIAL.off, (s.chan 0).gf CH_ID.STEPPING, s.hpd.regRead SYL_HDR.off] ++
    (List.range 4).map (fun n => if s.monFar n then 0 else (s.chan (finOf n)).regRead SVC_STAT.off % 2 ^ 32)).map (hexText 4)), s)

/-- RD. -/
def State.monRd (s : State) (t off : Nat) : MonAns × State :=
  if !monAligned t off then (.err 4, s)
  else if s.monFar t then (.err 3, s)
  else (.ok (hexText 4 (if t < 4 then (s.chan (finOf t)).regRead off else s.bar0Read off)) [], s)

/-- WR. -/
def State.monWr (s : State) (src : MonSrc) (t off v : Nat) : MonAns × State :=
  match src with
  | .uart => let r := s.monPut t off v; (codeAns r.1, r.2)
  | .mailbox =>
    let k := s.monBar (if t < 4 then s.hpd.hostMayChan off else s.hpd.hostMayHpd off v) t off
    (codeAns k,
      if k = 2 then s.monRefusal t off
      else if k ≠ 0 then s
      else if t < 4 then s.onChan (finOf t) (fun c => c.regBy .host off v)
      else s.bar0Write .host off v)

/-- LOG. -/
def State.monLog (s : State) (t i n : Nat) : MonAns × State :=
  if s.monFar t then (.err 3, s)
  else
    (.ok [] ((s.records t i n).map (fun r => match r with | some e => hexBytes e.bytes | none => ascii "NONE")), s)

/-- SENS: id, value and VALID. -/
def State.monSens (s : State) : MonAns × State :=
  (.ok [] (sensorIds.map (fun id =>
    let v := s.sensor id
    hexText 1 id ++ ascii " " ++ hexText 2 v.1 ++ ascii (if v.2 then " 1" else " 0"))), s)

/-- PWR; from the host it needs HOST_RECOV, as every PWR request does (R550). -/
def State.monPwr (s : State) (src : MonSrc) : MonAns × State :=
  if src = .mailbox ∧ !s.hpd.may 2 then s.monRefused 4 0
  else (.ok [] ((List.range 4).map (fun n =>
    ascii "c" ++ [hexDigit n] ++ ascii (if bit (s.hpd.gf MG_STAT.CH_POWER) n then " ON" else " OFF"))), s)

/-- PWR t ON. -/
def State.monPwrOn (s : State) (src : MonSrc) (t : Nat) : MonAns × State :=
  if src = .mailbox ∧ !s.hpd.may 2 then s.monRefused 4 MG_PWR_CTL.off
  else if (s.chan (finOf t)).gf HR_PSTATE.CUR = 4 then (ansOK, s.chanOn (finOf t))
  else (.err 5, s)

/-- PWR t OFF: a write of HR_PSTATE.REQ = OFF, which the monitor may make under MON_WRITE alone (Table 21-2). -/
def State.monPwrOff (s : State) (src : MonSrc) (t : Nat) : MonAns × State :=
  let c := s.chan (finOf t)
  let may := match src with
    | .uart => s.hpd.may 4
    | .mailbox => s.hpd.may 2
  if !may then s.monRefused t HR_PSTATE.off
  else if s.monFar t then (.err 3, s)
  else
    let no := c.ptrans.isSome || (c.pstateFault (c.gf HR_PSTATE.CUR) 4).isSome
    (if no then .err 5 else ansOK, match src with
      | .uart => s.monWrite t HR_PSTATE.off 4
      | .mailbox => s.onChan (finOf t) (fun c => c.regBy .host HR_PSTATE.off 4))

/-- BAUD. -/
def State.monBaud (s : State) (r : Nat) : MonAns × State := (ansOK, s.onHpd (fun h => h.sf MG_STAT.BAUD r))

/-- The checks of an SVC request: permission and reach. -/
def State.monSvc (s : State) (src : MonSrc) (t : Nat) (f : State → MonAns × State) : MonAns × State :=
  if src = .mailbox ∨ !bit (s.hpd.gf SEC_STAT.DEBUG) 0 then s.monRefused t 0
  else if s.monFar t then (.err 3, s)
  else f s

/-- SVC t HALT and SVC t RUN. -/
def State.monHold (s : State) (src : MonSrc) (t : Nat) (on : Bool) : MonAns × State :=
  s.monSvc src t (fun s => (ansOK, s.onChan (finOf t) (fun c => c.onCore 4 (fun x => { x with held := on }))))

/-- SVC t REG n: x0 to x31, or the pc. -/
def State.monReg (s : State) (src : MonSrc) (t n : Nat) : MonAns × State :=
  s.monSvc src t (fun s =>
    let x := (s.chan (finOf t)).core 4
    (.ok (hexText 4 (if n = 32 then x.pc.toNat else x.xr n)) [], s))

/-- A request is carried out. -/
def State.monDo (s : State) (src : MonSrc) (q : MonReq) : MonAns × State :=
  match q with
  | .id => s.monId
  | .rd t off => s.monRd t off
  | .wr t off v => s.monWr src t off v
  | .log t i n => s.monLog t i n
  | .sens => s.monSens
  | .pwr => s.monPwr src
  | .pwrOn t => s.monPwrOn src t
  | .pwrOff t => s.monPwrOff src t
  | .baud r => s.monBaud r
  | .svcHalt t => s.monHold src t true
  | .svcRun t => s.monHold src t false
  | .svcReg t n => s.monReg src t n

/-- The answer goes back over the UART. -/
def State.uartSay (s : State) (a : MonAns) : State := s.onHpd (fun h => (h.withUart (h.uart ++ a.lines)))

/-- The answer goes back as MON_RESP, as far as the area holds it. -/
def Chan.monResp (c : Chan) (a : MonAns) : Chan :=
  c.mbSend ((leBytes 2 0x0202 ++ leBytes 6 0 ++ (a.lines.map (· ++ [13, 10])).flatten).take 4096)

/-- The line of the MON_REQ that waits in channel `n`'s area, when its service core can take it. -/
def State.mailLine (s : State) (n : Fin 4) : Option (List Byte) :=
  match mbMessage (s.chan n) s.hpd with
  | some (_, m) =>
    if leAt m 0 2 = 0x0201 ∧ (s.chan n).flag SVC_STAT.UP ∧ (s.chan n).ucUp then some (m.drop 8) else none
  | none => none

/-- A mailbox message is taken, carried out and answered. -/
def State.mailRun (s : State) (n : Fin 4) (l : List Byte) : State :=
  let s := s.onChan n Chan.mbTaken
  match parseLine l with
  | some q =>
    let (a, s) := s.monDo .mailbox q
    s.onChan n (fun c => c.monResp a)
  | none => s.onChan n (fun c => c.monResp (.err 1))

/-- MON_REQ. -/
def State.monMail (s : State) (n : Fin 4) : State :=
  match s.mailLine n with
  | some l => if s.hpd.good then s.mailRun n l else s
  | none => s

/-- One request, from the UART or as the message that waits in the channel's mailbox area. -/
def State.monRun (s : State) (n : Fin 4) (src : MonSrc) (q : MonReq) : State :=
  if !s.hpd.good then s
  else
    match src with
    | .uart =>
      if q.ok then
        let (a, s) := s.monDo .uart q
        s.uartSay a
      else s.uartSay (.err 1)
    | .mailbox =>
      match s.mailLine n with
      | some l => if parseLine l = some q then s.mailRun n l else s
      | none => s

/-- MONITOR_SYNTAX: a line that is no request, or the first after characters were dropped. -/
def State.monSyntax (s : State) (n : Fin 4) (src : MonSrc) (overrun : Bool) : State :=
  if !s.hpd.good then s
  else
    match src with
    | .uart =>
      if overrun then (s.onHpd (fun h => h.count MG_CNT_UART.COUNT 1)).uartSay (.err 6) else s.uartSay (.err 1)
    | .mailbox =>
      match s.mailLine n with
      | some l => if parseLine l = none then s.mailRun n l else s
      | none => s

/-- UART_BREAK: a break of `ms` milliseconds. -/
def Hpd.uartBreak (h : Hpd) (ms : Nat) : Hpd := if h.good ∧ 10 ≤ ms then h.sf MG_STAT.BAUD 0 else h

/-! ### SMBus (R551, R552) -/

/-- A message goes out over SMBus: its type or command, then its bytes. -/
def Hpd.mctpSay (h : Hpd) (bs : List Byte) : Hpd := if h.good then (h.withMctp (h.mctp ++ [bs])) else h

/-- An answer of a control message: command, completion code, data. -/
def Hpd.mctpCtl (h : Hpd) (cmd code : Nat) (data : List Byte) : Hpd := h.mctpSay (leBytes 1 cmd ++ leBytes 1 code ++ data)

/-- Set Endpoint ID: operation 0 set, 1 force. -/
def Hpd.setEid (h : Hpd) (op eid : Nat) : Hpd :=
  if op ≤ 1 ∧ 8 ≤ eid ∧ eid ≤ 254 ∧ h.good then
    ((h.withEid eid) : Hpd).mctpCtl 1 0 (leBytes 1 0 ++ leBytes 1 eid ++ leBytes 1 0)
  else h.mctpCtl 1 2 []

/-- Get Endpoint ID. -/
def Hpd.getEid (h : Hpd) : Hpd := h.mctpCtl 2 0 (leBytes 1 h.eid ++ leBytes 2 0)

/-- Get MCTP Version Support of a message type: base, control, or Vendor Defined – IANA. -/
def Hpd.getVersion (h : Hpd) (ty : Nat) : Hpd :=
  if ty = 0xFF ∨ ty = 0 ∨ ty = 0x7F then h.mctpCtl 4 0 (leBytes 1 1 ++ leBytes 4 (Config.mctpVersion ty).toNat)
  else h.mctpCtl 4 0x80 []

/-- Get Message Type Support. -/
def Hpd.getTypes (h : Hpd) : Hpd := h.mctpCtl 5 0 (leBytes 1 1 ++ leBytes 1 0x7F)

/-- A control message that the endpoint does not support. -/
def Hpd.unsupported (h : Hpd) (cmd : Nat) : Hpd :=
  if cmd = 1 ∨ cmd = 2 ∨ cmd = 4 ∨ cmd = 5 then h else h.mctpCtl cmd 5 []

/-- A message of the vendor type.  The 32-bit IANA number goes low byte first (PRESUMED, notes/assumptions/41.md). -/
def Hpd.vendorSay (h : Hpd) (cmd : Nat) (data : List Byte) : Hpd :=
  h.mctpSay (leBytes 1 0x7F ++ leBytes 4 (h.gf MG_VER.IANA) ++ leBytes 1 cmd ++ data)

/-- GET_ID. -/
def State.getId (s : State) : State :=
  s.onHpd (fun h => h.vendorSay 1 (leBytes 8 (h.regRead SEC_SERIAL.off) ++ leBytes 1 ((s.chan 0).gf CH_ID.STEPPING) ++
    leBytes 8 (h.regRead SYL_HDR.off) ++ ((List.range 4).map (fun n =>
      leBytes 4 (if s.monFar n then 0 else (s.chan (finOf n)).regRead SVC_STAT.off))).flatten))

/-- GET_SENSORS. -/
def State.getSensors (s : State) : State :=
  s.onHpd (fun h => h.vendorSay 2 ((sensorIds.map (fun id =>
    leBytes 2 id ++ leBytes 4 (s.sensor id).1 ++ leBytes 1 (b2n (s.sensor id).2))).flatten))

/-- GET_LOG: up to 32 records, each after a byte that says whether it is there. -/
def State.getLog (s : State) (t i n : Nat) : State :=
  let rs := if 6 ≤ t ∨ s.monFar t then List.replicate (min 32 n) none else s.records t i (min 32 n)
  s.onHpd (fun h => h.vendorSay 3 ((rs.map (fun r => leBytes 1 (b2n r.isSome) ++ recBytes r)).flatten))

/-- ALERT_RESPONSE: the module returns its address 0x4C, and PEND clears. -/
def Hpd.alertResponse (h : Hpd) : Hpd :=
  if h.good ∧ h.flag MG_ALERT.PEND then (h.sf MG_ALERT.PEND 0).mctpSay [0x98] else h

end Sys2Proof.Machine
end

