-- ==== Sys2Proof/Machine/Settle.lean ====
section
/-!
DEFINITION. What surrounds every command: the stamp (time and the acts of the physical world), and what the units do of
themselves once the command has had its effect: fences asked for, state machines whose next event has occurred, packets that
can leave, and messages to the host-port die.
-/
namespace Sys2Proof.Machine

/-! ### Before a command: time and the physical world -/

/-- The clocks of a channel advance to tick `t`; the MCLK cycle before ends with the retirements of the version store. -/
def Chan.advance (c : Chan) (t : Nat) : Chan :=
  let c := if c.now / 4 < t / 4 then c.vsRetireAll else c
  let c := if c.computeOn ∧ !c.refLost then c.runCycles (c.now / 8) (max c.now t / 8) else c
  let d := c.gf HR_THERM.DUTY
  let c := if d < 16 ∧ c.baseOn ∧ !c.refLost then
      c.count CH_CNT_THROTTLE.COUNT (closedUpTo d (max c.now t / 8) - closedUpTo d (c.now / 8))
    else c
  (c.withNow (max c.now t)).rewait

/-- The upset of one symbol joins those of its codeword; two that cancel leave the symbol sound. -/
def addUpset (l : List (Nat × Byte)) (e : Nat × Byte) : List (Nat × Byte) := tput (fun _ => (0 : Byte)) l e.1 (tget (fun _ => (0 : Byte)) l e.1 ^^^ e.2)

/-- Symbols of the codeword at `a` are upset (R36), while its memory has power. -/
def Chan.upset (c : Chan) (a : Nat) (errs : List (Nat × Byte)) : Chan :=
  if inMem (a / 32 * 32) 32 ∧ c.baseOn then
    c.withFlaws (tput (fun _ => []) c.flaws (a / 32) (errs.foldl addUpset (tget (fun _ => []) c.flaws (a / 32))))
  else c

/-- One act of the physical world on channel `n` or on the host-port die. -/
def State.envAct (s : State) (n : Fin 4) (e : Env) : State :=
  match e with
  | .upset a syms => s.onChan n (fun c => c.upset a syms)
  | .flashWp low => s.onHpd (fun h => h.sf SYL_STAT.WP (b2n low))
  | .flash a bs => s.onHpd (fun h => h.putFlashes a (bs.take (0x3F00000 - a)))
  | .mailbox bs =>
    if s.hpd.flag HP_LINK.UP then
      s.onHpd (fun h => (h.withH2d (((bs.take 4096).zipIdx).foldl (fun t b => tput (fun _ => (0 : Byte)) t (n.val * 4096 + b.2) b.1) h.h2d)))
    else s
  | .coreUpset h part line corrected => s.onChan n (fun c => c.coreUpset h part line corrected)
  | .ucLanes m => s.onChan n (fun c => (c.withUc ({ c.uc with tested := m % 2 ^ 68 })))
  | .ucResent k => s.onChan n (fun c => c.ucResent k)
  | .ivFec p k => s.onChan n (fun c => c.fecUncorrectable p k)
  | .ivLanes p m => s.onChan n (fun c => c.lanesFound p m)
  | .hostAck k => if s.hpd.flag HP_LINK.UP then s.onHpd (fun h => (h.withOutb (h.outb.drop k))) else s
  | .modSens t v i p => s.onHpd (fun h => (h.withSens [t, v, i, p]))
  | .barRead off k => s.barRead off k
  | .barWrite off bs => s.barWrite off bs
  | .memInv off => s.onHpd (fun h => h.memInv off)
  | .memCmd op input => s.onHpd (fun h => h.memCmd op input)
  | .aer m => if s.hpd.flag HP_LINK.UP then s.onHpd (fun h => h.withAer (h.aer ||| m % 2 ^ 32)) else s
  | .feed k i count => s.onChan n (fun c => if c.computeOn ∧ !c.refLost ∧ k < 16 then c.feedRows k i count else c)
  | .mgErr smb k =>
    if s.hpd.good then s.onHpd (fun h => h.count (if smb then MG_CNT_SMB.COUNT else MG_CNT_UART.COUNT) k) else s
  | .enFill k => s.onChan n (fun c => c.enOccupy k)

/-- A command's stamp takes effect. -/
def State.enter (s : State) (a : At) : State :=
  let s := (s.allChans (fun c => c.advance a.time)).onHpd (fun h => (h.withNow (max h.now a.time)))
  a.env.foldl (fun s e => s.envAct a.chan e) s

/-! ### After a command -/

/-- What a channel with a powered homeroom does of itself; `required` is DIGEST_REQUIRED. -/
def Chan.settleHome (c : Chan) (required : Bool) : Chan :=
  let c := (List.range 8).foldl Chan.slotSettle c.fenceDue
  let c := c.startupSettle.spreadGo.hbSettle.upSettle.upTimeout.recoverSettle
  let c := c.bsSettle required
  let c := if c.reach then c.hqSettle else c
  let c := if c.computeOn ∧ !c.refLost then c.ceSettle else c
  let c := c.noteQuiet
  if c.refLost then c else c.pump

/-- Host accesses that the channel has handed over: they fail while the link to the host, or the UCIe link, is down (R48,
R446, R473), and wait while the UCIe link trains. -/
def handHost (c : Chan) (h : Hpd) : Chan × Hpd :=
  if c.gf UC_STAT.STATE = 0 then
    (c.hostAllFailed, ((h.setInq c.num []).withReads (h.reads.filter (fun r => r.chan != c.num))))
  else if !h.hostOpen then
    let tids := c.out.filterMap (fun m => match m with | .hostWrite t _ _ _ _ => some t | .hostRead t _ _ => some t | _ => none)
    (tids.foldl Chan.hostFailed c.hostOpsLost, h)
  else if !c.ucUp then (c, h)
  else
    let h := c.out.foldl (fun (h : Hpd) m =>
      match m with
      | .hostWrite t a bs b u => h.setInq c.num (h.inqOf c.num ++ [{ chan := c.num, tid := t, addr := a, bytes := bs, block := b, unit := u, seq := 0 }])
      | .hostRead t a n => (h.withReads (h.reads ++ [{ chan := c.num, tid := t, addr := a, len := n }]))
      | _ => h) h
    (c.hostOpsLost, h)

/-- The other messages of a channel reach the host-port die; its records about a channel whose link is DOWN enter its own log, and
wait while the link trains (R544; DEDUCED, notes/assumptions/78.md). -/
def handRest (c : Chan) (h : Hpd) : Chan × Hpd :=
  let h := c.out.foldl (fun (h : Hpd) m =>
    match m with
    | .alert => h.sf MG_ALERT.PEND 1
    | .msix v => h.raise v
    | .power on => h.sf ⟨MG_STAT.off, c.num, 1⟩ (b2n on)
    | .record t b code sev d => if c.gf UC_STAT.STATE = 0 then h.evFor t c.num b code sev d else h
    | .hostWrite _ _ _ _ _ | .hostRead _ _ _ => h) h
  ((c.withOut (c.out.filter (fun m => match m with
    | .hostWrite .. | .hostRead .. => true
    | .record .. => c.gf UC_STAT.STATE != 0
    | _ => false))), h)

/-- What one channel does of itself, with the host-port die's part in it. -/
def settleOne (c : Chan) (h : Hpd) : Chan × Hpd :=
  let c := (c.withHostUp (h.flag HP_LINK.UP))
  let c := if c.homeOn then c.settleHome (h.may 6) else c
  let (c, h) := handHost c h
  let (c, h) := mbSettle c h
  handRest (if c.homeOn then c.msixSettle.hpcSettle else c.hpcSettle).takeRecords h

/-- Every channel in turn, while the module has power. -/
def State.settle (s : State) : State :=
  if !s.hpd.good then s
  else
    allCh.foldl (fun s n =>
      let r := settleOne (s.chan n) s.hpd
      { (s.setChan n r.1) with hpd := r.2 }) s

/-! ### A command -/

abbrev Out := Host.Outcome State Fault Refusal

/-- A command of a module with or without power. -/
def State.runAny (s : State) (a : At) (f : State → State) : Out := .next (f (s.enter a)).settle

/-- A command of a module that has power: without it, nothing but the stamp takes effect. -/
def State.run (s : State) (a : At) (f : State → State) : Out := s.runAny a (fun s => if s.hpd.good then f s else s)

/-- A command of the stamp's channel, under a condition on its power. -/
def State.runIf (s : State) (a : At) (on : Chan → Bool) (f : Chan → Chan) : Out :=
  s.run a (fun s => if on (s.chan a.chan) then s.onChan a.chan f else s)

/-- The homeroom; the corridor switch with its ports; the base die; the compute die. -/
def State.runHome (s : State) (a : At) (f : Chan → Chan) : Out := s.runIf a Chan.homeOn f
def State.runFab (s : State) (a : At) (f : Chan → Chan) : Out := s.runIf a (fun c => c.homeOn && !c.refLost) f
/-- A command of the corridor switch that also concerns the channel at the other end of a Z link. -/
def State.runSwitch (s : State) (a : At) (f : State → State) : Out :=
  s.run a (fun s => if (s.chan a.chan).homeOn && !(s.chan a.chan).refLost then f s else s)
def State.runBase (s : State) (a : At) (f : Chan → Chan) : Out := s.runIf a Chan.baseOn f
def State.runCore (s : State) (a : At) (f : Chan → Chan) : Out := s.runIf a Chan.computeOn f

/-- The executor of a queue: the compute die's, or the host port's while the channel is in reach. -/
def Chan.queueOn (c : Chan) (q : Nat) : Bool := if q = 0x80 then c.reach else qidOk q && c.computeOn

/-- A command at the head of a queue is evaluated. -/
def State.runQueue (s : State) (a : At) (q op : Nat) (spec : CmdSpec) : Out :=
  s.runIf a (fun c => c.queueOn q) (fun c => c.tryStart q op spec)

/-- A queue id of Table 3-1, or the host queue. -/
def queueId (q : Nat) : Bool := qidOk q || q == 0x80

/-- A register write by an agent. -/
def State.runWrite (s : State) (a : At) (ag : Agent) (off v : Nat) : Out := s.run a (fun s => s.write a.chan ag off v)

/-- A write of a register of the host-port die. -/
def State.runHpdWrite (s : State) (a : At) (ag : Agent) (off v : Nat) : Out := s.run a (fun s => s.writeHpd ag off v)

/-- A command of the host-port die alone. -/
def State.runHpd (s : State) (a : At) (f : Hpd → Hpd) : Out := s.run a (fun s => s.onHpd f)

end Sys2Proof.Machine
end

