-- ==== Sys2Proof/Machine/ExecCores.lean ====
section
/-!
DEFINITION. Cores, interrupts and power states (R190 to R231).
-/
namespace Sys2Proof.Machine

/-- CMD_PUSH (R197). -/
def execCmdPush (a : At) (h : Nat) (s : State) : Out :=
  s.runCore a (fun c => c.runPush h)

/-- TOK_ADD (R198). -/
def execTokAdd (a : At) (h : Nat) (s : State) : Out :=
  s.runCore a (fun c => c.runTokAdd h)

/-- TOK_WAIT (R199). -/
def execTokWait (a : At) (h : Nat) (s : State) : Out :=
  s.runCore a (fun c => c.runTokWait h)

/-- TOK_WAIT_SATISFIED (R199). -/
def execTokWaitSatisfied (a : At) (h : Nat) (s : State) : Out :=
  s.runCore a (fun c => c.tokWaitDone h)

/-- SUM_RD (R201). -/
def execSumRd (a : At) (h : Nat) (s : State) : Out :=
  s.runCore a (fun c => c.runSumRd h)

/-- EVT_RAISE (R202). -/
def execEvtRaise (a : At) (h : Nat) (s : State) : Out :=
  s.runCore a (fun c => c.runEvt h)

/-- XFENCE (R203). -/
def execXfence (a : At) (h : Nat) (s : State) : Out :=
  s.runCore a (fun c => c.runXfence h)

/-- CMO_CLEAN (R205). -/
def execCmoClean (a : At) (h : Nat) (s : State) : Out :=
  s.runCore a (fun c => c.runClean h)

/-- CMO_INV (R205). -/
def execCmoInv (a : At) (h : Nat) (s : State) : Out :=
  s.runCore a (fun c => c.runInv h)

/-- CMO_FLUSH (R205). -/
def execCmoFlush (a : At) (h : Nat) (s : State) : Out :=
  s.runCore a (fun c => c.runFlush h)

/-- FENCE_I (R205). -/
def execFenceI (a : At) (h : Nat) (s : State) : Out :=
  s.runCore a (fun c => c.runFenceI h)

/-- CORE_LOAD (R193). -/
def execCoreLoad (a : At) (h : Nat) (s : State) : Out :=
  s.runCore a (fun c => c.coreLoad h)

/-- CORE_STORE (R193). -/
def execCoreStore (a : At) (h : Nat) (s : State) : Out :=
  s.runCore a (fun c => c.coreStore h)

/-- CORE_AMO (R194). -/
def execCoreAmo (a : At) (h : Nat) (s : State) : Out :=
  s.runCore a (fun c => c.coreAmo h)

/-- CORE_INSTRUCTION (R190). -/
def execCoreInstruction (a : At) (h : Nat) (s : State) : Out :=
  s.runCore a (fun c => c.coreInstruction h)

/-- CACHE_EVICTION (R205). -/
def execCacheEviction (a : At) (h line : Nat) (s : State) : Out :=
  s.runCore a (fun c => c.cacheEviction h line)

/-- INTERRUPT (R200). -/
def execInterrupt (a : At) (h : Nat) (s : State) : Out :=
  s.runCore a (fun c => c.interrupt h)

/-- SC_RUN (R208). -/
def execScRun (a : At) (ag : Agent) (h : Nat) (s : State) : Out :=
  if h < 4 then s.runWrite a ag (SC_CTL.off h) 1 else s.run a id

/-- SC_STOP (R208). -/
def execScStop (a : At) (ag : Agent) (h : Nat) (s : State) : Out :=
  if h < 4 then s.runWrite a ag (SC_CTL.off h) 0 else s.run a id

/-- SC_RESET (R208). -/
def execScReset (a : At) (ag : Agent) (h : Nat) (s : State) : Out :=
  if h < 4 then s.runWrite a ag (SC_CTL.off h) 2 else s.run a id

/-- WDOG_KICK (R209). -/
def execWdogKick (a : At) (ag : Agent) (h : Nat) (s : State) : Out :=
  if h < 4 then s.runWrite a ag (SC_WDOG_KICK.off h) 1 else s.run a id

/-- WDOG_EXPIRED (R209). -/
def execWdogExpired (a : At) (h : Nat) (s : State) : Out :=
  s.runCore a (fun c => c.wdogExpired h)

/-- SVC_WDOG_EXPIRY (R209). -/
def execSvcWdogExpiry (a : At) (s : State) : Out :=
  s.runCore a (fun c => c.svcWdogExpiry)

/-- CIC_ACK (R216). -/
def execCicAck (a : At) (ag : Agent) (t src : Nat) (s : State) : Out :=
  if t < 6 then s.runWrite a ag (CIC_ACK.off t) src else s.run a id

/-- CIC_EOI (R217). -/
def execCicEoi (a : At) (ag : Agent) (t : Nat) (s : State) : Out :=
  if t < 6 then s.runWrite a ag (CIC_EOI.off t) 1 else s.run a id

/-- CIC_SRC_WRITE (R218). -/
def execCicSrcWrite (a : At) (ag : Agent) (n v : Nat) (s : State) : Out :=
  if n < 512 then s.runWrite a ag (CIC_SRC.off n) v else s.run a id

/-- CIC_SWSRC_SET (R221). -/
def execCicSwsrcSet (a : At) (ag : Agent) (v : Nat) (s : State) : Out :=
  s.runWrite a ag CIC_SWSRC_SET.off v

/-- CIC_SWSRC_CLR (R221). -/
def execCicSwsrcClr (a : At) (ag : Agent) (v : Nat) (s : State) : Out :=
  s.runWrite a ag CIC_SWSRC_CLR.off v

/-- PSTATE_REQUEST (R224). -/
def execPstateRequest (a : At) (ag : Agent) (v : Nat) (s : State) : Out :=
  s.runWrite a ag HR_PSTATE.off v

/-- IDLE_ENTRY (R223). -/
def execIdleEntry (a : At) (s : State) : Out :=
  s.runHome a Chan.idleEntry

/-- PSTATE_ENTRY_DONE (R225). -/
def execPstateEntryDone (a : At) (s : State) : Out :=
  s.runHome a Chan.entryDone

/-- WAKE (R229). -/
def execWake (a : At) (s : State) : Out :=
  s.runHome a Chan.wakeUp

/-- PSTATE_EXIT_DONE (R227). -/
def execPstateExitDone (a : At) (s : State) : Out :=
  s.runHome a Chan.exitDone

/-- TERM_START (R338). -/
def execTermStart (a : At) (ag : Agent) (v : Nat) (s : State) : Out :=
  s.runWrite a ag CH_TERM_CTL.off v

/-- TERM_DRAIN_END (R338). -/
def execTermDrainEnd (a : At) (s : State) : Out :=
  s.runBase a Chan.termDrainEnd

/-- TERM_DRAIN_TIMEOUT (R338). -/
def execTermDrainTimeout (a : At) (s : State) : Out :=
  s.runBase a Chan.termDrainTimeout

end Sys2Proof.Machine
end

