-- ==== Sys2Proof/Machine/ExecEngines.lean ====
section
/-!
DEFINITION. What the matrix engines, function stages, stage slots, version store, update unit and collective engine do of themselves, and the control of slots and contexts.
-/
namespace Sys2Proof.Machine

/-- A configuration register of a stage slot or of the version store (R233): not SS_CTL, not VS_PUB. -/
def isSlotConfig (off : Nat) : Bool :=
  (0x150000 ≤ off && off < 0x158000 && off % 0x1000 != 0) ||
  (0x60100 ≤ off && off < 0x60500 && (off - 0x60100) % 0x80 < 0x40 && (off - 0x60100) % 0x80 != 0x18)

/-- A configuration register of a CE context (R290) other than CE_GRPg_CFG. -/
def isCtxConfig (off : Nat) : Bool :=
  0x70400 ≤ off && off < 0x70800 && 0 < (off - 0x70400) % 0x80 && (off - 0x70400) % 0x80 < 0x50

/-- LOAD_TRANSFER (R99). -/
def execLoadTransfer (a : At) (k : Nat) (s : State) : Out :=
  s.runCore a (fun c => if k < 16 then c.loadTransfer k else c)

/-- ROW_ADMIT (R101): `arr` rows reach the feeder, and the array takes the next row. -/
def execRowAdmit (a : At) (k arr : Nat) (s : State) : Out :=
  s.runCore a (fun c => if k < 16 then (c.feedRows k 0 arr).rowTake k else c)

/-- ACC_WRITE (R102). -/
def execAccWrite (a : At) (k p row col : Nat) (s : State) : Out :=
  s.runCore a (fun c => if k < 16 then c.accWrite k p row col else c)

/-- RAMP_UP (R106). -/
def execRampUp (a : At) (k : Nat) (s : State) : Out :=
  s.runCore a (fun c => if k < 16 then c.rampUp k else c)

/-- RAMP_DOWN (R106). -/
def execRampDown (a : At) (k : Nat) (s : State) : Out :=
  s.runCore a (fun c => if k < 16 then c.rampDown k else c)

/-- FS_GRANT (R182). -/
def execFsGrant (a : At) (k : Nat) (s : State) : Out :=
  s.runCore a (fun c => if k < 4 then c.fsGrant k else c)

/-- BIND (R234). -/
def execBindSlot (a : At) (ag : Agent) (sl : Nat) (s : State) : Out :=
  if sl < 8 then s.runWrite a ag (SS_CTL.off sl) 1 else s.run a id

/-- START (R232). -/
def execStartSlot (a : At) (ag : Agent) (sl : Nat) (s : State) : Out :=
  if sl < 8 then s.runWrite a ag (SS_CTL.off sl) 2 else s.run a id

/-- DRAIN (R232). -/
def execDrainSlot (a : At) (ag : Agent) (sl : Nat) (s : State) : Out :=
  if sl < 8 then s.runWrite a ag (SS_CTL.off sl) 3 else s.run a id

/-- UNBIND (R232). -/
def execUnbindSlot (a : At) (ag : Agent) (sl : Nat) (s : State) : Out :=
  if sl < 8 then s.runWrite a ag (SS_CTL.off sl) 4 else s.run a id

/-- ABANDON (R232). -/
def execAbandonSlot (a : At) (ag : Agent) (sl : Nat) (s : State) : Out :=
  if sl < 8 then s.runWrite a ag (SS_CTL.off sl) 5 else s.run a id

/-- DISCARD_F (R232). -/
def execDiscardF (a : At) (ag : Agent) (sl : Nat) (s : State) : Out :=
  if sl < 8 then s.runWrite a ag (SS_CTL.off sl) 6 else s.run a id

/-- DISCARD_B (R232). -/
def execDiscardB (a : At) (ag : Agent) (sl : Nat) (s : State) : Out :=
  if sl < 8 then s.runWrite a ag (SS_CTL.off sl) 7 else s.run a id

/-- SLOT_CONFIG_WRITE (R233). -/
def execSlotConfigWrite (a : At) (ag : Agent) (off v : Nat) (s : State) : Out :=
  if isSlotConfig off then s.runWrite a ag off v else s.run a id

/-- CONTEXT_CONFIG_WRITE (R290). -/
def execContextConfigWrite (a : At) (ag : Agent) (off v : Nat) (s : State) : Out :=
  if isCtxConfig off then s.runWrite a ag off v else s.run a id

/-- LAUNCH (R249). -/
def execLaunch (a : At) (sl : Nat) (s : State) : Out :=
  s.runCore a (fun c => if sl < 8 then c.launch sl else c)

/-- STALE_DISCARD (R247). -/
def execStaleDiscard (a : At) (sl : Nat) (bwd : Bool) (s : State) : Out :=
  s.runCore a (fun c => if sl < 8 then c.staleDiscard sl bwd else c)

/-- DESC_FAULT (R248). -/
def execDescFault (a : At) (sl : Nat) (bwd : Bool) (s : State) : Out :=
  s.runCore a (fun c => if sl < 8 then c.descFault sl bwd else c)

/-- LAUNCH_COMPLETE (R250). -/
def execLaunchComplete (a : At) (sl i : Nat) (s : State) : Out :=
  s.runCore a (fun c => if sl < 8 then c.launchComplete sl i else c)

/-- OFFLOAD_COPY_DONE (R252). -/
def execOffloadCopyDone (a : At) (sl r : Nat) (s : State) : Out :=
  s.runCore a (fun c => if sl < 8 then c.offDone sl r else c)

/-- VS_PUB (R263). -/
def execVsPub (a : At) (ag : Agent) (sl v : Nat) (s : State) : Out :=
  if sl < 8 then s.runWrite a ag (VS_PUB.off sl) v else s.run a id

/-- VS_RETIRED (R265). -/
def execVsRetired (a : At) (sl k : Nat) (s : State) : Out :=
  s.runCore a (fun c => if sl < 8 ∧ k < 4 then c.vsMark sl k else c)

/-- BLOCK_COMMIT (R276). -/
def execBlockCommit (a : At) (i : Nat) (s : State) : Out :=
  s.runCore a (fun c => c.blockCommit i)

/-- CE_GRP_CFG_WRITE (R290). -/
def execCeGrpCfgWrite (a : At) (ag : Agent) (g v : Nat) (s : State) : Out :=
  if g < 8 then s.runWrite a ag (CE_GRP_CFG.off g) v else s.run a id

/-- CE_ABANDON (R315). -/
def execCeAbandon (a : At) (ag : Agent) (g : Nat) (s : State) : Out :=
  if g < 8 then s.runWrite a ag (CE_GRP_CTL.off g) 1 else s.run a id

/-- DEADLINE_EXPIRY (R303). -/
def execDeadlineExpiry (a : At) (g : Nat) (b : Nat) (s : State) : Out :=
  s.runCore a (fun c => if g < 8 then c.deadlineExpiry g b else c)

/-- GB_CLR (R323). -/
def execGbClr (a : At) (ag : Agent) (g : Nat) (s : State) : Out :=
  s.runWrite a ag GB_CTL.off (8 + g % 8)

end Sys2Proof.Machine
end

