-- ==== Sys2Proof/Machine/ExecFabric.lean ====
section
/-!
DEFINITION. Links, flits and packets (R346 to R377).
-/
namespace Sys2Proof.Machine

/-- FLIT (R350). -/
def execFlit (a : At) (p : Nat) (bytes : List Byte) (s : State) : Out :=
  s.runSwitch a (fun s => s.flit a.chan p bytes)

/-- NAK (R350). -/
def execNak (a : At) (p lseq : Nat) (s : State) : Out :=
  s.runSwitch a (fun s => s.ctlIn a.chan p (.nak lseq) (fun c => c.nakIn p lseq))

/-- LANE_SWAP (R348). -/
def execLaneSwap (a : At) (p lane spare : Nat) (s : State) : Out :=
  s.runSwitch a (fun s => s.ctlIn a.chan p (.laneSwap lane spare) (fun c => c.laneSwap p lane spare))

/-- LANE_SPARED (R348). -/
def execLaneSpared (a : At) (p lane : Nat) (lock : Bool) (corr : Nat) (s : State) : Out :=
  s.runFab a (fun c => c.laneSpared p lane lock corr)

/-- CAP (R353). -/
def execCap (a : At) (p : Nat) (bytes : List Byte) (s : State) : Out :=
  s.runSwitch a (fun s => s.ctlIn a.chan p (.cap bytes) (fun c => c.capArrives p bytes))

/-- RETRAIN (R353). -/
def execRetrain (a : At) (p : Nat) (s : State) : Out :=
  s.runFab a (fun c => c.retrain p)

/-- IV_RETRAIN (R374). -/
def execIvRetrain (a : At) (ag : Agent) (p : Nat) (s : State) : Out :=
  if p < 6 then s.runWrite a ag (IV_CTL.off p) (1 + 2 * (s.chan a.chan).gf (IV_CTL.DISABLE p)) else s.run a id

/-- IV_DISABLE (R353). -/
def execIvDisable (a : At) (ag : Agent) (p v : Nat) (s : State) : Out :=
  if p < 6 then s.runWrite a ag (IV_CTL.off p) (2 * (v % 2)) else s.run a id

/-- LINK_UP (R352). -/
def execLinkUp (a : At) (p rtt : Nat) (s : State) : Out :=
  s.runSwitch a (fun s => if s.zReady a.chan p then s.onChan a.chan (fun c => c.linkUp p rtt) else s)

/-- LINK_DOWN (R353). -/
def execLinkDown (a : At) (p : Nat) (s : State) : Out :=
  s.runFab a (fun c => c.linkFailed p)

/-- PEER_TRAINING (R353). -/
def execPeerTraining (a : At) (p : Nat) (s : State) : Out :=
  s.runSwitch a (fun s => if s.zReady a.chan p then s.onChan a.chan (fun c => c.peerTraining p) else s)

/-- RETRAIN_FAILED (R353). -/
def execRetrainFailed (a : At) (p : Nat) (s : State) : Out :=
  s.runFab a (fun c => c.retrainFailed p)

/-- TRAINING_TIMEOUT (R386). -/
def execTrainingTimeout (a : At) (p : Nat) (s : State) : Out :=
  s.runFab a (fun c => c.trainingTimeout p)

/-- READ (R365). -/
def execRead (a : At) (p vc : Nat) (s : State) : Out :=
  s.runFab a (fun c => c.takePkt p vc (isType pREAD) Chan.homeRead)

/-- WRITE (R54). -/
def execWrite (a : At) (p vc : Nat) (s : State) : Out :=
  s.runFab a (fun c => c.takePkt p vc (isType pWRITE) Chan.homeWrite)

/-- ATOMIC_REQUEST (R368). -/
def execAtomicRequest (a : At) (p vc : Nat) (s : State) : Out :=
  s.runFab a (fun c => c.takePkt p vc (isType pATOMIC) Chan.homeAtomic)

/-- DELIVER_DATA (R367). -/
def execDeliverData (a : At) (p vc : Nat) (s : State) : Out :=
  s.runFab a (fun c => c.takePkt p vc (isType pDELIVER_DATA) Chan.homeDlvData)

/-- DELIVER_DESC (R238). -/
def execDeliverDesc (a : At) (p vc : Nat) (s : State) : Out :=
  s.runFab a (fun c => c.takePkt p vc (isType pDELIVER_DESC) Chan.homeDlvDesc)

/-- DELIVER_X (R367). -/
def execDeliverX (a : At) (p vc : Nat) (s : State) : Out :=
  s.runFab a (fun c => c.takePkt p vc (isType pDELIVER_X) Chan.homeDlvX)

/-- PASS (R241). -/
def execPass (a : At) (p vc : Nat) (s : State) : Out :=
  s.runFab a (fun c =>
    c.takePkt p vc (isType pPASS) (if c.headVc p vc < 4 then Chan.bindPass else Chan.cePassIn))

/-- CE_PARTIAL (R295). -/
def execCePartial (a : At) (p vc : Nat) (s : State) : Out :=
  s.runFab a (fun c => c.takePkt p vc (isType pCE_PARTIAL) Chan.homePartial)

/-- ATTENDANCE (R301). -/
def execAttendance (a : At) (p vc : Nat) (s : State) : Out :=
  s.runFab a (fun c => c.takePkt p vc (isBell bATTENDANCE) Chan.homeAttendance)

/-- READ_DATA (R355). -/
def execReadData (a : At) (p vc : Nat) (s : State) : Out :=
  s.runFab a (fun c => c.takeResponse p vc pREAD_DATA)

/-- WRITE_ACK (R355). -/
def execWriteAck (a : At) (p vc : Nat) (s : State) : Out :=
  s.runFab a (fun c => c.takeResponse p vc pWRITE_ACK)

/-- ATOMIC_DATA (R355). -/
def execAtomicData (a : At) (p vc : Nat) (s : State) : Out :=
  s.runFab a (fun c => c.takeResponse p vc pATOMIC_DATA)

/-- ERROR_RESP (R355). -/
def execErrorResp (a : At) (p vc : Nat) (s : State) : Out :=
  s.runFab a (fun c => c.takeResponse p vc pERROR_RESP)

/-- RESP_TIMEOUT (R366). -/
def execRespTimeout (a : At) (tid : Nat) (s : State) : Out :=
  s.runFab a (fun c => c.respTimeout tid)

/-- BREAK (R361). -/
def execBrk (a : At) (p vc : Nat) (s : State) : Out :=
  s.runFab a (fun c => c.takeHere p vc (isBell bBREAK) (fun c k => c.ringNews p k))

/-- MEND (R361). -/
def execMend (a : At) (p vc : Nat) (s : State) : Out :=
  s.runFab a (fun c => c.takeHere p vc (isBell bMEND) (fun c k => c.ringNews p k))

/-- RESERVED_PACKET (R354). -/
def execReservedPacket (a : At) (p vc : Nat) (s : State) : Out :=
  s.runFab a (fun c => c.dropReserved p vc)

end Sys2Proof.Machine
end

