-- ==== Sys2Proof/Machine/ExecHost.lean ====
section
/-!
DEFINITION. The host port (R421 to R451) and the network port (R452 to R467).
-/
namespace Sys2Proof.Machine

/-- DOORBELL (R431). -/
def execDoorbell (a : At) (v : Nat) (s : State) : Out :=
  s.run a (fun s => s.hostWrite (0x10000000 + 0x20000 * a.chan.val) v)

/-- MB_ACK (R440). -/
def execMbAck (a : At) (s : State) : Out :=
  s.run a (fun s => s.hostWrite (0x10000018 + 0x20000 * a.chan.val) 1)

/-- BOOT_LOAD (R529). -/
def execBootLoad (a : At) (s : State) : Out :=
  s.run a (fun s => s.bootLoad a.chan)

/-- HOST_LINK_LOST (R442). -/
def execHostLinkLost (a : At) (cause : Nat) (s : State) : Out :=
  s.run a (fun s => s.hostLinkLost cause)

/-- LTSSM_RECOVERY_TIMEOUT (R441). -/
def execLtssmRecoveryTimeout (a : At) (s : State) : Out :=
  s.run a (fun s => s.hostLinkLost 5)

/-- HOST_LINK_UP (R446). -/
def execHostLinkUp (a : At) (cxl : Bool) (width speed : Nat) (s : State) : Out :=
  s.run a (fun s => s.hostLinkUp cxl width speed)

/-- HOST_WRITE_ACCEPT (R423). -/
def execHostWriteAccept (a : At) (s : State) : Out :=
  s.run a State.hostWriteAccept

/-- HOST_READ_COMPLETION (R438). -/
def execHostReadCompletion (a : At) (i : Nat) (data : List Byte) (s : State) : Out :=
  s.run a (fun s => s.hostReadDone i data)

/-- HOST_CONFIGURATION_WRITE (R446). -/
def execHostConfigurationWrite (a : At) (w : CfgWrite) (s : State) : Out :=
  s.runHpd a (fun h => h.configWrite w)

/-- QP_STATE_WRITE (R455). -/
def execQpStateWrite (a : At) (ag : Agent) (q v : Nat) (s : State) : Out :=
  if q < 64 then s.runWrite a ag (EN_QP_A.off q) v else s.run a id

/-- RDMA_READ_REQUEST (R460). -/
def execRdmaReadRequest (a : At) (q psn va key len : Nat) (ce : Bool) (s : State) : Out :=
  s.runBase a (fun c => c.rdmaRead q psn va key len ce)

/-- RDMA_WRITE_REQUEST (R461). -/
def execRdmaWriteRequest (a : At) (q psn va key : Nat) (data : List Byte) (ce : Bool) (s : State) : Out :=
  s.runBase a (fun c => c.rdmaWrite q psn va key data ce)

/-- RDMA_SEND (R462). -/
def execRdmaSend (a : At) (q psn : Nat) (data : List Byte) (ce : Bool) (s : State) : Out :=
  s.runBase a (fun c => c.rdmaSendIn q psn data ce)

/-- READ_RESPONSE (R458). -/
def execReadResponse (a : At) (q psn : Nat) (data : List Byte) (ce : Bool) (s : State) : Out :=
  s.runBase a (fun c => c.readResponse q psn data ce)

/-- ROCE_ACK (R458). -/
def execRoceAck (a : At) (q psn : Nat) (ce : Bool) (s : State) : Out :=
  s.runBase a (fun c => c.roceAck q psn ce)

/-- ROCE_NAK (R459). -/
def execRoceNak (a : At) (q psn syn : Nat) (ce : Bool) (s : State) : Out :=
  s.runBase a (fun c => c.roceNak q psn syn ce)

/-- ACK_TIMEOUT (R459). -/
def execAckTimeout (a : At) (q : Nat) (s : State) : Out :=
  s.runBase a (fun c => c.ackTimeout q)

/-- CNP (R463). -/
def execCnp (a : At) (q : Nat) (s : State) : Out :=
  s.runBase a (fun c => c.cnpIn q)

/-- RATE_INCREASE (R463). -/
def execRateIncrease (a : At) (q : Nat) (s : State) : Out :=
  s.runBase a (fun c => c.rateUp q)

/-- PFC (R454). -/
def execPfc (a : At) (prios : Nat) (quanta : Nat) (s : State) : Out :=
  s.runBase a (fun c => c.pfcIn prios quanta)

/-- XOFF_REFRESH (R454). -/
def execXoffRefresh (a : At) (s : State) : Out :=
  s.runBase a (fun c => c.xoffRefresh)

/-- ARP_REQUEST (R453). -/
def execArpRequest (a : At) (smac sip tip : Nat) (s : State) : Out :=
  s.runBase a (fun c => c.arpRequest smac sip tip)

/-- NEIGHBOR_SOLICITATION (R453). -/
def execNeighborSolicitation (a : At) (smac sip tip : Nat) (s : State) : Out :=
  s.runBase a (fun c => c.neighborSol smac sip tip)

/-- EN_LINK_UP (R467). -/
def execEnLinkUp (a : At) (s : State) : Out :=
  s.runBase a (fun c => c.enLinkUp)

/-- EN_LINK_DOWN (R467). -/
def execEnLinkDown (a : At) (s : State) : Out :=
  s.runBase a (fun c => c.enLinkDown)

/-- DISCARDED_FRAME (R453). -/
def execDiscardedFrame (a : At) (s : State) : Out :=
  s.runBase a (fun c => c.enDiscard)

/-- PAUSE_EXPIRY (R454). -/
def execPauseExpiry (a : At) (s : State) : Out :=
  s.runBase a (fun c => c.pauseExpiry)

end Sys2Proof.Machine
end

