-- ==== Sys2Proof/Machine/ExecMemory.lean ====
section
/-!
DEFINITION. Memory, windows and plain register accesses as commands: the eraser, HDM windows, register writes and counter clears.
-/
namespace Sys2Proof.Machine

/-- ERASER_READ (R39). -/
def execEraserRead (a : At) (sp : Bool) (s : State) : Out :=
  s.runBase a (fun c => c.eraserRead sp)

/-- CLR_CORR (R44). -/
def execClrCorr (a : At) (ag : Agent) (sp : Bool) (s : State) : Out :=
  s.runWrite a ag (if sp then SP_ECC_CTL.off else HBM_ECC_CTL.off) 1

/-- HOST_WINDOW_READ (R428). -/
def execHostWindowRead (a : At) (off len : Nat) (s : State) : Out :=
  s.run a (fun s => s.windowRead off len)

/-- HOST_WINDOW_WRITE (R428). -/
def execHostWindowWrite (a : At) (off : Nat) (data : List Byte) (s : State) : Out :=
  s.run a (fun s => s.windowWrite off data)

/-- REGISTER_WRITE (R5). -/
def execRegisterWrite (a : At) (ag : Agent) (off val : Nat) (s : State) : Out :=
  s.run a (fun s => s.registerWrite a.chan ag off val)

/-- COUNTER_CLEAR (R118). -/
def execCounterClear (a : At) (ag : Agent) (off : Nat) (s : State) : Out :=
  if !(counterRanges off).isEmpty then s.runWrite a ag off 1
  else if off = HP_CNT_CTL.off ∨ off = MG_CNT_CTL.off then s.runHpdWrite a ag off 1
  else s.run a id

/-- LOG_IDX_WRITE (R543). -/
def execLogIdxWrite (a : At) (ag : Agent) (mg : Bool) (v : Nat) (s : State) : Out :=
  if mg then s.runHpdWrite a ag MG_LOG_IDX.off v else s.runWrite a ag HR_LOG_IDX.off v

/-- RPT_CLR_ONE (R154). -/
def execRptClrOne (a : At) (ag : Agent) (t : Nat) (s : State) : Out :=
  s.runWrite a ag RPT_CLR.off (2 ^ 16 + t % 4096)

/-- RPT_CLR_ALL (R154). -/
def execRptClrAll (a : At) (ag : Agent) (s : State) : Out :=
  s.runWrite a ag RPT_CLR.off (2 ^ 17)

/-- RPT_SNAP (R155). -/
def execRptSnap (a : At) (ag : Agent) (v : Nat) (s : State) : Out :=
  s.runWrite a ag RPT_SNAP_CTL.off v

/-- E2_MODE_WRITE (R156). -/
def execE2ModeWrite (a : At) (ag : Agent) (v : Nat) (s : State) : Out :=
  s.runWrite a ag CH_E2_MODE.off v

/-- TOKEN_WRITE (R70). -/
def execTokenWrite (a : At) (ag : Agent) (i v : Nat) (s : State) : Out :=
  s.runWrite a ag (CH_TOK.off (i % 256)) v

/-- CH_TOK_INC (R92). -/
def execChTokInc (a : At) (ag : Agent) (v : Nat) (s : State) : Out :=
  s.runWrite a ag CH_TOK_INC.off v

end Sys2Proof.Machine
end

