-- ==== Sys2Proof/Machine/ExecModule.lean ====
section
/-!
DEFINITION. The UCIe links, clocks, temperature, supplies, security and the syllabus flash (R469 to R540).
-/
namespace Sys2Proof.Machine

/-- UC_MAP: the lanes that the host-port die's own test found good; its record keeps those found bad since its reset, and the
map that it reports leaves them out (R470). -/
def State.ucMap (s : State) (n : Fin 4) (m : Nat) : State :=
  if !(s.chan n).homeOn ∨ (s.chan n).uc.step ≠ 4 then s
  else
    let bad := tget (fun _ => 0) s.hpd.bad n.val ||| (2 ^ 68 - 1 - m % 2 ^ 68)
    (s.onHpd (fun h => (h.withBad (tput (fun _ => 0) h.bad n.val bad)))).onChan n (fun c => c.ucMap (2 ^ 68 - 1 - bad))

/-- UC_RETRAIN (R471). -/
def execUcRetrain (a : At) (ag : Agent) (s : State) : Out :=
  s.runWrite a ag UC_CTL.off 1

/-- UC_RETRY_LIMIT (R471). -/
def execUcRetryLimit (a : At) (s : State) : Out :=
  s.runHome a (fun c => c.ucRetryLimit)

/-- UC_CAP (R471). -/
def execUcCap (a : At) (ver gen rate : Nat) (s : State) : Out :=
  s.runHome a (fun c => c.ucCap ver gen rate)

/-- UC_MAP (R470). -/
def execUcMap (a : At) (map : Nat) (s : State) : Out :=
  s.run a (fun s => s.ucMap a.chan map)

/-- UC_SEL (R471). -/
def execUcSel (a : At) (width part chk : Nat) (s : State) : Out :=
  s.runHome a (fun c => c.ucSel width part chk)

/-- UC_EXCHANGE_TIMEOUT (R471). -/
def execUcExchangeTimeout (a : At) (s : State) : Out :=
  s.runHome a (fun c => c.ucExchangeTimeout)

/-- UC_TRAINING_FAILED (R471). -/
def execUcTrainingFailed (a : At) (s : State) : Out :=
  s.runHome a (fun c => c.ucTrainingFailed)

/-- UC_LINK_UP (R471). -/
def execUcLinkUp (a : At) (s : State) : Out :=
  s.runHome a (fun c => c.ucLinkUp)

/-- UC_LINK_DOWN (R472). -/
def execUcLinkDown (a : At) (s : State) : Out :=
  s.runHome a (fun c => c.ucLinkDown)

/-- CLOCK_FAULT (R478). -/
def execClockFault (a : At) (root : Bool) (s : State) : Out :=
  s.runHome a (fun c => c.clockFault root)

/-- REF_RETURN (R478). -/
def execRefReturn (a : At) (s : State) : Out :=
  s.runHome a (fun c => c.refReturn)

/-- THERM_SAMPLE (R479). -/
def execThermSample (a : At) (t : List (Option Int)) (s : State) : Out :=
  s.runHome a (fun c => c.thermSample t)

/-- THERM_STEP (R480). -/
def execThermStep (a : At) (s : State) : Out :=
  s.runHome a (fun c => c.thermStep)

/-- ENV_SAMPLE (R500). -/
def execEnvSample (a : At) (vin iin : Option Nat) (tin : Option Int) (flow : Option Nat) (s : State) : Out :=
  s.runHome a (fun c => c.envSample vin iin tin flow)

/-- POWER_GOOD (R495). -/
def execPowerGood (a : At) (selftest : Nat) (s : State) : Out :=
  s.runAny a (fun s => s.powerGood selftest)

/-- SYLLABUS_VERIFIED (R517). -/
def execSyllabusVerified (a : At) (s : State) : Out :=
  s.run a State.syllabusVerified

/-- PWRGD_FALL (R495). -/
def execPwrgdFall (a : At) (s : State) : Out :=
  s.run a State.pwrgdFall

/-- PWRGD_GLITCH (R496). -/
def execPwrgdGlitch (a : At) (us : Nat) (s : State) : Out :=
  s.runHpd a (fun h => h.pwrgdGlitch us)

/-- CONVERTER_OFF (R497). -/
def execConverterOff (a : At) (cause : Nat) (s : State) : Out :=
  s.runAny a (fun s => s.converterOff cause)

/-- CONVERTER_ON (R497). -/
def execConverterOn (a : At) (s : State) : Out :=
  s.runAny a (fun s => s.onHpd Hpd.converterOn)

/-- CHANNEL_POWER_LOST (R405). -/
def execChannelPowerLost (a : At) (s : State) : Out :=
  s.run a (fun s => s.onChan a.chan Chan.powerLost)

/-- ERASE (R521). -/
def execErase (a : At) (ag : Agent) (v : Nat) (s : State) : Out :=
  s.runHpdWrite a ag SYL_CMD.off (setBits v 0 3 1)

/-- PROGRAM (R521). -/
def execProgram (a : At) (ag : Agent) (v : Nat) (s : State) : Out :=
  s.runHpdWrite a ag SYL_CMD.off (setBits v 0 3 2)

/-- FLASH_READ (R521). -/
def execFlashRead (a : At) (ag : Agent) (v : Nat) (s : State) : Out :=
  s.runHpdWrite a ag SYL_CMD.off (setBits v 0 3 3)

/-- VERIFY (R521). -/
def execVerify (a : At) (ag : Agent) (v : Nat) (s : State) : Out :=
  s.runHpdWrite a ag SYL_CMD.off (setBits v 0 3 4)

/-- FLASH_OP_DONE (R521). -/
def execFlashOpDone (a : At) (ok : Bool) (s : State) : Out :=
  s.runHpd a (fun h => h.sylDone ok)

/-- NONCE (R535). -/
def execNonce (a : At) (ag : Agent) (s : State) : Out :=
  s.runHpdWrite a ag SEC_CTL.off 1

/-- ATTEST (R533). -/
def execAttest (a : At) (ag : Agent) (s : State) : Out :=
  s.runHpdWrite a ag SEC_CTL.off 2

/-- CERT (R533). -/
def execCert (a : At) (ag : Agent) (s : State) : Out :=
  s.runHpdWrite a ag SEC_CTL.off 3

/-- UNLOCK (R535). -/
def execUnlock (a : At) (ag : Agent) (s : State) : Out :=
  s.runHpdWrite a ag SEC_CTL.off 4

/-- ENROL (R536). -/
def execEnrol (a : At) (ag : Agent) (s : State) : Out :=
  s.runHpdWrite a ag SEC_CTL.off 5

/-- REVOKE (R536). -/
def execRevoke (a : At) (ag : Agent) (s : State) : Out :=
  s.runHpdWrite a ag SEC_CTL.off 6

/-- ZEROISE (R537). -/
def execZeroise (a : At) (ag : Agent) (confirm : Nat) (s : State) : Out :=
  s.runHpdWrite a ag SEC_CTL.off (7 + confirm % 256 * 256)

/-- SELFTEST (R532). -/
def execSelftest (a : At) (ag : Agent) (s : State) : Out :=
  s.runHpdWrite a ag SEC_CTL.off 8

/-- SEC_OP_DONE (R538). -/
def execSecOpDone (a : At) (ok : Bool) (s : State) : Out :=
  s.runHpd a (fun h => h.secDone ok)

/-- ENTROPY_HEALTH_FAILURE (R532). -/
def execEntropyHealthFailure (a : At) (s : State) : Out :=
  s.runHpd a Hpd.entropyFail

end Sys2Proof.Machine
end

