-- ==== Sys2Proof/Machine/ExecMonitor.lean ====
section
/-!
DEFINITION. The monitor and telemetry over SMBus (R546 to R556).
-/
namespace Sys2Proof.Machine

/-- MON_REQ (R550). -/
def execMonReq (a : At) (s : State) : Out :=
  s.run a (fun s => s.monMail a.chan)

/-- ID (R546). -/
def execMonId (a : At) (src : MonSrc) (s : State) : Out :=
  s.run a (fun s => s.monRun a.chan src .id)

/-- RD (R547). -/
def execMonRd (a : At) (src : MonSrc) (t off : Nat) (s : State) : Out :=
  s.run a (fun s => s.monRun a.chan src (.rd t off))

/-- WR (R547). -/
def execMonWr (a : At) (src : MonSrc) (t off v : Nat) (s : State) : Out :=
  s.run a (fun s => s.monRun a.chan src (.wr t off v))

/-- LOG (R546). -/
def execMonLog (a : At) (src : MonSrc) (t i n : Nat) (s : State) : Out :=
  s.run a (fun s => s.monRun a.chan src (.log t i n))

/-- SENS (R546). -/
def execMonSens (a : At) (src : MonSrc) (s : State) : Out :=
  s.run a (fun s => s.monRun a.chan src .sens)

/-- PWR (R546). -/
def execMonPwr (a : At) (src : MonSrc) (s : State) : Out :=
  s.run a (fun s => s.monRun a.chan src .pwr)

/-- PWR_ON (R548). -/
def execMonPwrOn (a : At) (src : MonSrc) (t : Nat) (s : State) : Out :=
  s.run a (fun s => s.monRun a.chan src (.pwrOn t))

/-- PWR_OFF (R546). -/
def execMonPwrOff (a : At) (src : MonSrc) (t : Nat) (s : State) : Out :=
  s.run a (fun s => s.monRun a.chan src (.pwrOff t))

/-- BAUD (R547). -/
def execMonBaud (a : At) (src : MonSrc) (r : Nat) (s : State) : Out :=
  s.run a (fun s => s.monRun a.chan src (.baud r))

/-- SVC_HALT (R546). -/
def execSvcHalt (a : At) (src : MonSrc) (t : Nat) (s : State) : Out :=
  s.run a (fun s => s.monRun a.chan src (.svcHalt t))

/-- SVC_RUN (R546). -/
def execSvcRun (a : At) (src : MonSrc) (t : Nat) (s : State) : Out :=
  s.run a (fun s => s.monRun a.chan src (.svcRun t))

/-- SVC_REG (R546). -/
def execSvcReg (a : At) (src : MonSrc) (t n : Nat) (s : State) : Out :=
  s.run a (fun s => s.monRun a.chan src (.svcReg t n))

/-- MONITOR_SYNTAX (R546). -/
def execMonitorSyntax (a : At) (src : MonSrc) (overrun : Bool) (s : State) : Out :=
  s.run a (fun s => s.monSyntax a.chan src overrun)

/-- UART_BREAK (R546). -/
def execUartBreak (a : At) (ms : Nat) (s : State) : Out :=
  s.runHpd a (fun h => h.uartBreak ms)

/-- PWR_CTL_ON (R555). -/
def execPwrCtlOn (a : At) (ag : Agent) (t : Nat) (s : State) : Out :=
  s.runHpdWrite a ag MG_PWR_CTL.off (4 + t % 4)

/-- SET_ENDPOINT_ID (R551). -/
def execSetEndpointId (a : At) (op eid : Nat) (s : State) : Out :=
  s.runHpd a (fun h => h.setEid op eid)

/-- GET_ENDPOINT_ID (R551). -/
def execGetEndpointId (a : At) (s : State) : Out :=
  s.runHpd a Hpd.getEid

/-- GET_MCTP_VERSION_SUPPORT (R551). -/
def execGetMctpVersionSupport (a : At) (mtype : Nat) (s : State) : Out :=
  s.runHpd a (fun h => h.getVersion mtype)

/-- GET_MESSAGE_TYPE_SUPPORT (R551). -/
def execGetMessageTypeSupport (a : At) (s : State) : Out :=
  s.runHpd a Hpd.getTypes

/-- UNSUPPORTED_CONTROL_MESSAGE (R551). -/
def execUnsupportedControlMessage (a : At) (code : Nat) (s : State) : Out :=
  s.runHpd a (fun h => h.unsupported code)

/-- GET_ID (R551). -/
def execGetId (a : At) (s : State) : Out :=
  s.run a State.getId

/-- GET_SENSORS (R551). -/
def execGetSensors (a : At) (s : State) : Out :=
  s.run a State.getSensors

/-- GET_LOG (R551). -/
def execGetLog (a : At) (t i n : Nat) (s : State) : Out :=
  s.run a (fun s => s.getLog t i n)

/-- ALERT_RESPONSE (R552). -/
def execAlertResponse (a : At) (s : State) : Out :=
  s.runHpd a Hpd.alertResponse

end Sys2Proof.Machine
end

