-- ==== Sys2Proof/Machine/ExecQueue.lean ====
section
/-!
DEFINITION. The commands of the engine queues and of the host queue, their completion, and queue actions (Tables 3-4, 3-5, 3-9 and 16-5).
-/
namespace Sys2Proof.Machine

/-- QUEUE_APPEND (R63). -/
def execQueueAppend (a : At) (i : Nat) (s : State) : Out :=
  s.runCore a (fun c => c.queueAppend i)

/-- NOP (R66). -/
def execNop (a : At) (q : Nat) (s : State) : Out :=
  s.runQueue a q 0x00 specNop

/-- EVENT (R66). -/
def execEvent (a : At) (q : Nat) (s : State) : Out :=
  s.runQueue a q 0x01 specEvent

/-- LESSON_CALL (R76). -/
def execLessonCall (a : At) (q : Nat) (s : State) : Out :=
  s.runQueue a q 0x02 specCall

/-- LESSON_RET (R76). -/
def execLessonRet (a : At) (q : Nat) (s : State) : Out :=
  s.runQueue a q 0x03 specRet

/-- RETAKE_BEGIN (R137). -/
def execRetakeBegin (a : At) (q : Nat) (s : State) : Out :=
  s.runQueue a q 0x04 specRetakeBegin

/-- RETAKE_END (R143). -/
def execRetakeEnd (a : At) (q : Nat) (s : State) : Out :=
  s.runQueue a q 0x05 specRetakeEnd

/-- QCTL (R81). -/
def execQctl (a : At) (q : Nat) (s : State) : Out :=
  s.runQueue a q 0x06 specQctl

/-- COPY (R568). -/
def execCopy (a : At) (q : Nat) (s : State) : Out :=
  s.runQueue a q 0x20 specCopy

/-- DELIVER (R567). -/
def execDeliver (a : At) (q : Nat) (s : State) : Out :=
  s.runQueue a q 0x21 specDeliver

/-- ATOMIC (R56). -/
def execAtomic (a : At) (q : Nat) (s : State) : Out :=
  s.runQueue a q 0x22 specAtomic

/-- FENCE (R54). -/
def execFence (a : At) (q : Nat) (s : State) : Out :=
  s.runQueue a q 0x23 specFence

/-- REG_WR (R567). -/
def execRegWr (a : At) (q : Nat) (s : State) : Out :=
  s.runQueue a q 0x24 specRegWr

/-- REG_RD (R567). -/
def execRegRd (a : At) (q : Nat) (s : State) : Out :=
  s.runQueue a q 0x25 specRegRd

/-- RDMA (R457). -/
def execRdma (a : At) (q : Nat) (s : State) : Out :=
  s.runQueue a q 0x26 specRdma

/-- ME_LOADW (R99). -/
def execMeLoadw (a : At) (q : Nat) (s : State) : Out :=
  s.runQueue a q 0x10 specLoadw

/-- ME_PASS (R100). -/
def execMePass (a : At) (q : Nat) (s : State) : Out :=
  s.runQueue a q 0x11 specPass

/-- ME_DRAIN (R128). -/
def execMeDrain (a : At) (q : Nat) (s : State) : Out :=
  s.runQueue a q 0x12 specMeDrain

/-- ME_ACC_CLEAR (R109). -/
def execMeAccClear (a : At) (q : Nat) (s : State) : Out :=
  s.runQueue a q 0x13 specAccClear

/-- ME_ACC_EXPORT (R127). -/
def execMeAccExport (a : At) (q : Nat) (s : State) : Out :=
  s.runQueue a q 0x14 specAccExport

/-- VE_OP (R169). -/
def execVeOp (a : At) (q : Nat) (s : State) : Out :=
  s.runQueue a q 0x30 specVeOp

/-- VE_FUNC (R180). -/
def execVeFunc (a : At) (q : Nat) (s : State) : Out :=
  s.runQueue a q 0x31 specVeFunc

/-- VE_COMPRESS (R177). -/
def execVeCompress (a : At) (q : Nat) (s : State) : Out :=
  s.runQueue a q 0x32 specCompress

/-- VE_EXPAND (R178). -/
def execVeExpand (a : At) (q : Nat) (s : State) : Out :=
  s.runQueue a q 0x33 specExpand

/-- VE_SETVL (R166). -/
def execVeSetvl (a : At) (q : Nat) (s : State) : Out :=
  s.runQueue a q 0x34 specSetvl

/-- UU_UPDATE (R271). -/
def execUuUpdate (a : At) (q : Nat) (s : State) : Out :=
  s.runQueue a q 0x40 specUuUpdate

/-- UU_DERIVE (R280). -/
def execUuDerive (a : At) (q : Nat) (s : State) : Out :=
  s.runQueue a q 0x41 specDerive

/-- CE_RS (R296). -/
def execCeRs (a : At) (q : Nat) (s : State) : Out :=
  s.runQueue a q 0x50 specCeCmd

/-- CE_AG (R297). -/
def execCeAg (a : At) (q : Nat) (s : State) : Out :=
  s.runQueue a q 0x51 specCeCmd

/-- CE_AR (R298). -/
def execCeAr (a : At) (q : Nat) (s : State) : Out :=
  s.runQueue a q 0x52 specCeCmd

/-- HQ_FORWARD (R432). -/
def execHqForward (a : At) (s : State) : Out :=
  s.runQueue a 0x80 0x60 specForward

/-- HQ_WRITE (R432). -/
def execHqWrite (a : At) (s : State) : Out :=
  s.runQueue a 0x80 0x61 specHqWrite

/-- HQ_DMA (R432). -/
def execHqDma (a : At) (s : State) : Out :=
  s.runQueue a 0x80 0x62 specHqDma

/-- HQ_RESULT (R434). -/
def execHqResult (a : At) (s : State) : Out :=
  s.runQueue a 0x80 0x63 specHqResult

/-- HQ_FLAG (R432). -/
def execHqFlag (a : At) (s : State) : Out :=
  s.runQueue a 0x80 0x64 specHqFlag

/-- COMMAND_COMPLETE (R51). -/
def execCommandComplete (a : At) (q i : Nat) (s : State) : Out :=
  s.runIf a (fun c => c.queueOn q) (fun c => c.commandComplete q i)

/-- TOKEN_TIMEOUT (R73). -/
def execTokenTimeout (a : At) (q : Nat) (s : State) : Out :=
  s.runIf a (fun c => c.queueOn q) (fun c => c.tokenTimeout q)

/-- Q_RESUME (R81). -/
def execQResume (a : At) (ag : Agent) (q : Nat) (s : State) : Out :=
  if queueId q then s.runWrite a ag (Q_CTL.off q) 1 else s.run a id

/-- Q_HALT (R81). -/
def execQHalt (a : At) (ag : Agent) (q : Nat) (s : State) : Out :=
  if queueId q then s.runWrite a ag (Q_CTL.off q) 2 else s.run a id

/-- Q_DRAIN (R81). -/
def execQDrain (a : At) (ag : Agent) (q : Nat) (s : State) : Out :=
  if queueId q then s.runWrite a ag (Q_CTL.off q) 4 else s.run a id

/-- Q_FLUSH (R81). -/
def execQFlush (a : At) (ag : Agent) (q : Nat) (s : State) : Out :=
  if queueId q then s.runWrite a ag (Q_CTL.off q) 8 else s.run a id

/-- Q_SKIP (R83). -/
def execQSkip (a : At) (ag : Agent) (q : Nat) (s : State) : Out :=
  if queueId q then s.runWrite a ag (Q_CTL.off q) 0x11 else s.run a id

/-- Q_DEPTH_WRITE (R87). -/
def execQDepthWrite (a : At) (ag : Agent) (q v : Nat) (s : State) : Out :=
  if queueId q then s.runWrite a ag (Q_DEPTH.off q) v else s.run a id

/-- RETAKE_RESOLVE (R143). -/
def execRetakeResolve (a : At) (n : Nat) (s : State) : Out :=
  s.runCore a (fun c => c.rtkResolve n)

/-- RTK_ABORT (R146). -/
def execRtkAbort (a : At) (ag : Agent) (n : Nat) (s : State) : Out :=
  s.run a (fun s => s.write a.chan ag (CH_RTK_CTL.off (n % 16)) (setBits ((s.chan a.chan).rd (CH_RTK_CTL.off (n % 16))) 32 1 1))

/-- RETAKE_ABORTED (R146). -/
def execRetakeAborted (a : At) (n : Nat) (s : State) : Out :=
  s.runCore a (fun c => c.rtkAborted n)

end Sys2Proof.Machine
end

