-- ==== Sys2Proof/Machine/ExecStart.lean ====
section
/-!
DEFINITION. Start-up, roll call, failures and recovery (R378 to R420).
-/
namespace Sys2Proof.Machine

/-- CHANNEL_RESET (R381). -/
def execChannelReset (a : At) (s : State) : Out :=
  s.run a (fun s => if (s.chan a.chan).homeOn then s.channelReset a.chan else s)

/-- SECTION_LOAD (R518). -/
def execSectionLoad (a : At) (s : State) : Out :=
  s.run a (fun s => s.onChan a.chan (fun c => if c.homeOn then c.sectionLoad s.hpd else c))

/-- BASE_DIE_READY (R384). -/
def execBaseDieReady (a : At) (sp hbm : Bool) (s : State) : Out :=
  s.runHome a (fun c => c.baseDieReady sp hbm)

/-- COMPUTE_POWER_ON (R384). -/
def execComputePowerOn (a : At) (s : State) : Out :=
  s.runHome a (fun c => c.computePowerOn)

/-- COMPUTE_SELF_TEST (R384). -/
def execComputeSelfTest (a : At) (svc ok : Bool) (s : State) : Out :=
  s.runHome a (fun c => c.computeSelfTest svc ok)

/-- NEIGHBOUR (R390). -/
def execNeighbour (a : At) (p vc : Nat) (s : State) : Out :=
  s.runFab a (fun c => c.neighbour p vc)

/-- NEIGHBOUR_TIMEOUT (R387). -/
def execNeighbourTimeout (a : At) (p : Nat) (s : State) : Out :=
  s.runHome a (fun c => c.neighbourTimeout p)

/-- LAP_START (R393). -/
def execLapStart (a : At) (axis : Nat) (s : State) : Out :=
  s.runHome a (fun c => c.lapStart axis)

/-- COLLECT (R393). -/
def execCollect (a : At) (p vc : Nat) (s : State) : Out :=
  s.runFab a (fun c => c.collect p vc)

/-- COLLECT_RELEASE (R392). -/
def execCollectRelease (a : At) (axis i : Nat) (s : State) : Out :=
  s.runHome a (fun c => c.collectRelease axis i)

/-- HOLD_LIMIT (R392). -/
def execHoldLimit (a : At) (axis i : Nat) (s : State) : Out :=
  s.runHome a (fun c => c.holdLimitAt axis i)

/-- CONFIRM (R392). -/
def execConfirm (a : At) (p vc : Nat) (s : State) : Out :=
  s.runFab a (fun c => c.confirm p vc)

/-- REPORT (R394). -/
def execReport (a : At) (p vc : Nat) (s : State) : Out :=
  s.runFab a (fun c => c.report p vc)

/-- LEADER_TIMEOUT (R394). -/
def execLeaderTimeout (a : At) (s : State) : Out :=
  s.runHome a (fun c => c.leaderTimeout)

/-- ROLLCALL_ALT_TIMEOUT (R394). -/
def execRollcallAltTimeout (a : At) (s : State) : Out :=
  s.runHome a (fun c => c.rollAltTimeout)

/-- ALL_PRESENT (R395). -/
def execAllPresent (a : At) (p vc : Nat) (s : State) : Out :=
  s.runFab a (fun c => c.allPresent p vc)

/-- HEARTBEAT_SEND (R402). -/
def execHeartbeatSend (a : At) (s : State) : Out :=
  s.runHome a (fun c => c.heartbeatSend)

/-- HEARTBEAT (R402). -/
def execHeartbeat (a : At) (p vc : Nat) (s : State) : Out :=
  s.runFab a (fun c => c.heartbeat p vc)

/-- HB_TICK (R403). -/
def execHbTick (a : At) (s : State) : Out :=
  s.runHome a (fun c => c.hbTicks)

/-- VACATE (R404). -/
def execVacate (a : At) (ag : Agent) (s : State) : Out :=
  s.runWrite a ag HR_RECOV_CTL.off 1

/-- FENCE_POWERDOWN (R405). -/
def execFencePowerdown (a : At) (s : State) : Out :=
  s.runHome a (fun c => c.fencePowerdown)

/-- SUSPECT (R404). -/
def execSuspect (a : At) (p vc : Nat) (s : State) : Out :=
  s.runFab a (fun c => c.suspect p vc)

/-- NOTICE (R406). -/
def execNotice (a : At) (p vc : Nat) (s : State) : Out :=
  s.runFab a (fun c => c.notice p vc)

/-- CALL (R408). -/
def execCall (a : At) (p vc : Nat) (s : State) : Out :=
  s.runFab a (fun c => c.called p vc)

/-- ACCEPT (R409). -/
def execAccept (a : At) (p vc : Nat) (s : State) : Out :=
  s.runFab a (fun c => c.accept p vc)

/-- REFUSE (R407). -/
def execRefuse (a : At) (p vc : Nat) (s : State) : Out :=
  s.runFab a (fun c => c.refused p vc)

/-- CALL_TIMEOUT (R407). -/
def execCallTimeout (a : At) (s : State) : Out :=
  s.runHome a (fun c => c.callTimeout)

/-- RECOVERY_ALT_TIMEOUT (R406). -/
def execRecoveryAltTimeout (a : At) (s : State) : Out :=
  s.runHome a (fun c => c.recoveryAltTimeout)

/-- CLAIM_TIMEOUT (R408). -/
def execClaimTimeout (a : At) (s : State) : Out :=
  s.runHome a (fun c => c.claimTimeout)

/-- RECOVER (R409). -/
def execRecover (a : At) (p vc : Nat) (s : State) : Out :=
  s.runFab a (fun c => c.recover p vc)

/-- RECOVER_HOLD_EXPIRY (R409). -/
def execRecoverHoldExpiry (a : At) (s : State) : Out :=
  s.runHome a (fun c => c.recoverHoldExpiry)

/-- UP (R411). -/
def execUp (a : At) (p vc : Nat) (s : State) : Out :=
  s.runFab a (fun c => c.upArrives p vc)

/-- CHART (R411). -/
def execChart (a : At) (p vc : Nat) (s : State) : Out :=
  s.runFab a (fun c => c.chartArrives p vc)

/-- BOOTSTRAP (R528). -/
def execBootstrap (a : At) (s : State) : Out :=
  s.run a (fun s => s.onChan a.chan (fun c => if c.homeOn then c.bsBegin (s.hpd.may 6) else c))

/-- BOOTSTRAP_RETRY (R528). -/
def execBootstrapRetry (a : At) (s : State) : Out :=
  s.runHome a (fun c => c.bsRetry)

end Sys2Proof.Machine
end

