-- ==== Sys2Proof/Machine/Dispatch.lean ====
section
/-!
DEFINITION. The dispatch of commands to their meanings: one arm per constructor of `Instr`.
-/
namespace Sys2Proof.Machine

def exec (i : Instr) (s : State) : Host.Outcome State Fault Refusal :=
  match i with
  | .eraserRead a sp => Sys2Proof.Machine.execEraserRead a sp s
  | .clrCorr a ag sp => Sys2Proof.Machine.execClrCorr a ag sp s
  | .hostWindowRead a off len => Sys2Proof.Machine.execHostWindowRead a off len s
  | .hostWindowWrite a off data => Sys2Proof.Machine.execHostWindowWrite a off data s
  | .registerWrite a ag off val => Sys2Proof.Machine.execRegisterWrite a ag off val s
  | .queueAppend a x => Sys2Proof.Machine.execQueueAppend a x s
  | .nop a q => Sys2Proof.Machine.execNop a q s
  | .event a q => Sys2Proof.Machine.execEvent a q s
  | .lessonCall a q => Sys2Proof.Machine.execLessonCall a q s
  | .lessonRet a q => Sys2Proof.Machine.execLessonRet a q s
  | .retakeBegin a q => Sys2Proof.Machine.execRetakeBegin a q s
  | .retakeEnd a q => Sys2Proof.Machine.execRetakeEnd a q s
  | .qctl a q => Sys2Proof.Machine.execQctl a q s
  | .copy a q => Sys2Proof.Machine.execCopy a q s
  | .deliver a q => Sys2Proof.Machine.execDeliver a q s
  | .atomic a q => Sys2Proof.Machine.execAtomic a q s
  | .fence a q => Sys2Proof.Machine.execFence a q s
  | .regWr a q => Sys2Proof.Machine.execRegWr a q s
  | .regRd a q => Sys2Proof.Machine.execRegRd a q s
  | .rdma a q => Sys2Proof.Machine.execRdma a q s
  | .meLoadw a q => Sys2Proof.Machine.execMeLoadw a q s
  | .mePass a q => Sys2Proof.Machine.execMePass a q s
  | .meDrain a q => Sys2Proof.Machine.execMeDrain a q s
  | .meAccClear a q => Sys2Proof.Machine.execMeAccClear a q s
  | .meAccExport a q => Sys2Proof.Machine.execMeAccExport a q s
  | .veOp a q => Sys2Proof.Machine.execVeOp a q s
  | .veFunc a q => Sys2Proof.Machine.execVeFunc a q s
  | .veCompress a q => Sys2Proof.Machine.execVeCompress a q s
  | .veExpand a q => Sys2Proof.Machine.execVeExpand a q s
  | .veSetvl a q => Sys2Proof.Machine.execVeSetvl a q s
  | .uuUpdate a q => Sys2Proof.Machine.execUuUpdate a q s
  | .uuDerive a q => Sys2Proof.Machine.execUuDerive a q s
  | .ceRs a q => Sys2Proof.Machine.execCeRs a q s
  | .ceAg a q => Sys2Proof.Machine.execCeAg a q s
  | .ceAr a q => Sys2Proof.Machine.execCeAr a q s
  | .hqForward a => Sys2Proof.Machine.execHqForward a s
  | .hqWrite a => Sys2Proof.Machine.execHqWrite a s
  | .hqDma a => Sys2Proof.Machine.execHqDma a s
  | .hqResult a => Sys2Proof.Machine.execHqResult a s
  | .hqFlag a => Sys2Proof.Machine.execHqFlag a s
  | .commandComplete a q x => Sys2Proof.Machine.execCommandComplete a q x s
  | .tokenTimeout a q => Sys2Proof.Machine.execTokenTimeout a q s
  | .qResume a ag q => Sys2Proof.Machine.execQResume a ag q s
  | .qHalt a ag q => Sys2Proof.Machine.execQHalt a ag q s
  | .qDrain a ag q => Sys2Proof.Machine.execQDrain a ag q s
  | .qFlush a ag q => Sys2Proof.Machine.execQFlush a ag q s
  | .qSkip a ag q => Sys2Proof.Machine.execQSkip a ag q s
  | .qDepthWrite a ag q v => Sys2Proof.Machine.execQDepthWrite a ag q v s
  | .tokenWrite a ag x v => Sys2Proof.Machine.execTokenWrite a ag x v s
  | .chTokInc a ag v => Sys2Proof.Machine.execChTokInc a ag v s
  | .loadTransfer a k => Sys2Proof.Machine.execLoadTransfer a k s
  | .rowAdmit a k arr => Sys2Proof.Machine.execRowAdmit a k arr s
  | .accWrite a k p row col => Sys2Proof.Machine.execAccWrite a k p row col s
  | .rampUp a k => Sys2Proof.Machine.execRampUp a k s
  | .rampDown a k => Sys2Proof.Machine.execRampDown a k s
  | .fsGrant a k => Sys2Proof.Machine.execFsGrant a k s
  | .counterClear a ag off => Sys2Proof.Machine.execCounterClear a ag off s
  | .retakeResolve a n => Sys2Proof.Machine.execRetakeResolve a n s
  | .rtkAbort a ag n => Sys2Proof.Machine.execRtkAbort a ag n s
  | .retakeAborted a n => Sys2Proof.Machine.execRetakeAborted a n s
  | .rptClrOne a ag t => Sys2Proof.Machine.execRptClrOne a ag t s
  | .rptClrAll a ag => Sys2Proof.Machine.execRptClrAll a ag s
  | .rptSnap a ag v => Sys2Proof.Machine.execRptSnap a ag v s
  | .e2ModeWrite a ag v => Sys2Proof.Machine.execE2ModeWrite a ag v s
  | .cmdPush a h => Sys2Proof.Machine.execCmdPush a h s
  | .tokAdd a h => Sys2Proof.Machine.execTokAdd a h s
  | .tokWait a h => Sys2Proof.Machine.execTokWait a h s
  | .tokWaitSatisfied a h => Sys2Proof.Machine.execTokWaitSatisfied a h s
  | .sumRd a h => Sys2Proof.Machine.execSumRd a h s
  | .evtRaise a h => Sys2Proof.Machine.execEvtRaise a h s
  | .xfence a h => Sys2Proof.Machine.execXfence a h s
  | .cmoClean a h => Sys2Proof.Machine.execCmoClean a h s
  | .cmoInv a h => Sys2Proof.Machine.execCmoInv a h s
  | .cmoFlush a h => Sys2Proof.Machine.execCmoFlush a h s
  | .fenceI a h => Sys2Proof.Machine.execFenceI a h s
  | .coreLoad a h => Sys2Proof.Machine.execCoreLoad a h s
  | .coreStore a h => Sys2Proof.Machine.execCoreStore a h s
  | .coreAmo a h => Sys2Proof.Machine.execCoreAmo a h s
  | .coreInstruction a h => Sys2Proof.Machine.execCoreInstruction a h s
  | .cacheEviction a h line => Sys2Proof.Machine.execCacheEviction a h line s
  | .interrupt a h => Sys2Proof.Machine.execInterrupt a h s
  | .scRun a ag h => Sys2Proof.Machine.execScRun a ag h s
  | .scStop a ag h => Sys2Proof.Machine.execScStop a ag h s
  | .scReset a ag h => Sys2Proof.Machine.execScReset a ag h s
  | .wdogKick a ag h => Sys2Proof.Machine.execWdogKick a ag h s
  | .wdogExpired a h => Sys2Proof.Machine.execWdogExpired a h s
  | .svcWdogExpiry a => Sys2Proof.Machine.execSvcWdogExpiry a s
  | .cicAck a ag t src => Sys2Proof.Machine.execCicAck a ag t src s
  | .cicEoi a ag t => Sys2Proof.Machine.execCicEoi a ag t s
  | .cicSrcWrite a ag n v => Sys2Proof.Machine.execCicSrcWrite a ag n v s
  | .cicSwsrcSet a ag v => Sys2Proof.Machine.execCicSwsrcSet a ag v s
  | .cicSwsrcClr a ag v => Sys2Proof.Machine.execCicSwsrcClr a ag v s
  | .pstateRequest a ag v => Sys2Proof.Machine.execPstateRequest a ag v s
  | .idleEntry a => Sys2Proof.Machine.execIdleEntry a s
  | .pstateEntryDone a => Sys2Proof.Machine.execPstateEntryDone a s
  | .wake a => Sys2Proof.Machine.execWake a s
  | .pstateExitDone a => Sys2Proof.Machine.execPstateExitDone a s
  | .bindSlot a ag sl => Sys2Proof.Machine.execBindSlot a ag sl s
  | .startSlot a ag sl => Sys2Proof.Machine.execStartSlot a ag sl s
  | .drainSlot a ag sl => Sys2Proof.Machine.execDrainSlot a ag sl s
  | .unbindSlot a ag sl => Sys2Proof.Machine.execUnbindSlot a ag sl s
  | .abandonSlot a ag sl => Sys2Proof.Machine.execAbandonSlot a ag sl s
  | .discardF a ag sl => Sys2Proof.Machine.execDiscardF a ag sl s
  | .discardB a ag sl => Sys2Proof.Machine.execDiscardB a ag sl s
  | .deliverData a p vc => Sys2Proof.Machine.execDeliverData a p vc s
  | .deliverDesc a p vc => Sys2Proof.Machine.execDeliverDesc a p vc s
  | .deliverX a p vc => Sys2Proof.Machine.execDeliverX a p vc s
  | .launch a sl => Sys2Proof.Machine.execLaunch a sl s
  | .staleDiscard a sl bwd => Sys2Proof.Machine.execStaleDiscard a sl bwd s
  | .descFault a sl bwd => Sys2Proof.Machine.execDescFault a sl bwd s
  | .launchComplete a sl x => Sys2Proof.Machine.execLaunchComplete a sl x s
  | .offloadCopyDone a sl r => Sys2Proof.Machine.execOffloadCopyDone a sl r s
  | .pass a p vc => Sys2Proof.Machine.execPass a p vc s
  | .vsPub a ag sl v => Sys2Proof.Machine.execVsPub a ag sl v s
  | .vsRetired a sl k => Sys2Proof.Machine.execVsRetired a sl k s
  | .blockCommit a x => Sys2Proof.Machine.execBlockCommit a x s
  | .ceGrpCfgWrite a ag g v => Sys2Proof.Machine.execCeGrpCfgWrite a ag g v s
  | .ceAbandon a ag g => Sys2Proof.Machine.execCeAbandon a ag g s
  | .cePartial a p vc => Sys2Proof.Machine.execCePartial a p vc s
  | .attendance a p vc => Sys2Proof.Machine.execAttendance a p vc s
  | .deadlineExpiry a g b => Sys2Proof.Machine.execDeadlineExpiry a g b s
  | .gbClr a ag g => Sys2Proof.Machine.execGbClr a ag g s
  | .termStart a ag v => Sys2Proof.Machine.execTermStart a ag v s
  | .termDrainEnd a => Sys2Proof.Machine.execTermDrainEnd a s
  | .termDrainTimeout a => Sys2Proof.Machine.execTermDrainTimeout a s
  | .flit a p bytes => Sys2Proof.Machine.execFlit a p bytes s
  | .nak a p lseq => Sys2Proof.Machine.execNak a p lseq s
  | .laneSwap a p lane spare => Sys2Proof.Machine.execLaneSwap a p lane spare s
  | .laneSpared a p lane lock corr => Sys2Proof.Machine.execLaneSpared a p lane lock corr s
  | .cap a p bytes => Sys2Proof.Machine.execCap a p bytes s
  | .retrain a p => Sys2Proof.Machine.execRetrain a p s
  | .ivRetrain a ag p => Sys2Proof.Machine.execIvRetrain a ag p s
  | .ivDisable a ag p v => Sys2Proof.Machine.execIvDisable a ag p v s
  | .linkUp a p rtt => Sys2Proof.Machine.execLinkUp a p rtt s
  | .linkDown a p => Sys2Proof.Machine.execLinkDown a p s
  | .read a p vc => Sys2Proof.Machine.execRead a p vc s
  | .write a p vc => Sys2Proof.Machine.execWrite a p vc s
  | .atomicRequest a p vc => Sys2Proof.Machine.execAtomicRequest a p vc s
  | .readData a p vc => Sys2Proof.Machine.execReadData a p vc s
  | .writeAck a p vc => Sys2Proof.Machine.execWriteAck a p vc s
  | .atomicData a p vc => Sys2Proof.Machine.execAtomicData a p vc s
  | .errorResp a p vc => Sys2Proof.Machine.execErrorResp a p vc s
  | .respTimeout a tid => Sys2Proof.Machine.execRespTimeout a tid s
  | .brk a p vc => Sys2Proof.Machine.execBrk a p vc s
  | .mend a p vc => Sys2Proof.Machine.execMend a p vc s
  | .heartbeatSend a => Sys2Proof.Machine.execHeartbeatSend a s
  | .heartbeat a p vc => Sys2Proof.Machine.execHeartbeat a p vc s
  | .hbTick a => Sys2Proof.Machine.execHbTick a s
  | .powerGood a selftest => Sys2Proof.Machine.execPowerGood a selftest s
  | .syllabusVerified a => Sys2Proof.Machine.execSyllabusVerified a s
  | .channelReset a => Sys2Proof.Machine.execChannelReset a s
  | .sectionLoad a => Sys2Proof.Machine.execSectionLoad a s
  | .baseDieReady a sp hbm => Sys2Proof.Machine.execBaseDieReady a sp hbm s
  | .computePowerOn a => Sys2Proof.Machine.execComputePowerOn a s
  | .computeSelfTest a svc ok => Sys2Proof.Machine.execComputeSelfTest a svc ok s
  | .trainingTimeout a p => Sys2Proof.Machine.execTrainingTimeout a p s
  | .neighbour a p vc => Sys2Proof.Machine.execNeighbour a p vc s
  | .neighbourTimeout a p => Sys2Proof.Machine.execNeighbourTimeout a p s
  | .lapStart a axis => Sys2Proof.Machine.execLapStart a axis s
  | .collect a p vc => Sys2Proof.Machine.execCollect a p vc s
  | .collectRelease a axis x => Sys2Proof.Machine.execCollectRelease a axis x s
  | .holdLimit a axis x => Sys2Proof.Machine.execHoldLimit a axis x s
  | .confirm a p vc => Sys2Proof.Machine.execConfirm a p vc s
  | .report a p vc => Sys2Proof.Machine.execReport a p vc s
  | .leaderTimeout a => Sys2Proof.Machine.execLeaderTimeout a s
  | .rollcallAltTimeout a => Sys2Proof.Machine.execRollcallAltTimeout a s
  | .allPresent a p vc => Sys2Proof.Machine.execAllPresent a p vc s
  | .vacate a ag => Sys2Proof.Machine.execVacate a ag s
  | .fencePowerdown a => Sys2Proof.Machine.execFencePowerdown a s
  | .suspect a p vc => Sys2Proof.Machine.execSuspect a p vc s
  | .notice a p vc => Sys2Proof.Machine.execNotice a p vc s
  | .call a p vc => Sys2Proof.Machine.execCall a p vc s
  | .accept a p vc => Sys2Proof.Machine.execAccept a p vc s
  | .refuse a p vc => Sys2Proof.Machine.execRefuse a p vc s
  | .callTimeout a => Sys2Proof.Machine.execCallTimeout a s
  | .recoveryAltTimeout a => Sys2Proof.Machine.execRecoveryAltTimeout a s
  | .claimTimeout a => Sys2Proof.Machine.execClaimTimeout a s
  | .recover a p vc => Sys2Proof.Machine.execRecover a p vc s
  | .recoverHoldExpiry a => Sys2Proof.Machine.execRecoverHoldExpiry a s
  | .up a p vc => Sys2Proof.Machine.execUp a p vc s
  | .chart a p vc => Sys2Proof.Machine.execChart a p vc s
  | .doorbell a v => Sys2Proof.Machine.execDoorbell a v s
  | .bootLoad a => Sys2Proof.Machine.execBootLoad a s
  | .monReq a => Sys2Proof.Machine.execMonReq a s
  | .mbAck a => Sys2Proof.Machine.execMbAck a s
  | .hostLinkLost a cause => Sys2Proof.Machine.execHostLinkLost a cause s
  | .ltssmRecoveryTimeout a => Sys2Proof.Machine.execLtssmRecoveryTimeout a s
  | .hostLinkUp a cxl width speed => Sys2Proof.Machine.execHostLinkUp a cxl width speed s
  | .hostWriteAccept a => Sys2Proof.Machine.execHostWriteAccept a s
  | .qpStateWrite a ag q v => Sys2Proof.Machine.execQpStateWrite a ag q v s
  | .rdmaReadRequest a q psn va key len ce => Sys2Proof.Machine.execRdmaReadRequest a q psn va key len ce s
  | .rdmaWriteRequest a q psn va key data ce => Sys2Proof.Machine.execRdmaWriteRequest a q psn va key data ce s
  | .rdmaSend a q psn data ce => Sys2Proof.Machine.execRdmaSend a q psn data ce s
  | .readResponse a q psn data ce => Sys2Proof.Machine.execReadResponse a q psn data ce s
  | .roceAck a q psn ce => Sys2Proof.Machine.execRoceAck a q psn ce s
  | .roceNak a q psn syn ce => Sys2Proof.Machine.execRoceNak a q psn syn ce s
  | .ackTimeout a q => Sys2Proof.Machine.execAckTimeout a q s
  | .cnp a q => Sys2Proof.Machine.execCnp a q s
  | .rateIncrease a q => Sys2Proof.Machine.execRateIncrease a q s
  | .pfc a prios quanta => Sys2Proof.Machine.execPfc a prios quanta s
  | .xoffRefresh a => Sys2Proof.Machine.execXoffRefresh a s
  | .arpRequest a smac sip tip => Sys2Proof.Machine.execArpRequest a smac sip tip s
  | .neighborSolicitation a smac sip tip => Sys2Proof.Machine.execNeighborSolicitation a smac sip tip s
  | .enLinkUp a => Sys2Proof.Machine.execEnLinkUp a s
  | .enLinkDown a => Sys2Proof.Machine.execEnLinkDown a s
  | .ucRetrain a ag => Sys2Proof.Machine.execUcRetrain a ag s
  | .ucRetryLimit a => Sys2Proof.Machine.execUcRetryLimit a s
  | .ucCap a ver gen rate => Sys2Proof.Machine.execUcCap a ver gen rate s
  | .ucMap a map => Sys2Proof.Machine.execUcMap a map s
  | .ucSel a width part chk => Sys2Proof.Machine.execUcSel a width part chk s
  | .ucExchangeTimeout a => Sys2Proof.Machine.execUcExchangeTimeout a s
  | .ucLinkUp a => Sys2Proof.Machine.execUcLinkUp a s
  | .ucLinkDown a => Sys2Proof.Machine.execUcLinkDown a s
  | .clockFault a root => Sys2Proof.Machine.execClockFault a root s
  | .refReturn a => Sys2Proof.Machine.execRefReturn a s
  | .thermSample a t => Sys2Proof.Machine.execThermSample a t s
  | .thermStep a => Sys2Proof.Machine.execThermStep a s
  | .pwrgdFall a => Sys2Proof.Machine.execPwrgdFall a s
  | .pwrgdGlitch a us => Sys2Proof.Machine.execPwrgdGlitch a us s
  | .converterOff a cause => Sys2Proof.Machine.execConverterOff a cause s
  | .envSample a vin iin tin flow => Sys2Proof.Machine.execEnvSample a vin iin tin flow s
  | .erase a ag v => Sys2Proof.Machine.execErase a ag v s
  | .program a ag v => Sys2Proof.Machine.execProgram a ag v s
  | .flashRead a ag v => Sys2Proof.Machine.execFlashRead a ag v s
  | .verify a ag v => Sys2Proof.Machine.execVerify a ag v s
  | .flashOpDone a ok => Sys2Proof.Machine.execFlashOpDone a ok s
  | .nonce a ag => Sys2Proof.Machine.execNonce a ag s
  | .attest a ag => Sys2Proof.Machine.execAttest a ag s
  | .cert a ag => Sys2Proof.Machine.execCert a ag s
  | .unlock a ag => Sys2Proof.Machine.execUnlock a ag s
  | .enrol a ag => Sys2Proof.Machine.execEnrol a ag s
  | .revoke a ag => Sys2Proof.Machine.execRevoke a ag s
  | .zeroise a ag confirm => Sys2Proof.Machine.execZeroise a ag confirm s
  | .selftest a ag => Sys2Proof.Machine.execSelftest a ag s
  | .secOpDone a ok => Sys2Proof.Machine.execSecOpDone a ok s
  | .bootstrap a => Sys2Proof.Machine.execBootstrap a s
  | .bootstrapRetry a => Sys2Proof.Machine.execBootstrapRetry a s
  | .monId a src => Sys2Proof.Machine.execMonId a src s
  | .monRd a src t off => Sys2Proof.Machine.execMonRd a src t off s
  | .monWr a src t off v => Sys2Proof.Machine.execMonWr a src t off v s
  | .monLog a src t x n => Sys2Proof.Machine.execMonLog a src t x n s
  | .monSens a src => Sys2Proof.Machine.execMonSens a src s
  | .monPwr a src => Sys2Proof.Machine.execMonPwr a src s
  | .monPwrOn a src t => Sys2Proof.Machine.execMonPwrOn a src t s
  | .monPwrOff a src t => Sys2Proof.Machine.execMonPwrOff a src t s
  | .monBaud a src r => Sys2Proof.Machine.execMonBaud a src r s
  | .svcHalt a src t => Sys2Proof.Machine.execSvcHalt a src t s
  | .svcRun a src t => Sys2Proof.Machine.execSvcRun a src t s
  | .svcReg a src t n => Sys2Proof.Machine.execSvcReg a src t n s
  | .uartBreak a ms => Sys2Proof.Machine.execUartBreak a ms s
  | .pwrCtlOn a ag t => Sys2Proof.Machine.execPwrCtlOn a ag t s
  | .setEndpointId a op eid => Sys2Proof.Machine.execSetEndpointId a op eid s
  | .getEndpointId a => Sys2Proof.Machine.execGetEndpointId a s
  | .getMctpVersionSupport a mtype => Sys2Proof.Machine.execGetMctpVersionSupport a mtype s
  | .getMessageTypeSupport a => Sys2Proof.Machine.execGetMessageTypeSupport a s
  | .getId a => Sys2Proof.Machine.execGetId a s
  | .getSensors a => Sys2Proof.Machine.execGetSensors a s
  | .getLog a t x n => Sys2Proof.Machine.execGetLog a t x n s
  | .alertResponse a => Sys2Proof.Machine.execAlertResponse a s
  | .logIdxWrite a ag mg v => Sys2Proof.Machine.execLogIdxWrite a ag mg v s
  | .peerTraining a p => Sys2Proof.Machine.execPeerTraining a p s
  | .retrainFailed a p => Sys2Proof.Machine.execRetrainFailed a p s
  | .ucTrainingFailed a => Sys2Proof.Machine.execUcTrainingFailed a s
  | .hostReadCompletion a x data => Sys2Proof.Machine.execHostReadCompletion a x data s
  | .hostConfigurationWrite a w => Sys2Proof.Machine.execHostConfigurationWrite a w s
  | .slotConfigWrite a ag off v => Sys2Proof.Machine.execSlotConfigWrite a ag off v s
  | .contextConfigWrite a ag off v => Sys2Proof.Machine.execContextConfigWrite a ag off v s
  | .converterOn a => Sys2Proof.Machine.execConverterOn a s
  | .channelPowerLost a => Sys2Proof.Machine.execChannelPowerLost a s
  | .entropyHealthFailure a => Sys2Proof.Machine.execEntropyHealthFailure a s
  | .discardedFrame a => Sys2Proof.Machine.execDiscardedFrame a s
  | .reservedPacket a p vc => Sys2Proof.Machine.execReservedPacket a p vc s
  | .monitorSyntax a src overrun => Sys2Proof.Machine.execMonitorSyntax a src overrun s
  | .unsupportedControlMessage a code => Sys2Proof.Machine.execUnsupportedControlMessage a code s
  | .pauseExpiry a => Sys2Proof.Machine.execPauseExpiry a s

end Sys2Proof.Machine
end

