-- ==== Sys2Proof/WellFormed.lean ====
section
/-!
DEFINITION. Well-formed commands: every operand lies in the range that the manual gives what it names.  The machine is total and
does not rely on it: a command that names nothing (a slot above 7, a port above 5) has no effect.
-/
namespace Sys2Proof

/-- Table 3-1: matrix engines 0x00 to 0x0F, vector engines 0x10 to 0x13, update unit 0x14, transfer engines 0x18 to 0x1F,
collective engine 0x20. -/
def isEngine (q : Nat) : Bool := q ≤ 0x14 || (0x18 ≤ q && q ≤ 0x20)

/-- A queue: an engine's, or the host queue 0x80 (Table 3-1). -/
def isQueue (q : Nat) : Bool := isEngine q || q == 0x80

/-- A matrix engine ME0 to ME15 (R93). -/
def isMatrix (k : Nat) : Bool := k < 16

/-- A core: SC0 to SC3 and the service core (R190); the stage cores alone. -/
def isCore (h : Nat) : Bool := h ≤ 4
def isStage (h : Nat) : Bool := h < 4

/-- A CIC target (R213). -/
def isTarget (t : Nat) : Bool := t < 6

/-- A stage slot (R232); a collective context (R290). -/
def isSlot (s : Nat) : Bool := s < 8
def isContext (g : Nat) : Bool := g < 8

/-- A port (Table 13-1), a virtual channel (R356), an axis (R391). -/
def isPort (p : Nat) : Bool := p < 6
/-- Where a packet waits: a port, or 6 for the channel's own packets to itself (R28). -/
def isInput (p : Nat) : Bool := p ≤ 6
def isVc (v : Nat) : Bool := v < 16
def isAxis (x : Nat) : Bool := x < 3

/-- A queue pair (R455). -/
def isPair (q : Nat) : Bool := q < 64

/-- A value of an 8-byte register; the register window (R557). -/
def isWord (v : Nat) : Bool := v < 2 ^ 64
def windowSize : Nat := 0x200000

/-- An agent that is there: transfer engines TE0 to TE7. -/
def Agent.wf : Agent → Bool
  | .core h => isCore h
  | .te k => k < 8
  | .host => true
  | .monitor => true
  | .homeroom => true

/-- HDM decoders 0 to 3, vectors of the MSI-X table (R426, R427), payload sizes of PCIe. -/
def CfgWrite.wf : CfgWrite → Bool
  | .hdm i base size ways _ _ => i < 4 && isWord base && isWord size && ways < 16
  | .bme _ => true
  | .mask vec _ => vec < 64
  | .entry vec addr data => vec < 64 && isWord addr && data < 2 ^ 32
  | .mps n => n == 128 || n == 256 || n == 512
  | .memEnable _ => true
  | .mrrs n => n == 128 || n == 256 || n == 512 || n == 1024 || n == 2048 || n == 4096
  | .power _ => true
  | .aerClear m => m < 2 ^ 32

/-- Acts of the physical world: symbols of a codeword (R36), bytes of the 64 MiB flash (R510), lanes (R346, R470). -/
def Env.wf : Env → Bool
  | .upset _ errs => errs.all (fun e => e.1 < 36 && e.2 != 0)
  | .flashWp _ => true
  | .flash addr bytes => addr + bytes.length ≤ 2 ^ 26
  | .mailbox bytes => bytes.length ≤ 4096
  | .coreUpset h part _ _ => isCore h && part < 3
  | .ucLanes map => map < 2 ^ 68
  | .ucResent _ => true
  | .ivFec p _ => isPort p
  | .ivLanes p map => isPort p && map < 2 ^ 34
  | .hostAck _ => true
  | .modSens _ _ _ _ => true
  | .barRead off n => off < 2 ^ 28 + 2 ^ 20 && n ≤ 4096
  | .barWrite off bytes => off < 2 ^ 28 + 2 ^ 20 && bytes.length ≤ 512
  | .memInv off => off < 2 ^ 38
  | .memCmd op _ => op < 2 ^ 16
  | .aer m => m < 2 ^ 32
  | .feed k n count => isMatrix k && n + count ≤ 4096
  | .mgErr _ _ => true
  | .enFill bytes => bytes ≤ 2 ^ 20

def At.wf (a : At) : Bool := a.env.all Env.wf

/-- Every operand in its range. -/
def Instr.wf : Instr → Bool
  | .eraserRead a _ => a.wf
  | .clrCorr a ag _ => a.wf && ag.wf
  | .hostWindowRead a off len => a.wf && off < 2 ^ 38 && len ≤ 64
  | .hostWindowWrite a off data => a.wf && off < 2 ^ 38 && data.length ≤ 64
  | .registerWrite a ag off val => a.wf && ag.wf && off < windowSize && isWord val
  | .queueAppend a _ => a.wf
  | .nop a q => a.wf && isEngine q
  | .event a q => a.wf && isEngine q
  | .lessonCall a q => a.wf && isEngine q
  | .lessonRet a q => a.wf && isEngine q
  | .retakeBegin a q => a.wf && isEngine q
  | .retakeEnd a q => a.wf && isEngine q
  | .qctl a q => a.wf && isEngine q
  | .copy a q => a.wf && isEngine q
  | .deliver a q => a.wf && isEngine q
  | .atomic a q => a.wf && isEngine q
  | .fence a q => a.wf && isEngine q
  | .regWr a q => a.wf && isEngine q
  | .regRd a q => a.wf && isEngine q
  | .rdma a q => a.wf && isEngine q
  | .meLoadw a q => a.wf && isEngine q
  | .mePass a q => a.wf && isEngine q
  | .meDrain a q => a.wf && isEngine q
  | .meAccClear a q => a.wf && isEngine q
  | .meAccExport a q => a.wf && isEngine q
  | .veOp a q => a.wf && isEngine q
  | .veFunc a q => a.wf && isEngine q
  | .veCompress a q => a.wf && isEngine q
  | .veExpand a q => a.wf && isEngine q
  | .veSetvl a q => a.wf && isEngine q
  | .uuUpdate a q => a.wf && isEngine q
  | .uuDerive a q => a.wf && isEngine q
  | .ceRs a q => a.wf && isEngine q
  | .ceAg a q => a.wf && isEngine q
  | .ceAr a q => a.wf && isEngine q
  | .hqForward a => a.wf
  | .hqWrite a => a.wf
  | .hqDma a => a.wf
  | .hqResult a => a.wf
  | .hqFlag a => a.wf
  | .commandComplete a q _ => a.wf && isQueue q
  | .tokenTimeout a q => a.wf && isQueue q
  | .qResume a ag q => a.wf && ag.wf && isQueue q
  | .qHalt a ag q => a.wf && ag.wf && isQueue q
  | .qDrain a ag q => a.wf && ag.wf && isQueue q
  | .qFlush a ag q => a.wf && ag.wf && isQueue q
  | .qSkip a ag q => a.wf && ag.wf && isQueue q
  | .qDepthWrite a ag q v => a.wf && ag.wf && isQueue q && isWord v
  | .tokenWrite a ag i v => a.wf && ag.wf && i < 256 && isWord v
  | .chTokInc a ag v => a.wf && ag.wf && isWord v
  | .loadTransfer a k => a.wf && isMatrix k
  | .rowAdmit a k arr => a.wf && isMatrix k && arr ≤ 4096
  | .accWrite a k _ _ col => a.wf && isMatrix k && col < 256
  | .rampUp a k => a.wf && isMatrix k
  | .rampDown a k => a.wf && isMatrix k
  | .fsGrant a k => a.wf && k < 4
  | .counterClear a ag off => a.wf && ag.wf && off < windowSize
  | .retakeResolve a n => a.wf && n < 16
  | .rtkAbort a ag n => a.wf && ag.wf && n < 16
  | .retakeAborted a n => a.wf && n < 16
  | .rptClrOne a ag t => a.wf && ag.wf && t < 4096
  | .rptClrAll a ag => a.wf && ag.wf
  | .rptSnap a ag v => a.wf && ag.wf && isWord v
  | .e2ModeWrite a ag v => a.wf && ag.wf && isWord v
  | .cmdPush a h => a.wf && isCore h
  | .tokAdd a h => a.wf && isCore h
  | .tokWait a h => a.wf && isCore h
  | .tokWaitSatisfied a h => a.wf && isCore h
  | .sumRd a h => a.wf && isCore h
  | .evtRaise a h => a.wf && isCore h
  | .xfence a h => a.wf && isCore h
  | .cmoClean a h => a.wf && isCore h
  | .cmoInv a h => a.wf && isCore h
  | .cmoFlush a h => a.wf && isCore h
  | .fenceI a h => a.wf && isCore h
  | .coreLoad a h => a.wf && isCore h
  | .coreStore a h => a.wf && isCore h
  | .coreAmo a h => a.wf && isCore h
  | .coreInstruction a h => a.wf && isCore h
  | .cacheEviction a h _ => a.wf && isCore h
  | .interrupt a h => a.wf && isCore h
  | .scRun a ag h => a.wf && ag.wf && isStage h
  | .scStop a ag h => a.wf && ag.wf && isStage h
  | .scReset a ag h => a.wf && ag.wf && isStage h
  | .wdogKick a ag h => a.wf && ag.wf && isStage h
  | .wdogExpired a h => a.wf && isStage h
  | .svcWdogExpiry a => a.wf
  | .cicAck a ag t src => a.wf && ag.wf && isTarget t && src < 512
  | .cicEoi a ag t => a.wf && ag.wf && isTarget t
  | .cicSrcWrite a ag n v => a.wf && ag.wf && n < 512 && isWord v
  | .cicSwsrcSet a ag v => a.wf && ag.wf && isWord v
  | .cicSwsrcClr a ag v => a.wf && ag.wf && isWord v
  | .pstateRequest a ag v => a.wf && ag.wf && isWord v
  | .idleEntry a => a.wf
  | .pstateEntryDone a => a.wf
  | .wake a => a.wf
  | .pstateExitDone a => a.wf
  | .bindSlot a ag s => a.wf && ag.wf && isSlot s
  | .startSlot a ag s => a.wf && ag.wf && isSlot s
  | .drainSlot a ag s => a.wf && ag.wf && isSlot s
  | .unbindSlot a ag s => a.wf && ag.wf && isSlot s
  | .abandonSlot a ag s => a.wf && ag.wf && isSlot s
  | .discardF a ag s => a.wf && ag.wf && isSlot s
  | .discardB a ag s => a.wf && ag.wf && isSlot s
  | .deliverData a p vc => a.wf && isInput p && isVc vc
  | .deliverDesc a p vc => a.wf && isInput p && isVc vc
  | .deliverX a p vc => a.wf && isInput p && isVc vc
  | .launch a s => a.wf && isSlot s
  | .staleDiscard a s _ => a.wf && isSlot s
  | .descFault a s _ => a.wf && isSlot s
  | .launchComplete a s _ => a.wf && isSlot s
  | .offloadCopyDone a s _ => a.wf && isSlot s
  | .pass a p vc => a.wf && isInput p && isVc vc
  | .vsPub a ag s v => a.wf && ag.wf && isSlot s && isWord v
  | .vsRetired a s k => a.wf && isSlot s && k < 4
  | .blockCommit a _ => a.wf
  | .ceGrpCfgWrite a ag g v => a.wf && ag.wf && isContext g && isWord v
  | .ceAbandon a ag g => a.wf && ag.wf && isContext g
  | .cePartial a p vc => a.wf && isInput p && isVc vc
  | .attendance a p vc => a.wf && isInput p && isVc vc
  | .deadlineExpiry a g _ => a.wf && isContext g
  | .gbClr a ag g => a.wf && ag.wf && isContext g
  | .termStart a ag v => a.wf && ag.wf && isWord v
  | .termDrainEnd a => a.wf
  | .termDrainTimeout a => a.wf
  | .flit a p bytes => a.wf && isPort p && bytes.length == 256
  | .nak a p lseq => a.wf && isPort p && lseq < 2 ^ 16
  | .laneSwap a p lane spare => a.wf && isPort p && lane < 34 && spare < 34
  | .laneSpared a p lane _ _ => a.wf && isPort p && lane < 34
  | .cap a p bytes => a.wf && isPort p && bytes.length ≤ 240
  | .retrain a p => a.wf && isPort p
  | .ivRetrain a ag p => a.wf && ag.wf && isPort p
  | .ivDisable a ag p v => a.wf && ag.wf && isPort p && isWord v
  | .linkUp a p _ => a.wf && isPort p
  | .linkDown a p => a.wf && isPort p
  | .read a p vc => a.wf && isInput p && isVc vc
  | .write a p vc => a.wf && isInput p && isVc vc
  | .atomicRequest a p vc => a.wf && isInput p && isVc vc
  | .readData a p vc => a.wf && isInput p && isVc vc
  | .writeAck a p vc => a.wf && isInput p && isVc vc
  | .atomicData a p vc => a.wf && isInput p && isVc vc
  | .errorResp a p vc => a.wf && isInput p && isVc vc
  | .respTimeout a tid => a.wf && tid < 2 ^ 16
  | .brk a p vc => a.wf && isInput p && isVc vc
  | .mend a p vc => a.wf && isInput p && isVc vc
  | .heartbeatSend a => a.wf
  | .heartbeat a p vc => a.wf && isInput p && isVc vc
  | .hbTick a => a.wf
  | .powerGood a test => a.wf && test < 256
  | .syllabusVerified a => a.wf
  | .channelReset a => a.wf
  | .sectionLoad a => a.wf
  | .baseDieReady a _ _ => a.wf
  | .computePowerOn a => a.wf
  | .computeSelfTest a _ _ => a.wf
  | .trainingTimeout a p => a.wf && isPort p
  | .neighbour a p vc => a.wf && isInput p && isVc vc
  | .neighbourTimeout a p => a.wf && isPort p
  | .lapStart a axis => a.wf && isAxis axis
  | .collect a p vc => a.wf && isInput p && isVc vc
  | .collectRelease a axis _ => a.wf && isAxis axis
  | .holdLimit a axis _ => a.wf && isAxis axis
  | .confirm a p vc => a.wf && isInput p && isVc vc
  | .report a p vc => a.wf && isInput p && isVc vc
  | .leaderTimeout a => a.wf
  | .rollcallAltTimeout a => a.wf
  | .allPresent a p vc => a.wf && isInput p && isVc vc
  | .vacate a ag => a.wf && ag.wf
  | .fencePowerdown a => a.wf
  | .suspect a p vc => a.wf && isInput p && isVc vc
  | .notice a p vc => a.wf && isInput p && isVc vc
  | .call a p vc => a.wf && isInput p && isVc vc
  | .accept a p vc => a.wf && isInput p && isVc vc
  | .refuse a p vc => a.wf && isInput p && isVc vc
  | .callTimeout a => a.wf
  | .recoveryAltTimeout a => a.wf
  | .claimTimeout a => a.wf
  | .recover a p vc => a.wf && isInput p && isVc vc
  | .recoverHoldExpiry a => a.wf
  | .up a p vc => a.wf && isInput p && isVc vc
  | .chart a p vc => a.wf && isInput p && isVc vc
  | .doorbell a v => a.wf && isWord v
  | .bootLoad a => a.wf
  | .monReq a => a.wf
  | .mbAck a => a.wf
  | .hostLinkLost a cause => a.wf && 1 ≤ cause && cause ≤ 6
  | .ltssmRecoveryTimeout a => a.wf
  | .hostLinkUp a _ width speed => a.wf && (width == 4 || width == 8 || width == 16) && 3 ≤ speed && speed ≤ 5
  | .hostWriteAccept a => a.wf
  | .qpStateWrite a ag q v => a.wf && ag.wf && isPair q && isWord v
  | .rdmaReadRequest a q psn va key len _ => a.wf && isPair q && psn < 2 ^ 24 && isWord va && key < 2 ^ 32 && len < 2 ^ 32
  | .rdmaWriteRequest a q psn va key _ _ => a.wf && isPair q && psn < 2 ^ 24 && isWord va && key < 2 ^ 32
  | .rdmaSend a q psn _ _ => a.wf && isPair q && psn < 2 ^ 24
  | .readResponse a q psn _ _ => a.wf && isPair q && psn < 2 ^ 24
  | .roceAck a q psn _ => a.wf && isPair q && psn < 2 ^ 24
  | .roceNak a q psn syn _ => a.wf && isPair q && psn < 2 ^ 24 && syn ≤ 3
  | .ackTimeout a q => a.wf && isPair q
  | .cnp a q => a.wf && isPair q
  | .rateIncrease a q => a.wf && isPair q
  | .pfc a prios quanta => a.wf && prios < 256 && quanta < 2 ^ 16
  | .xoffRefresh a => a.wf
  | .arpRequest a smac sip tip => a.wf && smac < 2 ^ 48 && sip < 2 ^ 32 && tip < 2 ^ 32
  | .neighborSolicitation a smac sip tip => a.wf && smac < 2 ^ 48 && sip < 2 ^ 128 && tip < 2 ^ 128
  | .enLinkUp a => a.wf
  | .enLinkDown a => a.wf
  | .ucRetrain a ag => a.wf && ag.wf
  | .ucRetryLimit a => a.wf
  | .ucCap a ver gen rate => a.wf && ver < 16 && gen < 16 && rate < 4
  | .ucMap a map => a.wf && map < 2 ^ 68
  | .ucSel a width part chk => a.wf && width < 128 && part < 8 && chk < 2 ^ 16
  | .ucExchangeTimeout a => a.wf
  | .ucLinkUp a => a.wf
  | .ucLinkDown a => a.wf
  | .clockFault a _ => a.wf
  | .refReturn a => a.wf
  | .thermSample a t => a.wf && t.length ≤ 256
  | .thermStep a => a.wf
  | .pwrgdFall a => a.wf
  | .pwrgdGlitch a _ => a.wf
  | .converterOff a cause => a.wf && 1 ≤ cause && cause ≤ 3
  | .envSample a _ _ _ _ => a.wf
  | .erase a ag v => a.wf && ag.wf && isWord v
  | .program a ag v => a.wf && ag.wf && isWord v
  | .flashRead a ag v => a.wf && ag.wf && isWord v
  | .verify a ag v => a.wf && ag.wf && isWord v
  | .flashOpDone a _ => a.wf
  | .nonce a ag => a.wf && ag.wf
  | .attest a ag => a.wf && ag.wf
  | .cert a ag => a.wf && ag.wf
  | .unlock a ag => a.wf && ag.wf
  | .enrol a ag => a.wf && ag.wf
  | .revoke a ag => a.wf && ag.wf
  | .zeroise a ag cfm => a.wf && ag.wf && cfm < 256
  | .selftest a ag => a.wf && ag.wf
  | .secOpDone a _ => a.wf
  | .bootstrap a => a.wf
  | .bootstrapRetry a => a.wf
  | .monId a _ => a.wf
  | .monRd a _ t off => a.wf && t ≤ 4 && off < 2 ^ 32
  | .monWr a _ t off v => a.wf && t ≤ 4 && off < 2 ^ 32 && isWord v
  | .monLog a _ t i n => a.wf && t ≤ 5 && i < 2 ^ 32 && 1 ≤ n && n ≤ 64
  | .monSens a _ => a.wf
  | .monPwr a _ => a.wf
  | .monPwrOn a _ t => a.wf && t < 4
  | .monPwrOff a _ t => a.wf && t < 4
  | .monBaud a _ r => a.wf && r ≤ 5
  | .svcHalt a _ t => a.wf && t < 4
  | .svcRun a _ t => a.wf && t < 4
  | .svcReg a _ t n => a.wf && t < 4 && n ≤ 32
  | .uartBreak a _ => a.wf
  | .pwrCtlOn a ag t => a.wf && ag.wf && t < 4
  | .setEndpointId a op eid => a.wf && op < 4 && eid < 256
  | .getEndpointId a => a.wf
  | .getMctpVersionSupport a mtype => a.wf && mtype < 256
  | .getMessageTypeSupport a => a.wf
  | .getId a => a.wf
  | .getSensors a => a.wf
  | .getLog a t i _ => a.wf && t ≤ 5 && i < 2 ^ 32
  | .alertResponse a => a.wf
  | .logIdxWrite a ag _ v => a.wf && ag.wf && isWord v
  | .peerTraining a p => a.wf && isPort p
  | .retrainFailed a p => a.wf && isPort p
  | .ucTrainingFailed a => a.wf
  | .hostReadCompletion a _ _ => a.wf
  | .hostConfigurationWrite a w => a.wf && w.wf
  | .slotConfigWrite a ag off v => a.wf && ag.wf && off < windowSize && isWord v
  | .contextConfigWrite a ag off v => a.wf && ag.wf && off < windowSize && isWord v
  | .converterOn a => a.wf
  | .channelPowerLost a => a.wf
  | .entropyHealthFailure a => a.wf
  | .discardedFrame a => a.wf
  | .reservedPacket a p vc => a.wf && isInput p && isVc vc
  | .monitorSyntax a _ _ => a.wf
  | .unsupportedControlMessage a code => a.wf && code < 256
  | .pauseExpiry a => a.wf

end Sys2Proof
end

