-- ==== Sys2Proof/Safety.lean ====
section
/-!
DEFINITION. The terms in which statements about the module are made: the channel as a command finds it, what a command brings
about, who may write a register, when a queue's head starts, what must stay the same, and the invariants that every step keeps.

A command's next state is the command's own effect, after which the units go on of themselves (`State.settle`): a statement
names the state between the two, so that it speaks of the command's effect alone.
-/
namespace Sys2Proof.Machine

/-! ### What a command brings about -/

/-- The channel of the stamp as the command finds it: the stamp's time and the acts of the physical world have taken effect. -/
def State.here (s : State) (a : At) : Chan := (s.enter a).chan a.chan

/-- `i` answers a next state: the stamp's channel has become a `c` of which `P` holds, every other channel, the host-port die
and the queue of commands are as the stamp left them, and then the units go on. -/
def Gives (i : Instr) (s : State) (a : At) (P : Chan → Prop) : Prop :=
  ∃ c, exec i s = .next ((s.enter a).setChan a.chan c).settle ∧ P c

/-- What the link of port `p` brings is taken: on a Z link it leaves the port at the other end of it (`f`), which lies in another
channel of the module (R15). -/
def State.brought (s : State) (a : At) (p : Nat) (f : Port → Port) : State :=
  if isZ p then (s.enter a).onZFar a.chan p f else s.enter a

/-- `i` answers a next state: what the link of port `p` brings is taken (`f`), the stamp's channel has become a `c` of which `P`
holds, nothing else changes, and then the units go on. -/
def GivesOver (i : Instr) (s : State) (a : At) (p : Nat) (f : Port → Port) (P : Chan → Prop) : Prop :=
  ∃ c, exec i s = .next ((s.brought a p f).setChan a.chan c).settle ∧ P c

/-- The oldest flit on its way to port `p` of the stamp's channel is `bs`; an external link may bring any. -/
def State.flitDue (s : State) (a : At) (p : Nat) (bs : List Byte) : Prop :=
  isZ p = true → ∃ r, ((s.enter a).zFar a.chan p).wire = bs :: r

/-- A link-control message on its way to port `p` of the stamp's channel; an external link may bring any. -/
def State.ctlDue (s : State) (a : At) (p : Nat) (m : Ctl) : Prop :=
  isZ p = true → m ∈ ((s.enter a).zFar a.chan p).ctl

/-- The flit has been taken from the wire; the link-control message has. -/
def Port.flitTaken (x : Port) : Port := { x with wire := x.wire.tail }
def Port.ctlTaken (m : Ctl) (x : Port) : Port := { x with ctl := x.ctl.erase m }

/-- The port's link-control message `m` goes out, or waits while the replay buffer is full or others wait (R350). -/
def Port.sends (x y : Port) (m : Ctl) : Prop :=
  if x.ctlQ = [] ∧ x.replay.length < replayMax then y.ctl = x.ctl ++ [m] ∧ y.ctlQ = [] else y.ctl = x.ctl ∧ y.ctlQ = x.ctlQ ++ [m]

/-- `i` answers a next state: the host-port die has become an `h` of which `P` holds, the channels and the queue of commands are
as the stamp left them, and then the units go on. -/
def GivesHpd (i : Instr) (s : State) (a : At) (P : Hpd → Prop) : Prop :=
  ∃ h, exec i s = .next ((s.enter a).onHpd (fun _ => h)).settle ∧ P h

/-- `i` answers a next state: an `m` of which `P` holds, with the queue of commands as before, and then the units go on. -/
def GivesAll (i : Instr) (s : State) (P : State → Prop) : Prop :=
  ∃ m, exec i s = .next m.settle ∧ m.pending = s.pending ∧ P m

/-! ### Power (Table 8-5, R384, R478) -/

/-- The module has power, and the homeroom of the stamp's channel; its switch with the reference; its base die; its compute
die. -/
def State.homeLive (s : State) (a : At) : Prop := (s.enter a).hpd.good = true ∧ (s.here a).homeOn = true
def State.fabLive (s : State) (a : At) : Prop := s.homeLive a ∧ (s.here a).refLost = false
def State.baseLive (s : State) (a : At) : Prop := (s.enter a).hpd.good = true ∧ (s.here a).baseOn = true
def State.coreLive (s : State) (a : At) : Prop := (s.enter a).hpd.good = true ∧ (s.here a).computeOn = true

/-! ### Register writes (R524, R525, R549, R559, R567) -/

/-- An agent's write of `v` to the register at key `off` of channel `n` gets through to the register: the agent may write it and
reaches it, and no agent of a later place in the block's order has written it in this MCLK cycle (R561). -/
def State.mayWrite (s : State) (n : Fin 4) (ag : Agent) (off v : Nat) : Prop :=
  match ag with
  | .core h => off < 0x10000000 ∧ badOffset off = false ∧ coreMayWrite h off = true ∧ (s.chan n).computeOn = true ∧
      (s.chan n).outranked ag off = false
  | .te _ => off < 0x10000000 ∧ regOffRefused off = false ∧ (s.chan n).computeOn = true ∧ (s.chan n).outranked ag off = false
  | .homeroom => off < 0x10000000 ∧ off ≠ HR_RECOV_CTL.off
  | .monitor => s.hpd.good = true ∧ off % 8 = 0 ∧
      (if 0x10000000 ≤ off then off < 0x10001000 ∧ s.hpd.monMay 4 (hostOff n.val off) v = true
       else chanAssigned off = true ∧ s.hpd.monMay n.val off v = true ∧ (s.chan n).regReach = true ∧
         (s.chan n).outranked ag off = false)
  | .host => s.hpd.flag HP_LINK.UP = true ∧ off % 8 = 0 ∧
      (if 0x10000000 ≤ off then off < 0x10001000
       else off < 0xC00000 ∧ chanAssigned off = true ∧ s.hpd.hostMayChan off = true ∧ (s.chan n).regReach = true ∧
         (s.chan n).outranked ag off = false)

/-- The module and the register's block have power, and the write gets through. -/
def State.writable (s : State) (a : At) (ag : Agent) (off v : Nat) : Prop :=
  (s.enter a).hpd.good = true ∧ (s.here a).blockOn off = true ∧ (s.enter a).mayWrite a.chan ag off v

/-- What an agent's write leaves beside the register: the monitor's is logged (MON_WRITE, R549). -/
def State.noted (s : State) (ag : Agent) (n : Fin 4) (off : Nat) : State :=
  match ag with
  | .monitor => if 0x10000000 ≤ off then s.monWrote 4 (hostOff n.val off) else s.monWrote n.val off
  | _ => s

/-- The write has taken its place among those of its MCLK cycle (R561); the registers that the host-port die keeps have none. -/
def Chan.placed (c : Chan) (ag : Agent) (off : Nat) : Chan :=
  if 0x10000000 ≤ off then c else match ag with | .homeroom => c | _ => c.noteWr ag off

/-- An agent's write `i` to the register at `off` answers a next state: the channel has become a `c` of which `P` holds, and
nothing else changes but the write's place in its cycle and the record of a monitor's write; then the units go on. -/
def GivesBy (ag : Agent) (off : Nat) (i : Instr) (s : State) (a : At) (P : Chan → Prop) : Prop :=
  ∃ c, exec i s = .next (((s.enter a).setChan a.chan (c.placed ag off)).noted ag a.chan off).settle ∧ P c

/-- The offset by which an agent names the register at key `off` of channel `n` in REGISTER_WRITE. -/
def namedBy (ag : Agent) (n off : Nat) : Nat :=
  match ag with
  | .host => hostOff n off
  | .monitor => if 0x10000000 ≤ off then 0x10000000 + hostOff n off else off
  | _ => off

/-- The registers of a channel whose writes do more, or something else, than the access codes of their fields say: counters are
cleared, queues, slots, contexts, versions, queue pairs and ports act, tokens and sources are set, logs and cards copied. -/
def actsOnWrite (off : Nat) : Bool :=
  !(counterRanges off).isEmpty ||
  (match queuePage off with
   | some q =>
     let o := off % 0x1000
     o == 0x00 || o == 0x08 || o == 0x20 || (q == 0x20 && decide (0x400 ≤ o ∧ o < 0x800)) || (q == 0x80 && o == 0x130)
   | none => false) ||
  [HR_PSTATE.off, HR_RECOV_CTL.off, HR_LOG_IDX.off, CH_TOK_INC.off, CH_E2_MODE.off, CH_TERM_CTL.off, CIC_SWSRC_SET.off,
    CIC_SWSRC_CLR.off, GB_CTL.off, CS_CFG.off, CS_RING.off, HBM_ECC_CTL.off, SP_ECC_CTL.off, UC_CTL.off, RPT_CLR.off,
    RPT_SNAP_CTL.off].contains off ||
  decide (0x11000 ≤ off ∧ off < 0x11800 ∨ 0x10900 ≤ off ∧ off < 0x10A00 ∧ off % 16 = 0 ∨
    0x20400 ≤ off ∧ off < 0x20580 ∧ (off % 0x40 = 0x08 ∨ off % 0x40 = 0x10) ∨ 0x60000 ≤ off ∧ off < 0x70000 ∨ 0xE1000 ≤ off ∧ off < 0xE2000 ∨ 0x150000 ≤ off ∧ off < 0x158000) ||
  decide (0xA0000 ≤ off ∧ off < 0xA6000 ∧ off % 0x1000 = 0x10) ||
  decide (0x140000 ≤ off ∧ off < 0x144000 ∧ (off % 0x1000 = 0x08 ∨ off % 0x1000 = 0x20 ∨ off % 0x1000 = 0x28))

/-- A write of `v` to a register at offset `off` of the host-port die's blocks by the host or the monitor gets through. -/
def State.mayWriteHpd (s : State) (ag : Agent) (off v : Nat) : Prop :=
  match ag with
  | .host => s.hpd.flag HP_LINK.UP = true ∧ off % 8 = 0 ∧ off < 0x40000 ∧ s.hpd.hostMayHpd off v = true
  | .monitor => s.hpd.good = true ∧ monAligned 4 off = true ∧ s.hpd.monMay 4 off v = true
  | _ => False

/-- The module has power, and the write gets through. -/
def State.writableHpd (s : State) (a : At) (ag : Agent) (off v : Nat) : Prop :=
  (s.enter a).hpd.good = true ∧ (s.enter a).mayWriteHpd ag off v

/-- The monitor's write to the host-port die is logged, the host's is not. -/
def Hpd.noted (h : Hpd) (ag : Agent) (off : Nat) : Hpd :=
  match ag with
  | .monitor => h.ev 0x23 0x172 1 (det [(16, 1, 4), (17, 4, off)])
  | _ => h

/-- An agent's write `i` to the host-port die answers a next state: the die has become an `h` of which `P` holds, with the record
of a monitor's write; then the units go on. -/
def GivesHpdBy (ag : Agent) (off : Nat) (i : Instr) (s : State) (a : At) (P : Hpd → Prop) : Prop :=
  ∃ h, exec i s = .next ((s.enter a).onHpd (fun _ => h.noted ag off)).settle ∧ P h

/-! ### Frames -/

/-- Every byte of memory is as before. -/
def Chan.sameMem (c d : Chan) : Prop := ∀ x, d.byte x = c.byte x

/-- Every byte of memory outside the extents is as before. -/
def Chan.sameMemBut (c d : Chan) (a n : Nat) : Prop := ∀ x, ¬ (a ≤ x ∧ x < a + n) → d.byte x = c.byte x

/-- Every register but those at the keys listed is as before. -/
def Chan.sameRegsBut (c d : Chan) (l : List Nat) : Prop := ∀ off, off ∉ l → d.rd off = c.rd off

/-- The registers `l`, and with a hop limit of 0 those that the refusal of a bell of one link changes (R371). -/
def Chan.bellRegs (c : Chan) (l : List Nat) : List Nat :=
  if c.gf CS_CFG.TC0_HOP_LIMIT = 0 then l ++ [CS_CNT_TC0_REFUSED.off, CS_STAT.off, HR_LOG_STAT.off] else l

/-- Every register of the host-port die but those at the offsets listed is as before. -/
def Hpd.sameRegsBut (h g : Hpd) (l : List Nat) : Prop := ∀ off, off ∉ l → g.rd off = h.rd off

/-- The event log gains a record with the time `t` at its place, among the records of its HCLK cycle in ascending block id, and the
write count grows by one (R542). -/
def Chan.loggedAt (c d : Chan) (t block code sev detail : Nat) : Prop :=
  d.log = logPut 4096
    { time := t, block := block, code := code, sev := sev, chan := c.num, detail := detail, cyc := (c.now - c.t0) / 192 } 4095
    (c.gf HR_LOG_STAT.WCNT) c.log ∧
  d.gf HR_LOG_STAT.WCNT = (c.gf HR_LOG_STAT.WCNT + 1) % 2 ^ 32

/-- A record of the channel itself, with its local time. -/
def Chan.logged (c d : Chan) (block code sev detail : Nat) : Prop := c.loggedAt d c.localNs block code sev detail

/-- A record of the host-port die about the channel, with that die's time (R541, R544). -/
def Chan.hpdLogged (c d : Chan) (block code sev detail : Nat) : Prop := c.loggedAt d c.hpdNs block code sev detail

/-! ### Starting the head of a queue (R71, R72, R76, R78) -/

/-- The waits that hold the head back. -/
def Chan.headWaits (c : Chan) (q : Nat) (raw : List Byte) : List (Nat × Nat) :=
  if (c.queue q).seg.isNone && relOf raw then [] else waitsOf (c.queue q).seg raw

/-- The channel with the head of queue `q` found and its wait timer off. -/
def Chan.atHead (c : Chan) (q : Nat) : Chan := (c.head q).2.onQueue q (fun x => { x with wait := none })

/-- The queue runs, its head is `h`, a command of opcode `op`, and its waits are satisfied; it need not wait for earlier commands. -/
structure Chan.due (c : Chan) (q op : Nat) (h : Head) : Prop where
  on : c.queueOn q = true
  running : (c.queue q).st = .running
  halting : (c.queue q).halting = false
  fenced : (c.queue q).fenced = false
  head : (c.head q).1 = .cmd h
  opcode : opcodeOf h.raw = op
  waits : (c.head q).2.unsat (c.headWaits q h.raw) = none
  serial : serialOf h.raw = true → (c.queue q).serialOk h = true
  room : (c.queue q).busy < windowOf q

/-- The channel once the checks of the head `h` have read what they need from memory (R37, R38). -/
def Chan.looked (c : Chan) (q : Nat) (spec : CmdSpec) (h : Head) : Chan := ((c.atHead q).checked q spec h.raw).2

/-- It passes the checks of R78, is not only taken note of, and has the credit that it needs (R72). -/
structure Chan.startable (c : Chan) (q op : Nat) (spec : CmdSpec) (h : Head) : Prop extends c.due q op h where
  checks : ((c.atHead q).checked q spec h.raw).1 = none
  starts : spec.park (c.looked q spec h) q = none
  credit : spec.credit (c.looked q spec h) q (c.queue q).seg h.raw = true

/-- The head has become a started command: its number, and the channel. -/
def Chan.begun (c : Chan) (q : Nat) (spec : CmdSpec) (h : Head) : Nat × Chan := (c.looked q spec h).addStarted q h

/-- The channel once the head `h` has been started: the command's own start, and its completion where it completes at once. -/
def Chan.startedAs (c : Chan) (q : Nat) (spec : CmdSpec) (h : Head) : Chan :=
  let (seq, d) := c.begun q spec h
  if spec.atOnce then (spec.start d q seq).complete q seq else (spec.start d q seq).settleQ q

/-- The command `i` of queue `q` is evaluated at `s`, and its head is started. -/
def Starts (i : Instr) (s : State) (a : At) (q op : Nat) (spec : CmdSpec) : Prop :=
  ∀ h : Head, (s.enter a).hpd.good = true → (s.here a).startable q op spec h →
    Gives i s a (fun d => d = (s.here a).startedAs q spec h)

/-- Queue `q` has become halted on the head `h`: Q_ERR holds the halt's code, the head's opcode, slot and DETAIL, nothing more has been
started, no memory changes, and the host queue asks for an interrupt (R79, R89, R448). -/
structure Chan.haltedOn (c d : Chan) (q code det : Nat) (h : Head) : Prop where
  st : (d.queue q).st = .halted
  code : d.gf (Q_ERR.CODE q) = code % 2 ^ 8
  opcode : d.gf (Q_ERR.OPCODE q) = opcodeOf h.raw
  detail : d.gf (Q_ERR.DETAIL q) = det % 2 ^ 32
  slot : q ≠ 0x80 → d.gf (Q_ERR.SLOT q) = h.slot % 2 ^ 12
  started : (d.queue q).started = (c.queue q).started
  mem : c.flaws = [] → c.sameMem d
  irq : q = 0x80 → d.flag HPC_IRQ.HQ_HALT = true

/-- The command `i` of queue `q` is evaluated at `s`, and its head fails a check: the queue halts. -/
def Fails (i : Instr) (s : State) (a : At) (q op : Nat) (spec : CmdSpec) : Prop :=
  ∀ (h : Head) (code det : Nat), (s.enter a).hpd.good = true → (s.here a).due q op h →
    (((s.here a).atHead q).checked q spec h.raw).1 = some (code, det) →
    Gives i s a (fun d => (s.here a).haltedOn d q code det h)

/-- The number of the head once it is started: a command that failed starts again under its own. -/
def Chan.numberOf (c : Chan) (q : Nat) (h : Head) : Nat := h.redo.getD (c.queue q).sseq

/-- The head `h` of queue `q` can be started as a command of opcode `op`, it has been read without a correction, its number is no other
started command's, and memory is sound. -/
structure Chan.clean (c : Chan) (q op : Nat) (spec : CmdSpec) (h : Head) : Prop extends c.startable q op spec h where
  sound : c.flaws = []
  read : (c.head q).2 = c
  number : h.redo = none → ∀ y ∈ (c.queue q).started, y.seq ≠ (c.queue q).sseq

/-- The operations that write `bs` to the global address `g` of another channel or of the host (R354). -/
def writesTo (g : Nat) (bs : List Byte) : List Op :=
  (cut bs.length).map (fun e =>
    let k : Pkt := { pkt0 with ptype := pWRITE, len := e.2, data := (bs.drop e.1).take e.2 }
    match locOf g with
    | .host x => { op0 with kind := 1, host := true, pkt := { k with addr := x + e.1 } }
    | .fab node x => { op0 with kind := 1, pkt := { k with dst := node, addr := fabAddr node (x + e.1) } }
    | _ => op0)

/-- The operations that read `n` bytes at the global address `g` of another channel or of the host. -/
def readsFrom (g n : Nat) (cont : Nat → OpCont) : List Op :=
  (cut n).map (fun e =>
    let k : Pkt := { pkt0 with ptype := pREAD, len := e.2 }
    match locOf g with
    | .host x => { op0 with host := true, cont := cont e.1, pkt := { k with addr := x + e.1 } }
    | .fab node x => { op0 with cont := cont e.1, pkt := { k with dst := node, addr := fabAddr node (x + e.1) } }
    | _ => op0)

/-- Does the address lie in another channel or in the host? -/
def away (g : Nat) : Prop := (∃ node x, locOf g = .fab node x) ∨ ∃ x, locOf g = .host x

/-- The started command `n` of queue `q` has asked for the operations `os`, in their order, and no memory has changed. -/
def Chan.asks (c : Chan) (q n : Nat) (os : List Op) (d : Chan) : Prop :=
  (∃ z : Chan, d = (os.foldl (fun z o => z.cmdOp q n o) z).settleQ q) ∧ c.sameMem d

/-- What the signals `l` add to token counter `i`. -/
def sigSum (l : List (Nat × Nat)) (i : Nat) : Nat := l.foldl (fun n e => if e.1 = i then n + e.2 else n) 0

/-! ### The timetable (R245 to R251) -/

/-- The channel with the completions that are ready taken and the descriptors at the heads of slot `s` read. -/
def Chan.looksAt (c : Chan) (s : Nat) : Chan := ((c.completeAll.headBad s false).2.headBad s true).2

/-- The channel as the timetable evaluates slot `s`: faults at the heads noted, and the fetches that they ask for appended. -/
def Chan.evaluated (c : Chan) (s : Nat) : Chan :=
  ((((c.looksAt s).descFault s false).descFault s true).headWants s).fetchDue s

/-- The descriptors at the heads of slot `s` can be read (R38). -/
def Chan.headsRead (c : Chan) (s : Nat) : Prop :=
  (c.completeAll.headBad s false).1 = false ∧ ((c.completeAll.headBad s false).2.headBad s true).1 = false

/-! ### Cores (R190 to R205) -/

/-- Core `h` runs, and the instruction `i`, whose encoding `raw` has `len` bytes, stands at its pc; `d` is the channel once it has
been fetched. -/
structure Chan.atInstr (c : Chan) (h raw len : Nat) (i : Rv) (d : Chan) : Prop where
  runs : c.hartRuns h = true
  fetched : c.fetch h = (.ok (raw, len), d)
  decoded : decodeRv raw = i

/-- The core has taken a trap: mepc, mcause, mtval, MIE, MPIE and MPP of mstatus, machine mode and the handler's address; the
registers are kept. -/
structure Core.trapped (x y : Core) (cause tval target : Nat) : Prop where
  epc : y.cs csrMEPC = x.pc.toNat
  cause : y.cs csrMCAUSE = cause
  tval : y.cs csrMTVAL = tval
  mie : bits (y.cs csrMSTATUS) 3 1 = 0
  mpie : bits (y.cs csrMSTATUS) 7 1 = bits (x.cs csrMSTATUS) 3 1
  mpp : bits (y.cs csrMSTATUS) 11 2 = if x.user then 0 else 3
  mode : y.user = false
  waits : y.waiting = false
  pc : y.pc.toNat = target
  regs : y.x = x.x ∧ y.f = x.f

/-- The address of the handler of an exception. -/
def Core.handler (x : Core) : Nat := x.cs csrMTVEC / 4 * 4

/-- The core goes on after an instruction of `len` bytes with `v` in `rd`, and its other registers as before. -/
structure Core.stepped (x y : Core) (len rd v : Nat) : Prop where
  pc : y.pc = x.pc + BitVec.ofNat 64 len
  dest : rd ≠ 0 → y.xr rd = v
  others : ∀ r, r ≠ rd → y.xr r = x.xr r
  fregs : y.f = x.f
  mode : y.user = x.user

/-- The core goes on after a floating-point instruction of `len` bytes with `v` in the floating-point register `rd`: the flags `fl` have
accrued, FS is Dirty, and its other registers are as before. -/
structure Core.fstepped (x y : Core) (len rd v fl : Nat) : Prop where
  pc : y.pc = x.pc + BitVec.ofNat 64 len
  dest : y.fr rd = v % 2 ^ 32
  others : ∀ r, r ≠ rd → y.fr r = x.fr r
  xregs : y.x = x.x
  flags : y.cs csrFCSR = (x.cs csrFCSR ||| fl) % 2 ^ 64
  fs : bits (y.cs csrMSTATUS) 13 2 = 3
  mode : y.user = x.user

/-! ### Packets (R351, R354, R358) -/

/-- The oldest whole packet of the port's virtual channel (port 6: the channel's own) is `k`; `d` is the channel once it has been
taken and its places are owed to the far end. -/
def Chan.takes (c : Chan) (p vc : Nat) (k : Pkt) (d : Chan) : Prop :=
  ∃ bs fl, c.headPkt p vc = some (bs, fl) ∧ parsePkt bs = k ∧ d = (c.dropHead p vc).freePlaces (some (p, vc)) fl

/-- The same, and the packet is for this channel. -/
def Chan.arrives (c : Chan) (p vc : Nat) (k : Pkt) (d : Chan) : Prop := c.takes p vc k d ∧ (p = 6 ∨ k.dst = c.node)

/-- The operations outstanding are those of `c` but for transaction `tid`. -/
def Chan.sameOpsBut (c d : Chan) (tid : Nat) : Prop := d.ops = c.ops.filter (fun o => !(o.tid == tid && o.host == false))

/-! ### Invariants -/

/-- The memory of every channel is in canonical form. -/
def State.memOk (s : State) : Prop := ∀ n, Memory.wf (s.chan n).mem = true

/-- Each channel has its own number (R15). -/
def State.numOk (s : State) : Prop := ∀ n : Fin 4, (s.chan n).num = n.val

/-- While the module has no power or its link to the host is down, no host-bound write is held for the host and no host-bound read
is outstanding (R442, R446). -/
def Hpd.linkOk (h : Hpd) : Prop := (h.good && h.flag HP_LINK.UP) = false → h.outb = [] ∧ h.reads = []

/-- The bytes that the host-port die holds (flash, buffers, mailboxes) are in canonical form. -/
def Hpd.bytesOk (h : Hpd) : Prop :=
  twf flashDefault h.flash = true ∧ twf bufDefault h.secBuf = true ∧
  twf bufDefault h.sylBuf = true ∧ twf (fun _ => (0 : Byte)) h.h2d = true ∧ twf (fun _ => (0 : Byte)) h.d2h = true

end Sys2Proof.Machine
end

