-- ==== Sys2Proof/Certificates/Slice0/Obligations.lean ====
section
/-!
DEFINITION. The statements about the module, for the provers.
-/
open Sys2Proof Sys2Proof.Machine


/-! ### The step, reset and the codes -/

/-- A step runs the command at the front of the queue, with the rest of the queue. (Where it rests on the model's own choices:
notes/assumptions/4.md.) -/
def Obligations.StepRunsTheFrontCommand : Prop :=
  ∀ (s : State) (c : Instr), step { s with pending := c :: s.pending } = exec c s

/-- No command touches the queue of waiting commands; with none waiting the block idles (the model's choice,
notes/assumptions/4.md). -/
def Obligations.TheQueueIsLeftToTheStep : Prop :=
  (∀ (i : Instr) (s t : State), exec i s = .next t → t.pending = s.pending) ∧
  (∀ s : State, s.pending = [] → step s = .next s)

/-- What reset leaves: the channel numbers, the state BOOT of every channel, DUTY and ENV_CAP at 16, no queue bound or running, no
wait limit, no token, empty memory and no command waiting. The invariants hold right after reset. (Where it rests on the model's
own choices: notes/assumptions/1.md, 14.md.) -/
def Obligations.ResetLeavesTheStatedValues : Prop :=
  ((∀ n : Fin 4, (State.reset.chan n).gf CH_ID.CHANNEL = n.val ∧ (State.reset.chan n).cstate = csBOOT ∧
    (State.reset.chan n).gf HR_THERM.DUTY = 16 ∧ (State.reset.chan n).gf HR_THERM.ENV_CAP = 16 ∧
    (State.reset.chan n).mem = []) ∧
  (∀ (n : Fin 4) (q : Nat), isQueue q = true →
    (State.reset.chan n).qDepth q = 0 ∧ ((State.reset.chan n).queue q).st = .idle ∧
    (State.reset.chan n).gf (Q_WAIT_LIMIT.LIMIT_US q) = 0) ∧
  (∀ (n : Fin 4) (i : Nat), i < 256 → (State.reset.chan n).tok i = 0) ∧
  State.reset.pending = []) ∧
  (State.reset.memOk ∧ State.reset.numOk ∧ State.reset.hpd.linkOk ∧ State.reset.hpd.bytesOk)

/-! ### Memory and plain registers -/

/-- The eraser reads the codeword at its position, corrects it when one symbol is bad, counts the correction, and goes on; past
the last codeword it starts again and counts a pass. CLR_CORR clears the count of corrections and nothing else. (Where it rests on
the model's own choices: notes/assumptions/16.md, 118.md.) -/
def Obligations.EraserCorrectsMemory : Prop :=
  (∀ (a : At) (s : State), s.baseLive a →
    (let c := s.here a
     let x := c.gf HBM_ERASE_STAT.POS * 32
     (c.eraseDue false = false → Gives (.eraserRead a false) s a (fun d => d = c)) ∧
     (c.eraseDue false = true → c.flawsIn x 32 = [] →
      (x + 32 < hbmSize → Gives (.eraserRead a false) s a (fun d =>
        d.gf HBM_ERASE_STAT.POS * 32 = x + 32 ∧ c.sameMem d ∧ c.sameRegsBut d [HBM_ERASE_STAT.off])) ∧
      (hbmSize ≤ x + 32 → Gives (.eraserRead a false) s a (fun d =>
        d.gf HBM_ERASE_STAT.POS = 0 ∧ d.gf HBM_ERASE_STAT.PASSES = (c.gf HBM_ERASE_STAT.PASSES + 1) % 2 ^ 16 ∧
        d.gf HBM_IRQ.PASS = 1 ∧ c.sameMem d ∧ c.sameRegsBut d [HBM_ERASE_STAT.off, HBM_IRQ.off, HR_LOG_STAT.off])))) ∧
    (let c := s.here a
     let x := max spBase (c.gf SP_ERASE_STAT.POS * 32)
     (c.eraseDue true = false → Gives (.eraserRead a true) s a (fun d => d = c)) ∧
     (c.eraseDue true = true → c.flawsIn x 32 = [] → x + 32 < spBase + spSize → Gives (.eraserRead a true) s a (fun d =>
        d.gf SP_ERASE_STAT.POS * 32 = x + 32 ∧ c.sameMem d ∧ c.sameRegsBut d [SP_ERASE_STAT.off])))) ∧
  (∀ (a : At) (s : State) (errs : List (Nat × Byte)), s.baseLive a → errs.length < 4 →
    let c := s.here a
    let x := c.gf HBM_ERASE_STAT.POS * 32
    x < hbmSize → c.eraseDue false = true → c.flawsIn x 32 = [(x / 32, errs)] → tget? (x / 32) (terase (x / 32) c.flaws) = none →
    (∀ sym v, rsDecode (c.codeword (x / 32) errs) = .one sym v → Gives (.eraserRead a false) s a (fun d =>
      tget? (x / 32) d.flaws = none ∧ d.gf HBM_IRQ.CORR = 1 ∧ d.gf HBM_ECC_LAST.ADDR * 32 = x ∧ d.gf HBM_ECC_LAST.SYMBOL = sym ∧
      d.gf HBM_ECC_LAST.SRC = 1 ∧
      d.gf HBM_ECC_CORR.COUNT = min (c.gf HBM_ECC_CORR.COUNT + 1) (2 ^ 32 - 1) ∧ c.sameMem d)) ∧
    (rsDecode (c.codeword (x / 32) errs) = .bad → Gives (.eraserRead a false) s a (fun d =>
      d.gf HBM_IRQ.UNCORR = 1 ∧ d.fenceReq.isSome = true ∧ d.flaws = c.flaws ∧ c.sameMem d))) ∧
  (∀ (a : At) (ag : Agent) (s : State),
    (s.writable a ag HBM_ECC_CTL.off 1 → GivesBy ag HBM_ECC_CTL.off (.clrCorr a ag false) s a (fun d =>
      d.gf HBM_ECC_CORR.COUNT = 0 ∧ (s.here a).sameMem d ∧ (s.here a).sameRegsBut d [HBM_ECC_CORR.off])) ∧
    (s.writable a ag SP_ECC_CTL.off 1 → GivesBy ag SP_ECC_CTL.off (.clrCorr a ag true) s a (fun d =>
      d.gf SP_ECC_CORR.COUNT = 0 ∧ (s.here a).sameMem d ∧ (s.here a).sameRegsBut d [SP_ECC_CORR.off])))

/-- A read through an open window gives the bytes of channel memory at BASE + offset where the codewords are sound; outside memory
it gives poisoned zeros and counts a window fault. A write is performed, or discarded and counted. The same for a channel out of
reach, which counts in the other counter. (Where it rests on the model's own choices: notes/assumptions/17.md, 75.md, 101.md.) -/
def Obligations.HostWindowReachesMemory : Prop :=
  ∀ (a : At) (s : State) (n : Fin 4) (o len : Nat) (data : List Byte),
    (s.enter a).hpd.good = true → (s.enter a).hpd.winOn n.val = true → o < 2 ^ 36 →
    let b := s.enter a
    let c := b.chan n
    let x := c.gf HPC_WIN.BASE * 2 ^ 29 + o
    (inMem x len = true → c.winReach = true → c.flawsIn x len = [] →
      exec (.hostWindowRead a (n.val * 2 ^ 36 + o) len) s =
        .next (b.onHpd (fun h => { h with winRd := some (false, c.peek x len) })).settle) ∧
    (inMem x len = false → ∃ d, exec (.hostWindowRead a (n.val * 2 ^ 36 + o) len) s =
        .next ((b.setChan n d).onHpd (fun h => { (h.winTell c o len).2 with winRd := some (true, List.replicate len 0) })).settle ∧
        d.gf HPC_CNT_WINFAULT.COUNT = (c.gf HPC_CNT_WINFAULT.COUNT + 1) % 2 ^ 64 ∧ c.sameMem d) ∧
    (inMem x len = true → c.winReach = false → ∃ d, exec (.hostWindowRead a (n.val * 2 ^ 36 + o) len) s =
        .next ((b.setChan n d).onHpd (fun h => { (h.winTell c o len).2 with winRd := some (true, List.replicate len 0) })).settle ∧
        d.gf HPC_CNT_UNREACH.COUNT = (c.gf HPC_CNT_UNREACH.COUNT + 1) % 2 ^ 64 ∧ c.sameMem d) ∧
    (inMem x data.length = true → c.winReach = true → c.flawsIn x data.length = [] →
      exec (.hostWindowWrite a (n.val * 2 ^ 36 + o) data) s = .next (b.setChan n (c.poke x data)).settle) ∧
    (inMem x data.length = true → c.winReach = false → ∃ d, exec (.hostWindowWrite a (n.val * 2 ^ 36 + o) data) s =
        .next ((b.setChan n d).onHpd (fun h => (h.winTell c o data.length).2)).settle ∧
        d.gf HPC_CNT_UNREACH.COUNT = (c.gf HPC_CNT_UNREACH.COUNT + 1) % 2 ^ 64 ∧ c.sameMem d) ∧
    (inMem x data.length = false → ∃ d, exec (.hostWindowWrite a (n.val * 2 ^ 36 + o) data) s =
        .next ((b.setChan n d).onHpd (fun h => (h.winTell c o data.length).2)).settle ∧
        d.gf HPC_CNT_WINFAULT.COUNT = (c.gf HPC_CNT_WINFAULT.COUNT + 1) % 2 ^ 64 ∧ c.sameMem d)

/-- Every register of a channel whose write does nothing of its own takes a write of any agent that may write it field by field
under the access codes, and nothing else changes (shown bit by bit for the token sources of the interrupt controller, all RW, for
a version register, all RO, and for an interrupt register, W1C); token counters are set with the increments of the cycle added,
CH_TOK_INC adds an increment modulo 2^32, and a change of CH_E2_MODE takes effect while the engines are quiet. (Where it rests on
the model's own choices: notes/assumptions/18.md.) -/
def Obligations.RegistersTakeWrites : Prop :=
  (∀ (a : At) (ag : Agent) (v : Nat) (s : State), v < 2 ^ 64 →
    let c := s.here a
    let write (off : Nat) : Instr := .registerWrite a ag (namedBy ag a.chan off) v
    (∀ off desc, chanDesc off = some desc → actsOnWrite off = false → (precReg off && c.claimed off) = false → s.writable a ag off v →
      GivesBy ag off (write off) s a (fun d =>
        d.rd off = desc.write (c.rd off) v % 2 ^ 64 ∧ c.sameMem d ∧ c.sameRegsBut d [off])) ∧
    (∀ i, i < 16 → s.writable a ag (CIC_TOKSRC.off i) v → GivesBy ag (CIC_TOKSRC.off i) (write (CIC_TOKSRC.off i)) s a (fun d =>
      d.gf (CIC_TOKSRC.INDEX i) = bits v 0 8 ∧ d.gf (CIC_TOKSRC.EN i) = bits v 8 1 ∧ d.gf (CIC_TOKSRC.THR i) = bits v 32 32 ∧
      c.sameMem d ∧ c.sameRegsBut d [CIC_TOKSRC.off i])) ∧
    (s.writable a ag CH_ID.off v → GivesBy ag CH_ID.off (write CH_ID.off) s a (fun d => c.sameRegsBut d [] ∧ c.sameMem d)) ∧
    (s.writable a ag HBM_IRQ.off v → GivesBy ag HBM_IRQ.off (write HBM_IRQ.off) s a (fun d =>
      (∀ k, k < 4 → bit (d.rd HBM_IRQ.off) k = (bit (c.rd HBM_IRQ.off) k && !bit v k)) ∧
      c.sameMem d ∧ c.sameRegsBut d [HBM_IRQ.off]))) ∧
  (∀ (a : At) (ag : Agent) (i v : Nat) (s : State),
    let c := s.here a
    (i < 256 → s.writable a ag (CH_TOK.off i) v → GivesBy ag (CH_TOK.off i) (.tokenWrite a ag i v) s a (fun d =>
      d.tok i = (v + (c.cycOf (CH_TOK.off i)).2) % 2 ^ 32 ∧ c.sameMem d ∧ c.sameRegsBut d [CH_TOK.off i])) ∧
    (s.writable a ag CH_TOK_INC.off v → GivesBy ag CH_TOK_INC.off (.chTokInc a ag v) s a (fun d =>
      d.tok (bits v 0 8) = (c.tok (bits v 0 8) + bits v 16 16) % 2 ^ 32 ∧ c.sameMem d ∧
      c.sameRegsBut d [CH_TOK.off (bits v 0 8)])) ∧
    (s.writable a ag CH_E2_MODE.off v → c.e2Quiet = true → bits v 0 1 ≠ c.gf CH_E2_MODE.ENABLE →
      GivesBy ag CH_E2_MODE.off (.e2ModeWrite a ag v) s a (fun d =>
        d.gf CH_E2_MODE.ENABLE = bits v 0 1 ∧ c.sameMem d ∧ ∀ k, k < 16 → (d.me k).wElem = [] ∧ (d.me k).loadDone = [])))

/-- CNT_CTL.CLR sets its block's counters to zero (their reset value), and nothing else. A write of a LOG_IDX copies the record
that it names into the data registers and says whether there is one. (Where it rests on the model's own choices:
notes/assumptions/143.md.) -/
def Obligations.CountersClearAndRecordsCopy : Prop :=
  (∀ (a : At) (ag : Agent) (off : Nat) (s : State),
    (counterRanges off ≠ [] → s.writable a ag off 1 → GivesBy ag off (.counterClear a ag off) s a (fun d =>
      (s.here a).sameMem d ∧
      ∀ k, d.rd k = if (counterRanges off).any (fun r => r.1 ≤ k && k < r.2) then (regReset (s.here a).num k).toNat
        else (s.here a).rd k)) ∧
    (s.writableHpd a ag HP_CNT_CTL.off 1 → GivesHpdBy ag HP_CNT_CTL.off (.counterClear a ag HP_CNT_CTL.off) s a (fun h =>
      h.gf HP_CNT_BADACC.COUNT = 0 ∧ h.gf HP_CNT_REFUSED.COUNT = 0 ∧
      (s.enter a).hpd.sameRegsBut h [HP_CNT_BADACC.off, HP_CNT_REFUSED.off])) ∧
    (s.writableHpd a ag MG_CNT_CTL.off 1 → GivesHpdBy ag MG_CNT_CTL.off (.counterClear a ag MG_CNT_CTL.off) s a (fun h =>
      h.gf MG_CNT_UART.COUNT = 0 ∧ h.gf MG_CNT_SMB.COUNT = 0 ∧
      (s.enter a).hpd.sameRegsBut h [MG_CNT_UART.off, MG_CNT_SMB.off]))) ∧
  (∀ (a : At) (ag : Agent) (v : Nat) (s : State),
    (s.writable a ag HR_LOG_IDX.off v → GivesBy ag HR_LOG_IDX.off (.logIdxWrite a ag false v) s a (fun d =>
      d.gf HR_LOG_IDX.INDEX = v % 2 ^ 32 ∧
      (let age := ((s.here a).gf HR_LOG_STAT.WCNT + 2 ^ 32 - v % 2 ^ 32) % 2 ^ 32
       (d.flag HR_LOG_IDX.VALID = true ↔ 1 ≤ age ∧ age ≤ 4096)) ∧
      (∀ k, k < 4 → d.rd (HR_LOG_D.off k) = leAt (recBytes ((s.here a).logAt (v % 2 ^ 32))) (8 * k) 8) ∧
      (s.here a).sameMem d ∧
      (s.here a).sameRegsBut d [HR_LOG_IDX.off, HR_LOG_D.off 0, HR_LOG_D.off 1, HR_LOG_D.off 2, HR_LOG_D.off 3])) ∧
    (s.writableHpd a ag MG_LOG_IDX.off v → GivesHpdBy ag MG_LOG_IDX.off (.logIdxWrite a ag true v) s a (fun h =>
      let r := if bit v 32 then (s.enter a).hpd.nvAt (v % 2 ^ 32) else (s.enter a).hpd.logAt (v % 2 ^ 32)
      h.gf MG_LOG_IDX.INDEX = v % 2 ^ 32 ∧ h.gf MG_LOG_IDX.VALID = b2n r.isSome ∧
      ∀ k, k < 4 → h.rd (MG_LOG_D.off k) = leAt (recBytes r) (8 * k) 8)))

/-- RPT_CLR clears one tag's entry of the report card, or every entry, and an increment of the same cycle is applied after the
clear; RPT_SNAP_CTL copies a tag's entry as it stood before this cycle's increments. (Where it rests on the model's own choices:
notes/assumptions/18.md.) -/
def Obligations.ReportCardIsClearedAndCopied : Prop :=
  (∀ (a : At) (ag : Agent) (t : Nat) (s : State), t < 4096 →
    let c := s.here a
    (s.writable a ag RPT_CLR.off (2 ^ 16 + t) → GivesBy ag RPT_CLR.off (.rptClrOne a ag t) s a (fun d =>
      (∀ k, k < 7 → d.rd (rptKey t k) = min maxU64 (c.cycOf (rptKey t k)).2 % 2 ^ 64) ∧ c.sameMem d ∧
      c.sameRegsBut d ((List.range 7).map (rptKey t)))) ∧
    (s.writable a ag RPT_CLR.off (2 ^ 17) →
      (∀ e ∈ c.cyc, 0x190000 ≤ e.1 → e.1 < 0x1D0000 → e.2.1 ≠ c.now / 4) →
      GivesBy ag RPT_CLR.off (.rptClrAll a ag) s a (fun d =>
        (∀ u k, u < 4096 → k < 7 → d.rd (rptKey u k) = 0) ∧ c.sameMem d ∧
        ∀ off, off < 0x190000 ∨ 0x1D0000 ≤ off → d.rd off = c.rd off))) ∧
  (∀ (a : At) (ag : Agent) (v : Nat) (s : State), s.writable a ag RPT_SNAP_CTL.off v →
    let c := s.here a
    let t := bits v 0 12
    GivesBy ag RPT_SNAP_CTL.off (.rptSnap a ag v) s a (fun d =>
      (∀ k, k < 7 → d.rd (RPT_SNAP.off k) = (c.cycOf (rptKey t k)).1 % 2 ^ 64) ∧ d.gf RPT_SNAP_TAG.TAG = t ∧
      (bit v 16 = false → ∀ k, k < 7 → d.rd (rptKey t k) = c.rd (rptKey t k)) ∧ c.sameMem d))

/-! ### Engine queues -/

/-- The commands of every queue are started once they are at the head, with their waits satisfied and the checks of R78 passed:
those that every engine queue takes, those of the matrix, vector and update engines, and those of the transfer engines, the
collective engine and the host queue. (Where it rests on the model's own choices: notes/assumptions/5.md, 22.md.) -/
def Obligations.QueuedCommandsStart : Prop :=
  (∀ (a : At) (q : Nat) (s : State),
    Starts (.nop a q) s a q 0x00 specNop ∧ Starts (.event a q) s a q 0x01 specEvent ∧
    Starts (.lessonCall a q) s a q 0x02 specCall ∧ Starts (.lessonRet a q) s a q 0x03 specRet ∧
    Starts (.retakeBegin a q) s a q 0x04 specRetakeBegin ∧ Starts (.qctl a q) s a q 0x06 specQctl) ∧
  (∀ (a : At) (q : Nat) (s : State),
    Starts (.meLoadw a q) s a q 0x10 specLoadw ∧ Starts (.mePass a q) s a q 0x11 specPass ∧
    Starts (.meDrain a q) s a q 0x12 specMeDrain ∧ Starts (.meAccClear a q) s a q 0x13 specAccClear ∧
    Starts (.meAccExport a q) s a q 0x14 specAccExport ∧ Starts (.veOp a q) s a q 0x30 specVeOp ∧
    Starts (.veFunc a q) s a q 0x31 specVeFunc ∧ Starts (.veCompress a q) s a q 0x32 specCompress ∧
    Starts (.veExpand a q) s a q 0x33 specExpand ∧ Starts (.veSetvl a q) s a q 0x34 specSetvl ∧
    Starts (.uuUpdate a q) s a q 0x40 specUuUpdate ∧ Starts (.uuDerive a q) s a q 0x41 specDerive) ∧
  (∀ (a : At) (q : Nat) (s : State),
    Starts (.copy a q) s a q 0x20 specCopy ∧ Starts (.deliver a q) s a q 0x21 specDeliver ∧
    Starts (.atomic a q) s a q 0x22 specAtomic ∧ Starts (.fence a q) s a q 0x23 specFence ∧
    Starts (.regWr a q) s a q 0x24 specRegWr ∧ Starts (.regRd a q) s a q 0x25 specRegRd ∧
    Starts (.rdma a q) s a q 0x26 specRdma ∧ Starts (.ceRs a q) s a q 0x50 specCeCmd ∧
    Starts (.ceAg a q) s a q 0x51 specCeCmd ∧ Starts (.ceAr a q) s a q 0x52 specCeCmd ∧
    Starts (.hqForward a) s a 0x80 0x60 specForward ∧ Starts (.hqWrite a) s a 0x80 0x61 specHqWrite ∧
    Starts (.hqDma a) s a 0x80 0x62 specHqDma ∧ Starts (.hqResult a) s a 0x80 0x63 specHqResult ∧
    Starts (.hqFlag a) s a 0x80 0x64 specHqFlag)

/-- A head that fails a check of R78 is not started: the queue halts, Q_ERR holds the halt's code, the opcode and DETAIL, no
memory changes, and the host queue asks for its interrupt. So for every command of every queue; a head whose opcode the queue does
not have halts it with OPCODE_INVALID, whichever command is evaluated. A waiting head whose wait limit passes halts its queue with
TOKEN_TIMEOUT and the unsatisfied counter in DETAIL. (Where it rests on the model's own choices: notes/assumptions/5.md, 26.md,
121.md.) -/
def Obligations.FailuresHaltAQueue : Prop :=
  ((∀ (a : At) (q : Nat) (s : State),
    (Fails (.nop a q) s a q 0x00 specNop ∧ Fails (.event a q) s a q 0x01 specEvent ∧
     Fails (.lessonCall a q) s a q 0x02 specCall ∧ Fails (.lessonRet a q) s a q 0x03 specRet ∧
     Fails (.retakeBegin a q) s a q 0x04 specRetakeBegin ∧ Fails (.retakeEnd a q) s a q 0x05 specRetakeEnd ∧
     Fails (.qctl a q) s a q 0x06 specQctl) ∧
    (Fails (.meLoadw a q) s a q 0x10 specLoadw ∧ Fails (.mePass a q) s a q 0x11 specPass ∧
     Fails (.meDrain a q) s a q 0x12 specMeDrain ∧ Fails (.meAccClear a q) s a q 0x13 specAccClear ∧
     Fails (.meAccExport a q) s a q 0x14 specAccExport) ∧
    (Fails (.copy a q) s a q 0x20 specCopy ∧ Fails (.deliver a q) s a q 0x21 specDeliver ∧ Fails (.atomic a q) s a q 0x22 specAtomic ∧
     Fails (.fence a q) s a q 0x23 specFence ∧ Fails (.regWr a q) s a q 0x24 specRegWr ∧ Fails (.regRd a q) s a q 0x25 specRegRd ∧
     Fails (.rdma a q) s a q 0x26 specRdma) ∧
    (Fails (.veOp a q) s a q 0x30 specVeOp ∧ Fails (.veFunc a q) s a q 0x31 specVeFunc ∧
     Fails (.veCompress a q) s a q 0x32 specCompress ∧ Fails (.veExpand a q) s a q 0x33 specExpand ∧
     Fails (.veSetvl a q) s a q 0x34 specSetvl) ∧
    (Fails (.uuUpdate a q) s a q 0x40 specUuUpdate ∧ Fails (.uuDerive a q) s a q 0x41 specDerive) ∧
    (Fails (.ceRs a q) s a q 0x50 specCeCmd ∧ Fails (.ceAg a q) s a q 0x51 specCeCmd ∧ Fails (.ceAr a q) s a q 0x52 specCeCmd) ∧
    (Fails (.hqForward a) s a 0x80 0x60 specForward ∧ Fails (.hqWrite a) s a 0x80 0x61 specHqWrite ∧
     Fails (.hqDma a) s a 0x80 0x62 specHqDma ∧ Fails (.hqResult a) s a 0x80 0x63 specHqResult ∧
     Fails (.hqFlag a) s a 0x80 0x64 specHqFlag)) ∧
  (∀ (a : At) (q op : Nat) (h : Head) (s : State), (s.enter a).hpd.good = true → (s.here a).due q op h → opDefined op q = false →
    Gives (.nop a q) s a (fun d => (s.here a).haltedOn d q haltOPCODE 0 h))) ∧
  (∀ (a : At) (q key i t j : Nat) (ws : List (Nat × Nat)) (h : Head) (s : State), (s.enter a).hpd.good = true →
    let c := s.here a
    c.queueOn q = true → (c.queue q).st = .running → (c.queue q).halting = false → (c.queue q).wait = some (key, i, t, ws) →
    c.gf (Q_WAIT_LIMIT.LIMIT_US q) ≠ 0 → t + c.gf (Q_WAIT_LIMIT.LIMIT_US q) * tUs ≤ c.now →
    (c.head q).1 = .cmd h → h.key = key → (c.head q).2.unsat (waitsOf (c.queue q).seg h.raw) = some j →
    Gives (.tokenTimeout a q) s a (fun d =>
      (d.queue q).st = .halted ∧ d.gf (Q_ERR.CODE q) = 0x08 ∧ d.gf (Q_ERR.DETAIL q) = j % 2 ^ 32 ∧ ((c.head q).2 = c → c.sameMem d)))

/-- A command that completes with nothing started before it, outside segment and region, adds its signals to the token counters,
leaves the started commands and is consumed; no memory changes. Shown for a NOP and for any command of a queue without engines. A
FENCE completes only once every earlier remote write of its transfer engine is acknowledged. -/
def Obligations.CompletionAppliesSignals : Prop :=
  (∀ (a : At) (q : Nat) (h : Head) (s : State), (s.enter a).hpd.good = true →
    let c := s.here a
    c.startable q 0x00 specNop h → (c.queue q).started = [] → (c.queue q).seg = none → (c.queue q).rtk = none →
    evtOf h.raw = false → (c.head q).2 = c →
    Gives (.nop a q) s a (fun d =>
      (∀ i, i < 256 → d.tok i = (c.tok i + sigSum (sigsOf none h.raw) i) % 2 ^ 32) ∧
      (∀ e ∈ (d.queue q).ents, e.seq = h.ent → e.consumed = true) ∧ c.sameMem d)) ∧
  (∀ (a : At) (q : Nat) (h : Started) (s : State), (s.enter a).hpd.good = true →
    let c := s.here a
    c.queueOn q = true → isMe q = false → isVe q = false → isUu q = false →
    (c.queue q).started = [h] → c.cmdMayEnd q h = true → h.inSeg = false → h.logged = false → evtOf h.raw = false →
    (∀ e ∈ h.sigs, e.1 < 256) → (c.queue q).rtk = none →
    Gives (.commandComplete a q 0) s a (fun d =>
      (d.queue q).started = [] ∧ (∀ i, i < 256 → d.tok i = (c.tok i + sigSum h.sigs i) % 2 ^ 32) ∧
      (∀ e ∈ (d.queue q).ents, e.seq = h.ent → e.consumed = true) ∧ c.sameMem d)) ∧
  (∀ (a : At) (q i : Nat) (h : Started) (s : State), (s.enter a).hpd.good = true →
    let c := s.here a
    c.queueOn q = true → isTe q = true → (c.queue q).started[i]? = some h → opcodeOf h.raw = 0x23 →
    ((∃ o ∈ c.ops ++ c.opq, o.writes = true ∧ o.q = q ∧ o.cmd < h.seq) → Gives (.commandComplete a q i) s a (fun d => d = c)) ∧
    ((∀ o ∈ c.ops ++ c.opq, o.writes = true → o.q = q → h.seq ≤ o.cmd) → h.st = .running → h.out = 0 → h.ready ≤ c.now →
      c.phased q h.seq = false → c.cmdMayEnd q h = true))

/-- Queue actions. HALT halts an idle queue, or a running one of which nothing runs, at once and otherwise waits; DRAIN drains;
RESUME runs a halted queue that holds entries; SKIP consumes the halted head; FLUSH leaves nothing to run. (Where it rests on the
model's own choices: notes/assumptions/120.md.) -/
def Obligations.QueueActionsAct : Prop :=
  ∀ (a : At) (ag : Agent) (q : Nat) (s : State), queueId q = true →
    let c := s.here a
    let x := c.queue q
    (s.writable a ag (Q_CTL.off q) 2 →
      (x.st = .idle ∨ (x.st = .running ∨ x.st = .draining) ∧ x.busy = 0 → GivesBy ag (Q_CTL.off q) (.qHalt a ag q) s a (fun d =>
        (d.queue q).st = .halted ∧ d.gf (Q_ERR.CODE q) = haltHALT_REQUESTED ∧ c.sameMem d)) ∧
      (x.st = .running → x.busy ≠ 0 → (∀ sg, x.seg = some sg → sg.ret = true ∨ sg.pos < sg.count) →
        GivesBy ag (Q_CTL.off q) (.qHalt a ag q) s a (fun d =>
        (d.queue q).halting = true ∧ c.sameMem d))) ∧
    (s.writable a ag (Q_CTL.off q) 4 →
      (x.st = .idle → GivesBy ag (Q_CTL.off q) (.qDrain a ag q) s a (fun d =>
        (d.queue q).st = .halted ∧ d.gf (Q_ERR.CODE q) = haltDRAINED ∧ c.sameMem d)) ∧
      (x.st = .running → x.busy ≠ 0 → GivesBy ag (Q_CTL.off q) (.qDrain a ag q) s a (fun d =>
        (d.queue q).st = .draining ∧ c.sameMem d))) ∧
    (s.writable a ag (Q_CTL.off q) 1 → x.st = .halted → x.fenced = false → x.seg = none → x.halting = false →
      x.started = [] → GivesBy ag (Q_CTL.off q) (.qResume a ag q) s a (fun d =>
        (d.queue q).st = (if x.next?.isSome ∨ q = 0x80 ∧ c.hqRest ≠ 0 then .running else .idle) ∧ c.sameMem d)) ∧
    (s.writable a ag (Q_CTL.off q) 8 → x.st = .halted → x.started = [] →
      GivesBy ag (Q_CTL.off q) (.qFlush a ag q) s a (fun d =>
        (d.queue q).next? = none ∧ (d.queue q).seg = none ∧ c.sameMem d)) ∧
    (s.writable a ag (Q_CTL.off q) 0x11 → q ≠ 0x80 → x.st = .halted → x.fenced = false → x.halting = false → x.seg = none →
      x.started = [] → ∀ e, x.next? = some e → GivesBy ag (Q_CTL.off q) (.qSkip a ag q) s a (fun d =>
        (∀ y ∈ (d.queue q).ents, y.seq = e.seq → y.consumed = true) ∧
        ((d.queue q).st = .running ∨ (d.queue q).st = .idle) ∧ c.sameMem d))

/-- A write of Q_DEPTH binds an unbound queue to a ring in memory of 4 to 4096 slots, a multiple of 4, and unbinds an empty one. A
waiting producer with no earlier one in its way appends once there is room: its one or four slots lie in the ring at the tail, its
entry is the last of the queue, an idle queue runs, and memory outside the slots is as before. (Where it rests on the model's own
choices: notes/assumptions/28.md, 122.md.) -/
def Obligations.QueuesAreBoundAndFilled : Prop :=
  (∀ (a : At) (ag : Agent) (q v : Nat) (s : State), queueId q = true → s.writable a ag (Q_DEPTH.off q) v →
    let c := s.here a
    let n := bits v 0 13
    (c.qDepth q = 0 → n % 4 = 0 → 4 ≤ n → n ≤ 4096 → inMem (c.qBase q) (64 * n) = true →
      GivesBy ag (Q_DEPTH.off q) (.qDepthWrite a ag q v) s a (fun d =>
        d.qDepth q = n ∧ (d.queue q).tail = 0 ∧ c.sameMem d)) ∧
    (n = 0 → (c.queue q).st = .idle ∨ (c.queue q).st = .halted → c.qFill q = 0 →
      GivesBy ag (Q_DEPTH.off q) (.qDepthWrite a ag q v) s a (fun d =>
        d.qDepth q = 0 ∧ (d.queue q).tail = 0 ∧ c.sameMem d))) ∧
  (∀ (a : At) (i : Nat) (w : Waiting) (s : State), s.coreLive a →
    let c := s.here a
    c.waiting[i]? = some w → (c.waiting.take i).any (fun u => u.q == w.q || u.launch.isSome && w.launch.isSome) = false →
    w.core = none → w.fwd = none → c.canAppend w.q w.raw = true → c.flaws = [] →
    Gives (.queueAppend a i) s a (fun d =>
      let x := c.queue w.q
      let n := slotsOf w.raw
      let slot (k : Nat) : Nat := ringAddr (c.qBase w.q) (c.qDepth w.q) (x.tail + k)
      d.waiting = c.waiting.eraseIdx i ∧
      (d.queue w.q).ents = x.ents ++ [{ seq := x.nseq, slot := x.tail, n := n, launch := w.launch, started := false, consumed := false }] ∧
      ((d.queue w.q).st = if x.st = .idle then .running else x.st) ∧
      (∀ k, k < n → d.peek (slot k) 64 = ((w.raw ++ leBytes 256 0).drop (64 * k)).take 64) ∧
      (∀ y, (∀ k, k < n → ¬ (slot k ≤ y ∧ y < slot k + 64)) → d.byte y = c.byte y)))

/-! ### Retake regions -/

/-- A member arrives at RETAKE_END; the region commits once all members have arrived without an overflow, and is tried again after
one; after an overflow in its third attempt it closes with FAULT, every member halts with NUMERIC_FAULT at its RETAKE_END, and the
counters stay as they are; ABORT marks it, and once nothing runs it closes. (Where it rests on the model's own choices:
notes/assumptions/19.md.) -/
def Obligations.RetakeRegionsResolve : Prop :=
  ∀ (a : At) (ag : Agent) (n q : Nat) (h : Head) (m : RtkMark) (s : State), n < 16 →
    let c := s.here a
    ((s.enter a).hpd.good = true → c.due q 0x05 h → ((c.atHead q).checked q specRetakeEnd h.raw).1 = none →
      (c.queue q).rtk = some m → m.region < 16 → q < 21 → (c.queue q).arrived = false → (c.queue q).started = [] →
      Gives (.retakeEnd a q) s a (fun d =>
        (d.queue q).arrived = true ∧ bit (d.gf (CH_RTK_STAT.ARRIVED m.region)) q = true)) ∧
    (s.coreLive a → c.flag (CH_RTK_STAT.OPEN n) = true → (c.retake n).aborting = false → c.members n ≠ [] →
      c.gf (CH_RTK_STAT.ARRIVED n) = c.gf (CH_RTK_CTL.MEMBERS n) →
      (∀ k ∈ c.members n, (c.queue k).st = .running) →
      (c.flag (CH_RTK_STAT.OVF n) = false → Gives (.retakeResolve a n) s a (fun d =>
        d.flag (CH_RTK_STAT.OPEN n) = false ∧
        d.gf (CH_RTK_STAT.COMMITS n) = (c.gf (CH_RTK_STAT.COMMITS n) + 1) % 2 ^ 16)) ∧
      (c.flag (CH_RTK_STAT.OVF n) = true → c.gf (CH_RTK_STAT.ATTEMPT n) < 2 → Gives (.retakeResolve a n) s a (fun d =>
        d.flag (CH_RTK_STAT.OPEN n) = true ∧ d.flag (CH_RTK_STAT.OVF n) = false ∧
        d.gf (CH_RTK_STAT.ATTEMPT n) = c.gf (CH_RTK_STAT.ATTEMPT n) + 1)) ∧
      (c.flag (CH_RTK_STAT.OVF n) = true → 2 ≤ c.gf (CH_RTK_STAT.ATTEMPT n) → Gives (.retakeResolve a n) s a (fun d =>
        d.flag (CH_RTK_STAT.OPEN n) = false ∧ d.flag (CH_RTK_STAT.FAULT n) = true ∧
        d.gf (CH_RTK_STAT.COMMITS n) = c.gf (CH_RTK_STAT.COMMITS n) ∧ (∀ i, i < 256 → d.tok i = c.tok i) ∧
        (∀ k ∈ c.members n, (d.queue k).st = .halted ∧ d.gf (Q_ERR.CODE k) = haltNUMERIC ∧ d.gf (Q_ERR.OPCODE k) = 0x05 ∧
          (d.queue k).started = (c.queue k).started ∧ (d.queue k).rtk = none) ∧ c.sameMem d))) ∧
    (s.writable a ag (CH_RTK_CTL.off n) (setBits (c.rd (CH_RTK_CTL.off n)) 32 1 1) →
      c.flag (CH_RTK_STAT.OPEN n) = true → GivesBy ag (CH_RTK_CTL.off n) (.rtkAbort a ag n) s a (fun d =>
        (d.retake n).aborting = true ∧ c.sameMem d)) ∧
    (s.coreLive a → (c.retake n).aborting = true → (∀ k ∈ c.members n, (c.queue k).busy = 0) →
      Gives (.retakeAborted a n) s a (fun d =>
        d.flag (CH_RTK_STAT.OPEN n) = false ∧ (d.retake n).aborting = false ∧ c.sameMem d))

/-! ### Matrix engines and function stages -/

/-- The loader writes its first load's tile 24 cycles after its lead, once the buffer's earlier passes have been taken; the array
ramps up and down. A free function stage grants the next requester in turn for two cycles and counts the grant. ME_LOADW takes its
place at the loader and ME_PASS among the passes; at a free port whose rows no pass writes, ME_DRAIN writes its rows through
scale, bias, activation and conversion, ME_ACC_EXPORT writes both words of every entry, and ME_ACC_CLEAR clears its rows. (Where
it rests on the model's own choices: notes/assumptions/23.md.) -/
def Obligations.LoaderRampsAndStagesMove : Prop :=
  (∀ (a : At) (k : Nat) (s : State), s.coreLive a → k < 16 →
    let c := s.here a
    let x := c.me k
    (∀ l rest h rows, x.loads = l :: rest → l.moving = false → l.lead + 24 ≤ c.cyc8 →
      (∀ p ∈ x.passes, p.wbuf = l.buf → p.seq < l.seq → p.rows ≤ p.admitted) →
      (∀ t, tget? l.buf x.lastOn = some t → t + 257 ≤ c.cyc8) →
      (c.queue k).cmd? l.seq = some h → isMx (loadParm h.raw).fmt = false →
      c.readRows h.raw h.pos (loadParm h.raw).stride (loadParm h.raw).rowBytes (loadParm h.raw).memRows = (some rows, c) →
      Gives (.loadTransfer a k) s a (fun d =>
        (d.me k).loads = { l with moving := true } :: rest ∧
        (d.me k).wElem = (x.putTile (loadParm h.raw) (tileCodes (loadParm h.raw) rows) []).wElem ∧
        (d.me k).acc = x.acc ∧ c.sameMem d ∧ c.sameRegsBut d [])) ∧
    (∀ p f, x.nextPass = some p → x.fed p.seq p.admitted = some f → x.arrayState c.cyc8 = 0 → x.bufLoaded p c.cyc8 = true →
      Gives (.rampUp a k) s a (fun d =>
      d.me k = { x with array := 1, arrayAt := c.cyc8 } ∧
      d.gf (ME_CNT_RAMPS.COUNT k) = (c.gf (ME_CNT_RAMPS.COUNT k) + 1) % 2 ^ 64 ∧
      c.sameMem d ∧ c.sameRegsBut d [ME_CNT_RAMPS.off k])) ∧
    (∀ t, x.lastAdmit = some t → x.nextPass = none → x.arrayState c.cyc8 = 2 → t + 511 ≤ c.cyc8 →
      Gives (.rampDown a k) s a (fun d =>
        d.me k = { x with array := 3, arrayAt := c.cyc8 } ∧ c.sameMem d ∧ c.sameRegsBut d []))) ∧
  (∀ (a : At) (k r : Nat) (s : State), s.coreLive a → k < 4 →
    let c := s.here a
    let x := c.fs k
    x.busy ≤ c.cyc8 → c.openCycle c.cyc8 = true →
    ((List.range 5).map (fun i => (x.last + 1 + i) % 5)).find? (fun r => c.fsWants k r) = some r →
    Gives (.fsGrant a k) s a (fun d =>
      (d.fs k).last = r ∧ (d.fs k).busy = c.cyc8 + 2 ∧
      (r = 0 → d.gf (FS_CNT_VE.COUNT k) = (c.gf (FS_CNT_VE.COUNT k) + 1) % 2 ^ 64 ∧ c.sameMem d) ∧
      (r ≠ 0 → d.gf (FS_CNT_ME.COUNT k) = (c.gf (FS_CNT_ME.COUNT k) + 1) % 2 ^ 64))) ∧
  (∀ (a : At) (k : Nat) (h : Head) (s : State), s.coreLive a → k < 16 →
    let c := s.here a
    let x := c.me k
    let raw := h.raw
    let seg := (c.queue k).seg
    let n := c.numberOf k h
    let free (r rows : Nat) : Prop := x.port = [] ∧ ∀ p ∈ x.passes, p.accRow + p.rows ≤ r ∨ r + rows ≤ p.accRow
    (c.clean k 0x10 specLoadw h → Gives (.meLoadw a k) s a (fun d =>
      (d.me k).loads = x.loads ++ [{ seq := n, buf := (loadParm raw).buf, lead := c.cyc8, moving := false, scale := opdPlace seg raw 40 }] ∧
      (d.wbufMeta k (loadParm raw).buf).1 = (loadParm raw).fmt % 2 ^ 8 ∧ (d.me k).acc = x.acc ∧ c.sameMem d)) ∧
    (c.clean k 0x11 specPass h → Gives (.mePass a k) s a (fun d =>
      (∃ p, (d.me k).passes = x.passes ++ [p] ∧ p.seq = n ∧ p.rows = fieldOf raw 36 37 ∧ p.accRow = fieldOf raw 38 39 ∧
        p.fmt = fieldOf raw 40 40 ∧ p.wbuf = bits (fieldOf raw 41 41) 0 1 ∧ p.init = bit (fieldOf raw 41 41) 1 ∧
        p.src = opdPlace seg raw 24 ∧ p.kk = c.passK k raw ∧ p.started = c.cyc8 ∧ p.admitted = 0) ∧
      (d.me k).acc = x.acc ∧ c.sameMem d)) ∧
    (let p := c.drainParm k raw
     c.clean k 0x12 specMeDrain h → free p.accRow p.rows → actGrant p.act = false → ∀ vec,
      (if p.perCol ∨ p.biasEn then (c.fetchOpd seg raw 48 p.vecBytes).1 = some vec else vec = []) →
      let scales := if p.perCol then words32 256 vec else []
      let bias := if p.biasEn then words32 256 (if p.perCol then vec.drop 1024 else vec) else []
      let row (i : Nat) : List Byte × List Byte × ConvCnt := convertAll p.ofmt (if p.rtz then .rtz else .rne) p.sat c.e2
        ((List.range 256).map (fun m => drainValue p scales bias m (x.accAt (p.accRow + i) m)))
      let dst := opdPlace seg raw 24
      Gives (.meDrain a k) s a (fun d =>
        (∀ i, i < p.rows → d.peek (dst + i * p.stride) (row i).1.length = (row i).1 ∧
          (isMx p.ofmt = true → d.peek (dst + p.rows * p.stride + 8 * i) (row i).2.1.length = (row i).2.1)) ∧
        (∀ z, (∀ i, i < p.rows → ¬ (dst + i * p.stride ≤ z ∧ z < dst + i * p.stride + (row i).1.length)) →
          ¬ (isMx p.ofmt = true ∧ dst + p.rows * p.stride ≤ z ∧ z < dst + p.rows * p.stride + 8 * p.rows) → d.byte z = c.byte z) ∧
        (∀ r m, m < 256 → (d.me k).accAt r m =
          if p.clear = true ∧ p.accRow ≤ r ∧ r < p.accRow + p.rows then (0, 0) else x.accAt r m))) ∧
    (let rows := fieldOf raw 36 37
     let r := fieldOf raw 38 39
     let stride := fieldOf raw 32 35
     let dst := opdPlace seg raw 24
     c.clean k 0x14 specAccExport h → free r rows → Gives (.meAccExport a k) s a (fun d =>
      (∀ i m, i < rows → m < 256 →
        d.peek (dst + i * stride + 8 * m) 8 = leBytes 4 (x.accAt (r + i) m).1 ++ leBytes 4 (x.accAt (r + i) m).2) ∧
      (∀ z, (∀ i, i < rows → ¬ (dst + i * stride ≤ z ∧ z < dst + i * stride + 2048)) → d.byte z = c.byte z) ∧ (d.me k).acc = x.acc)) ∧
    (let rows := fieldOf raw 26 27
     let r0 := fieldOf raw 24 25
     c.clean k 0x13 specAccClear h → free r0 rows → Gives (.meAccClear a k) s a (fun d =>
      (∀ r m, m < 256 → (d.me k).accAt r m = if r0 ≤ r ∧ r < r0 + rows then (0, 0) else x.accAt r m) ∧ c.sameMem d)))

/-- An active array whose buffer is loaded takes the next row of the first pass that has one left: the row enters the array, the
pass has admitted one more, and ME_CNT_ROWS counts it. The oldest row of an array is accumulated into a column 267 + n cycles
after its admission, and no other entry changes. (Where it rests on the model's own choices: notes/assumptions/23.md, 131.md.) -/
def Obligations.RowsAreAdmittedAndAccumulated : Prop :=
  (∀ (a : At) (k arr : Nat) (s : State), s.coreLive a → k < 16 →
    (∀ (p : MePass) (i : Nat) (h : Started) (bs sc : List Byte),
      let c := s.here a
      let x := c.me k
      let ns := if isMx p.fmt then p.kk / 32 else 0
      arr = 1 → x.arrayState c.cyc8 = 0 → rowAhead x.passes 0 = some (p, i) → x.fed p.seq i = none → x.queueLen (i % 256) < 16 →
      (c.queue k).cmd? p.seq = some h →
      c.fetchPlace h.raw (p.src + i * p.stride) (elemBytes p.fmt p.kk) = (some bs, c) →
      c.fetchPlace h.raw (p.scale + i * ns) ns = (some sc, c) →
      Gives (.rowAdmit a k arr) s a (fun d =>
        d.me k = { x with feeder := x.feeder ++ [⟨p.seq, i, (List.range p.kk).map (fun j => elemAt p.fmt bs j), sc.map (·.toNat)⟩] } ∧
        c.sameMem d ∧ c.sameRegsBut d [])) ∧
    (∀ (p : MePass) (f : FeedRow) (h : Started),
      let c := (s.here a).feedRows k 0 arr
      let x := c.me k
      x.nextPass = some p → x.fed p.seq p.admitted = some f → (∀ t, x.lastAdmit = some t → t + (if c.e2 then 16 else 1) ≤ c.cyc8) →
      (x.arrayState c.cyc8 = 2 ∨ (x.arrayState c.cyc8 = 1 ∧ x.arrayAt + 16 ≤ c.cyc8)) → x.bufLoaded p c.cyc8 = true →
      x.rowFree c.cyc8 p.seq (p.accRow + p.admitted) = true →
      c.openCycle c.cyc8 = true → (c.queue k).cmd? p.seq = some h →
      Gives (.rowAdmit a k arr) s a (fun d =>
        d.gf (ME_CNT_ROWS.COUNT k) = (c.gf (ME_CNT_ROWS.COUNT k) + 1) % 2 ^ 64 ∧
        (d.me k).lastAdmit = some c.cyc8 ∧ tget? p.wbuf (d.me k).lastOn = some c.cyc8 ∧
        (d.me k).rows = x.rows ++ [⟨p.seq, p.admitted, c.cyc8, f.elems, f.scales, 0⟩] ∧
        (d.me k).feeder = x.feeder.filter (fun g => g ≠ f) ∧
        (d.me k).passes = x.passes.map (fun y => if y.seq = p.seq then { y with admitted := y.admitted + 1 } else y) ∧
        (d.me k).acc = x.acc ∧ c.sameMem d ∧ c.sameRegsBut d [ME_CNT_ROWS.off k]))) ∧
  (∀ (a : At) (k col : Nat) (p : MePass) (r : MeRow) (rest : List MeRow) (s : State), s.coreLive a → k < 16 → col < 256 →
    let c := s.here a
    let x := c.me k
    let prods := x.products p r col
    let row := p.accRow + r.idx
    x.rows = r :: rest → x.passes.find? (fun y => y.seq == r.pass) = some p → bit r.cols col = false →
    r.at_ + 267 + col ≤ c.cyc8 → (if col < 128 then p.valid.1 else p.valid.2) = true →
    Gives (.accWrite a k r.pass r.idx col) s a (fun d =>
      (d.me k).accAt row col =
        (if c.e2 then (e2Accumulate p.init (x.accAt row col).1 ((groups32 16 prods).map groupSum), 0)
         else accCombine p.init (x.accAt row col).1 (x.accAt row col).2 (passSum (logNOf p.fmt) prods).1) ∧
      (∀ i j, j < 256 → (i, j) ≠ (row, col) → (d.me k).accAt i j = x.accAt i j) ∧
      c.sameMem d))

/-! ### Stage slots -/

/-- The actions of SS_CTL act in the states that admit them (Table 9-2). A BIND that fails a check of Table 9-3 leaves the slot
unbound, with the first failing check in BIND_ERR and its record; a START whose version entries would lie beyond V3 is recorded.
An action that a slot's state does not admit changes nothing and is recorded: so an UNBIND while a record or a queued entry is
left, and a discard in UNBOUND or FENCED; a discard from an empty queue does nothing at all. (Where it rests on the model's own
choices: notes/assumptions/99.md, 119.md.) -/
def Obligations.SlotActionsAct : Prop :=
  (∀ (a : At) (ag : Agent) (sl : Nat) (s : State), sl < 8 →
    let c := s.here a
    let x := c.slot sl
    let off := SS_CTL.off sl
    (s.writable a ag off 1 → c.ssState sl = ssUNBOUND → c.bindCheck sl = 0 → c.bindImages sl = (false, c) → GivesBy ag off (.bindSlot a ag sl) s a (fun d =>
      d.ssState sl = ssBOUND ∧ d.slot sl = {} ∧
      (∀ j, j < 8 → d.gf (SS_OUT_B.PASSES sl j) = c.gf (SS_OUT_B.DEPTH sl j) ∧ d.gf (SS_OUT_B.NEXT sl j) = 0) ∧
      (∀ e, e < 4 → d.gf (VS_ENT_A.STATE sl e) = 0 ∧ d.gf (VS_ENT_A.REFS sl e) = 0) ∧
      d.gf (SS_STAT.LAST_PHASE sl) = 1 ∧ c.sameMem d)) ∧
    (s.writable a ag off 1 → c.ssState sl = ssUNBOUND → c.bindCheck sl ≠ 0 → c.bindImages sl = (false, c) →
      GivesBy ag off (.bindSlot a ag sl) s a (fun d =>
        d.ssState sl = ssUNBOUND ∧ d.gf (SS_STAT.BIND_ERR sl) = c.bindCheck sl ∧ d.slots = c.slots ∧
        c.logged d 0x07 0x61 2 (det [(16, 1, sl), (17, 1, c.bindCheck sl)]) ∧
        c.sameMem d ∧ c.sameRegsBut d [SS_STAT.off sl, HR_LOG_STAT.off])) ∧
    (s.writable a ag off 2 → c.ssState sl = ssBOUND → (c.gf (SS_CFG.VSTAGES sl) + 1) * c.vsE sl ≤ 4 →
      GivesBy ag off (.startSlot a ag sl) s a (fun d =>
        d.ssState sl = ssACTIVE ∧ c.sameMem d ∧ c.sameRegsBut d [SS_STAT.off sl])) ∧
    (s.writable a ag off 2 → c.ssState sl = ssBOUND → 4 < (c.gf (SS_CFG.VSTAGES sl) + 1) * c.vsE sl →
      GivesBy ag off (.startSlot a ag sl) s a (fun d =>
        d.ssState sl = ssACTIVE ∧
        c.logged d 0x08 0x82 2 (det [(16, 1, sl), (17, 1, c.gf (VS_CFG.MODE sl)), (18, 1, c.gf (SS_CFG.VSTAGES sl))]) ∧
        c.sameMem d ∧ c.sameRegsBut d [SS_STAT.off sl, HR_LOG_STAT.off])) ∧
    (s.writable a ag off 3 → c.ssState sl = ssACTIVE → x.launches = [] → x.copies = [] →
      GivesBy ag off (.drainSlot a ag sl) s a (fun d =>
        d.ssState sl = ssBOUND ∧ d.gf (SS_STAT.DRAINED sl) = 1 ∧ c.sameMem d ∧ c.sameRegsBut d [SS_STAT.off sl])) ∧
    (s.writable a ag off 3 → c.ssState sl = ssACTIVE → c.callsStarted sl = false →
      GivesBy ag off (.drainSlot a ag sl) s a (fun d =>
        d.ssState sl = ssACTIVE ∧ d.flag (SS_STAT.STOPPING sl) = true ∧ c.sameMem d)) ∧
    (s.writable a ag off 3 → c.ssState sl = ssACTIVE → c.callsStarted sl = true → x.launches ≠ [] ∨ x.copies ≠ [] →
      GivesBy ag off (.drainSlot a ag sl) s a (fun d =>
        d.ssState sl = ssDRAINING ∧ d.flag (SS_STAT.STOPPING sl) = false ∧ d.slots = c.slots ∧ c.sameMem d ∧
        c.sameRegsBut d [SS_STAT.off sl])) ∧
    (s.writable a ag off 4 → c.ssState sl = ssBOUND → x.recs = [] → x.fq = [] → x.bq = [] →
      GivesBy ag off (.unbindSlot a ag sl) s a (fun d =>
        d.ssState sl = ssUNBOUND ∧ c.sameMem d ∧ c.sameRegsBut d [SS_STAT.off sl])) ∧
    (s.writable a ag off 5 → c.ssState sl = ssBOUND → GivesBy ag off (.abandonSlot a ag sl) s a (fun d =>
      (d.slot sl).recs = [] ∧ (d.slot sl).ends = [] ∧
      (∀ e, e ∈ (d.slot sl).fq ∨ e ∈ (d.slot sl).bq → e.released = true) ∧ c.sameMem d)) ∧
    (c.ssState sl = ssBOUND ∨ c.ssState sl = ssACTIVE ∨ c.ssState sl = ssDRAINING →
      (∀ e, s.writable a ag off 6 → x.headEnt false = some e → GivesBy ag off (.discardF a ag sl) s a (fun d =>
        (∀ y ∈ (d.slot sl).fq, y.idx = e.idx → y.released = true) ∧
        (c.gf (SS_STAT.FAULT_Q sl) = 0 → d.flag (SS_STAT.FAULT sl) = false) ∧ c.sameMem d)) ∧
      (∀ e, s.writable a ag off 7 → x.headEnt true = some e → GivesBy ag off (.discardB a ag sl) s a (fun d =>
        (∀ y ∈ (d.slot sl).bq, y.idx = e.idx → y.released = true) ∧
        (c.gf (SS_STAT.FAULT_Q sl) = 1 → d.flag (SS_STAT.FAULT sl) = false) ∧ c.sameMem d)))) ∧
  (∀ (a : At) (ag : Agent) (sl : Nat) (s : State), sl < 8 →
    let c := s.here a
    let off := SS_CTL.off sl
    let ignored (k : Nat) (d : Chan) : Prop :=
      c.logged d 0x07 0x60 0 (det [(16, 1, sl), (17, 1, k), (18, 1, c.ssState sl), (19, 2, 0)]) ∧
      c.sameMem d ∧ c.sameRegsBut d [HR_LOG_STAT.off] ∧ d.slots = c.slots
    (s.writable a ag off 1 → c.ssState sl ≠ ssUNBOUND → GivesBy ag off (.bindSlot a ag sl) s a (ignored 1)) ∧
    (s.writable a ag off 2 → c.ssState sl ≠ ssBOUND → GivesBy ag off (.startSlot a ag sl) s a (ignored 2)) ∧
    (s.writable a ag off 3 → c.ssState sl ≠ ssACTIVE → GivesBy ag off (.drainSlot a ag sl) s a (ignored 3)) ∧
    (s.writable a ag off 4 → c.ssState sl ≠ ssBOUND → GivesBy ag off (.unbindSlot a ag sl) s a (ignored 4)) ∧
    (s.writable a ag off 4 → c.ssState sl = ssBOUND → (c.slot sl).recs ≠ [] ∨ (c.slot sl).fq ≠ [] ∨ (c.slot sl).bq ≠ [] →
      GivesBy ag off (.unbindSlot a ag sl) s a (ignored 4)) ∧
    (s.writable a ag off 5 → c.ssState sl ≠ ssBOUND → GivesBy ag off (.abandonSlot a ag sl) s a (ignored 5)) ∧
    (c.ssState sl = ssUNBOUND ∨ c.ssState sl = ssFENCED →
      (s.writable a ag off 6 → GivesBy ag off (.discardF a ag sl) s a (ignored 6)) ∧
      (s.writable a ag off 7 → GivesBy ag off (.discardB a ag sl) s a (ignored 7))) ∧
    (c.ssState sl = ssBOUND ∨ c.ssState sl = ssACTIVE ∨ c.ssState sl = ssDRAINING →
      (s.writable a ag off 6 → (c.slot sl).headEnt false = none → GivesBy ag off (.discardF a ag sl) s a (fun d => d = c)) ∧
      (s.writable a ag off 7 → (c.slot sl).headEnt true = none → GivesBy ag off (.discardB a ag sl) s a (fun d => d = c))))

/-- Configuration of a slot and of its version store (VS_CFG, VS_WC, VS_WC_STRIDE, VS_DONE) is taken in UNBOUND only;
configuration of a CE context only while it is not enabled. Otherwise nothing changes and the write is recorded, a write of
VS_DONE even in the cycle of a hardware write of it. -/
def Obligations.ConfigurationIsTakenWhenIdle : Prop :=
  ∀ (a : At) (ag : Agent) (sl off v : Nat) (desc : RegDesc) (s : State), sl < 8 → chanDesc off = some desc →
    let c := s.here a
    let store : Prop := off = VS_CFG.off sl ∨ off = VS_WC.off sl ∨ off = VS_WC_STRIDE.off sl ∨ off = VS_DONE.off sl
    s.writable a ag off v →
    (store → c.ssState sl ≠ ssUNBOUND → GivesBy ag off (.slotConfigWrite a ag off v) s a (fun d =>
      c.logged d 0x07 0x60 0 (det [(16, 1, sl), (17, 1, 0xFF), (18, 1, c.ssState sl), (19, 2, off - 0x60000)]) ∧
      c.sameMem d ∧ c.sameRegsBut d [HR_LOG_STAT.off])) ∧
    ((precReg off && c.claimed off) = false →
    (0x150000 + 0x1000 * sl < off → off < 0x151000 + 0x1000 * sl → counterRanges off = [] →
      (c.ssState sl = ssUNBOUND → GivesBy ag off (.slotConfigWrite a ag off v) s a (fun d =>
        d.rd off = desc.write (c.rd off) v % 2 ^ 64 ∧ c.sameMem d ∧ c.sameRegsBut d [off])) ∧
      (c.ssState sl ≠ ssUNBOUND → off % 0x1000 ≠ 0x008 → off % 0x1000 ≠ 0x018 → off % 0x1000 < 0x380 →
        GivesBy ag off (.slotConfigWrite a ag off v) s a (fun d =>
          c.logged d 0x07 0x60 0 (det [(16, 1, sl), (17, 1, 0xFF), (18, 1, c.ssState sl), (19, 2, off % 0x1000)]) ∧
          c.sameMem d ∧ c.sameRegsBut d [HR_LOG_STAT.off]))) ∧
    (store → c.ssState sl = ssUNBOUND →
      GivesBy ag off (.slotConfigWrite a ag off v) s a (fun d =>
        d.rd off = desc.write (c.rd off) v % 2 ^ 64 ∧ c.sameMem d ∧ c.sameRegsBut d [off])) ∧
    (0x70400 + 0x80 * sl < off → off < 0x70450 + 0x80 * sl → off ≠ CE_GRP_TERM.off sl →
      (c.ceEn sl = false → GivesBy ag off (.contextConfigWrite a ag off v) s a (fun d =>
        d.rd off = desc.write (c.rd off) v % 2 ^ 64 ∧ c.sameMem d ∧ c.sameRegsBut d [off])) ∧
      (c.ceEn sl = true → GivesBy ag off (.contextConfigWrite a ag off v) s a (fun d =>
        c.logged d 0x06 0x94 2 (det [(16, 1, sl), (17, 1, 3)]) ∧ c.sameMem d ∧ c.sameRegsBut d [HR_LOG_STAT.off]))))

/-- The timetable launches the end lesson first, else the one eligible head, forward or backward; stale heads are discarded and a
faulty head sets FAULT. A launch all of whose lessons have ended leaves the slot and releases its queue entry, a backward launch
also frees its record; an off-load copy that is done moves its record on. (Where it rests on the model's own choices:
notes/assumptions/10.md.) -/
def Obligations.TimetableRuns : Prop :=
  (∀ (a : At) (sl : Nat) (s : State), s.coreLive a →
    let c := s.here a
    let w := c.evaluated sl
    let x := w.slot sl
    let only (bwd : Bool) (e : DescEnt) : Prop :=
      w.eligible sl (!bwd) = none ∨ ∃ e' b', w.eligible sl (!bwd) = some (e', b') ∧
        pickBwd (w.gf (SS_CFG.POLICY sl)) (if bwd then e'.stamp else e.stamp) (if bwd then e.stamp else e'.stamp)
          (w.gf (SS_STAT.LAST_PHASE sl)) = bwd
    c.serves sl = true →
    (c.ttBusy = false → c.headsRead sl → w.serves sl = true → w.ttBusy = false → w.turn sl = true →
      (∀ l r, x.ends = l :: r → (w.imageBad (w.gf (SS_VS_ELESSON.ADDR sl l.vst) * 64)).1 = false →
        Gives (.launch a sl) s a (fun d =>
          (d.slot sl).ends = r ∧ (d.slot sl).launches = x.launches ++ [{ l with id := w.nextLaunch, phase := 2 }] ∧
          d.flag (SS_STAT.STEP_END sl) = true ∧ d.gf (SS_STAT.LAST_PHASE sl) = 1 ∧ d.ttLast = sl)) ∧
      (∀ e b, x.ends = [] → w.eligible sl false = some (e, b) → only false e →
        (w.imageBad (w.gf (SS_VS_FLESSON.ADDR sl (dVST b)) * 64)).1 = false → Gives (.launch a sl) s a (fun d =>
          d.gf (SS_CNT_FWD.COUNT sl) = (w.gf (SS_CNT_FWD.COUNT sl) + 1) % 2 ^ 64 ∧ d.gf (SS_STAT.LAST_PHASE sl) = 0 ∧
          (d.slot sl).recs.map (fun r => (r.mb, r.vst)) = x.recs.map (fun r => (r.mb, r.vst)) ++ [(dMB b, dVST b)] ∧
          (d.slot sl).launches.map (fun l => (l.id, l.phase, l.mb)) =
            x.launches.map (fun l => (l.id, l.phase, l.mb)) ++ [(w.nextLaunch, 0, dMB b)] ∧ d.ttLast = sl)) ∧
      (∀ e b, x.ends = [] → w.eligible sl true = some (e, b) → only true e →
        (w.imageBad (w.gf (SS_VS_BLESSON.ADDR sl (dVST b)) * 64)).1 = false → Gives (.launch a sl) s a (fun d =>
          d.gf (SS_CNT_BWD.COUNT sl) = (w.gf (SS_CNT_BWD.COUNT sl) + 1) % 2 ^ 64 ∧ d.gf (SS_STAT.LAST_PHASE sl) = 1 ∧
          (d.slot sl).launches.map (fun l => (l.id, l.phase, l.mb)) =
            x.launches.map (fun l => (l.id, l.phase, l.mb)) ++ [(w.nextLaunch, 1, dMB b)] ∧ d.ttLast = sl))) ∧
    (∀ bwd, (c.headBad sl bwd).1 = false →
      let m := (c.headBad sl bwd).2
      (∀ e b, m.staleHead sl bwd = some (e, b) → Gives (.staleDiscard a sl bwd) s a (fun d =>
        d.gf (SS_CNT_STALE.COUNT sl) = (m.gf (SS_CNT_STALE.COUNT sl) + 1) % 2 ^ 64 ∧
        (∀ y ∈ (if bwd then (d.slot sl).bq else (d.slot sl).fq), y.idx = e.idx → y.released = true) ∧ m.sameMem d)) ∧
      (∀ e b, c.flag (SS_STAT.FAULT sl) = false → m.current sl bwd = some (e, b) → m.headFault sl bwd b ≠ 0 →
        Gives (.descFault a sl bwd) s a (fun d =>
          d.flag (SS_STAT.FAULT sl) = true ∧ d.gf (SS_STAT.FAULT_CODE sl) = m.headFault sl bwd b ∧
          d.gf (SS_STAT.FAULT_Q sl) = b2n bwd ∧
          m.logged d 0x07 0x63 2 (det [(16, 1, sl), (17, 1, m.headFault sl bwd b), (18, 1, b2n bwd), (19, 4, dMB b), (23, 1, dVST b)]) ∧
          m.sameMem d ∧ m.sameRegsBut d [SS_STAT.off sl, HR_LOG_STAT.off])))) ∧
  (∀ (a : At) (sl i : Nat) (s : State), s.coreLive a → sl < 8 →
    let c := s.here a
    let x := c.slot sl
    (∀ l, x.launches[i]? = some l → (tget (fun _ => {}) c.calls l.id).unended = 0 →
      Gives (.launchComplete a sl i) s a (fun d =>
        (∀ y ∈ (d.slot sl).launches, y.id ≠ l.id) ∧
        (l.phase = 0 → ∀ y ∈ (d.slot sl).fq, y.idx = l.idx → y.released = true) ∧
        (l.phase = 2 → ∀ y ∈ (d.slot sl).bq, y.idx = l.idx → y.released = true) ∧
        (l.phase = 1 → (∀ r ∈ (d.slot sl).recs, r.pos ≠ l.pos) ∧
          (l.last = false → ∀ y ∈ (d.slot sl).bq, y.idx = l.idx → y.released = true)))) ∧
    (∀ p, x.copies.find? (fun p => p.i == i && c.copyDone p) = some p → p.fetch = false → (∀ r ∈ x.recs, r.want = false) →
      Gives (.offloadCopyDone a sl i) s a (fun d =>
        (d.slot sl).copies = x.copies.filter (fun y => y.id != p.id) ∧
        (d.slot sl).recs = x.recs.map (fun r => if r.i = i then (if r.pos = p.pos ∧ r.off = 1 then { r with off := 2 } else r) else r) ∧
        c.sameMem d)))

/-! ### The version store, the update unit and the collective engine -/

/-- VS_PUB publishes, after the retirements that are due, an entry that is free and newer than its virtual stage's others. An
entry without references whose steps are done, superseded or past the staleness bound, is to retire: it does so when its MCLK
cycle ends, before anything of the next, if that still holds, and gives its token. A block whose inactive slot is written commits
with one journal word: STEP, TERM, the other slot active, the rule. The update unit. A UU_UPDATE of another term is stale: it is
counted and touches no block. A block whose inputs are at hand is computed and its inactive slot in memory written, which commits
it. A UU_DERIVE writes its master values, converted to nearest or stochastically rounded. (Where it rests on the model's own
choices: notes/assumptions/45.md, 132.md.) -/
def Obligations.VersionsAndJournalsAdvance : Prop :=
  (∀ (a : At) (ag : Agent) (sl k v : Nat) (s : State), sl < 8 →
    let c := s.here a
    let due (c : Chan) : Prop :=
      let base := c.gf (VS_ENT_A.BASE_STEP sl k)
      let done := c.gf (VS_DONE.DONE_STEP sl)
      c.vsReady sl k = true ∧ c.gf (VS_ENT_A.REFS sl k) = 0 ∧ notEarlier 32 done (c.gf (VS_ENT_B.LAST_STEP sl k)) = true ∧
      ((∃ j, j < 4 ∧ c.vsReady sl j = true ∧ c.vsOwner sl j = c.vsOwner sl k ∧
          later 32 (c.gf (VS_ENT_A.BASE_STEP sl j)) base = true) ∨
        later 32 (done + 1) (base + c.vsStale sl) = true)
    (s.writable a ag (VS_PUB.off sl) v → k = bits v 0 2 →
      let c := (List.range 4).foldl (fun c j => c.vsRetire sl j) c
      c.vsReady sl k = false → c.vsOwner sl k ≤ c.gf (SS_CFG.VSTAGES sl) →
      (∀ j, j < 4 → c.vsReady sl j = true → c.vsOwner sl j = c.vsOwner sl k →
        notEarlier 32 (c.gf (VS_ENT_A.BASE_STEP sl j)) (bits v 32 32) = false) →
      GivesBy ag (VS_PUB.off sl) (.vsPub a ag sl v) s a (fun d =>
        d.vsReady sl k = true ∧ d.gf (VS_ENT_A.BASE_STEP sl k) = bits v 32 32 ∧ d.gf (VS_ENT_A.REFS sl k) = 0 ∧
        d.gf (VS_ENT_A.VSTAGE sl k) = c.vsOwner sl k % 4 ∧
        c.sameMem d ∧ c.sameRegsBut d [VS_ENT_A.off sl k, VS_ENT_B.off sl k])) ∧
    (s.coreLive a → k < 4 → due c → Gives (.vsRetired a sl k) s a (fun d =>
      (sl, k) ∈ d.retiring ∧ (∀ e ∈ c.retiring, e ∈ d.retiring) ∧ c.sameMem d ∧ c.sameRegsBut d [])) ∧
    (∀ (c : Chan) (t : Nat), c.now / 4 < t / 4 → c.advance t = c.vsRetireAll.advance t) ∧
    (∀ c : Chan, k < 4 → c.retiring = [(sl, k)] →
      let d := c.vsRetireAll
      d.retiring = [] ∧ c.sameMem d ∧
      (due c → d.vsReady sl k = false ∧ c.logged d 0x08 0x81 0 (det [(16, 1, sl), (17, 1, k), (18, 4, c.gf (VS_ENT_A.BASE_STEP sl k))]) ∧
        d.tok (c.gf (VS_CFG.FREE_TOK sl)) =
          (c.tok (c.gf (VS_CFG.FREE_TOK sl)) + b2n (c.flag (VS_CFG.FREE_TOK_EN sl))) % 2 ^ 32 ∧
        c.sameRegsBut d [VS_ENT_A.off sl k, CH_TOK.off (c.gf (VS_CFG.FREE_TOK sl)), HR_LOG_STAT.off]) ∧
      (¬ due c → c.sameRegsBut d []))) ∧
  (∀ (a : At) (i : Nat) (r : UuRun) (b : UuBlk) (s : State), s.coreLive a →
    let c := s.here a
    let e := tEntry r.table b.j
    c.uu = some r → c.isRunning qUU r.seq = true → r.blks.find? (fun y => y.j == i) = some b → b.st = 4 →
    (∀ y ∈ r.blks, y.st ≠ 0) → c.flaws = [] → eBUDDY e = 0 →
    Gives (.blockCommit a i) s a (fun d =>
      d.peek (eJOURNAL e) 32 =
        leBytes 4 r.step ++ leBytes 2 r.term ++ leBytes 1 (b2n (!(c.journal e).2)) ++ leBytes 1 (pRULE r.parm) ++ leBytes 24 0 ∧
      c.sameMemBut d (eJOURNAL e) 32 ∧
      (∀ t, d.uu = some t → ∀ y ∈ t.blks, y.j = i → y.st = 5) ∧
      d.gf UU_CNT_BLOCKS.COUNT = (c.gf UU_CNT_BLOCKS.COUNT + 1) % 2 ^ 64)) ∧
  (∀ (a : At) (s : State), s.coreLive a →
    let c := s.here a
    (∀ (h : Head) (t p : List Byte), c.clean qUU 0x40 specUuUpdate h →
      let raw := h.raw
      let seg := (c.queue qUU).seg
      (∀ o ∈ c.ops ++ c.opq, o.q = qUU → o.cmd ≠ c.numberOf qUU h) → (∀ y ∈ c.gathered, y.1 = qUU → y.2.1 ≠ c.numberOf qUU h) →
      c.updateInputs seg raw = (some t, some p) → t.length = 64 + 64 * tNBLK t → fieldOf raw 40 41 ≠ c.gf UU_TERM.TERM →
      Gives (.uuUpdate a qUU) s a (fun d =>
        d.gf UU_CNT_STALE.COUNT = (c.gf UU_CNT_STALE.COUNT + 1) % 2 ^ 64 ∧ d.flag UU_STAT.STALE = true ∧ d.uu = none ∧ c.sameMem d)) ∧
    (∀ (i x : Nat) (r : UuRun) (b : UuBlk),
      let e := tEntry r.table b.j
      let toB := !(c.journal e).2
      let new := c.newSlot r b
      let len := slotBytes r.parm (eNELEM e)
      c.uu = some r → c.isRunning qUU r.seq = true → r.blks.find? (fun y => y.j == i) = some b → b.st = 2 →
      (∀ y ∈ r.blks, y.st ≠ 0) → c.flaws = [] → eBUDDY e = 0 → c.openCycle c.cyc8 = true → locOf (slotAt r.parm e toB) = .lcl x →
      eJOURNAL e + 32 ≤ x ∨ x + len ≤ eJOURNAL e →
      Gives (.blockCommit a i) s a (fun d =>
        (∀ u ∈ slotParts r.parm (eNELEM e), d.peek (x + u.1) ((new.drop u.1).take u.2).length = (new.drop u.1).take u.2) ∧
        d.peek (eJOURNAL e) 32 = leBytes 4 r.step ++ leBytes 2 r.term ++ leBytes 1 (b2n toB) ++ leBytes 1 (pRULE r.parm) ++ leBytes 24 0 ∧
        (∀ z, ¬ (x ≤ z ∧ z < x + len) → ¬ (eJOURNAL e ≤ z ∧ z < eJOURNAL e + 32) → d.byte z = c.byte z) ∧
        d.gf UU_CNT_BLOCKS.COUNT = (c.gf UU_CNT_BLOCKS.COUNT + 1) % 2 ^ 64)) ∧
    (∀ (h : Head) (bs : List Byte) (y : Nat), c.clean qUU 0x41 specDerive h →
      let raw := h.raw
      let seg := (c.queue qUU).seg
      let dst := opdGlobal seg raw 32
      let fmt := c.promote qUU (fieldOf raw 41 41)
      let n := dvCount raw
      let step := (c.gf (VS_DONE.DONE_STEP (dvSlot raw)) + 1) % 2 ^ 32
      let vs := (List.range n).map (fun i => if dvBF16 raw then leAt bs (2 * i) 2 * 65536 else leAt bs (4 * i) 4)
      let rs := (List.range n).map (fun i =>
        randBits c.keyed (c.gf UU_DSEED.SEED) (setBits (c.gf UU_DPBASE.PBASE + i) 63 1 1) step c.fresh i)
      let out := if dvSR raw then convertSr fmt c.e2 rs vs else convertAll fmt .rne true c.e2 vs
      (c.atHand seg raw 24 (dvMaster raw)).1 = some (some bs) → locOf dst = .lcl y →
      (isMx fmt = true → locOf (dst + mxBase fmt n) = .lcl (y + mxBase fmt n)) →
      Gives (.uuDerive a qUU) s a (fun d =>
        d.peek y out.1.length = out.1 ∧ (isMx fmt = true → d.peek (y + mxBase fmt n) out.2.1.length = out.2.1) ∧
        (∀ z, ¬ (y ≤ z ∧ z < y + out.1.length) → ¬ (isMx fmt = true ∧ y + mxBase fmt n ≤ z ∧ z < y + mxBase fmt n + out.2.1.length) →
          d.byte z = c.byte z) ∧
        d.gf UU_CNT_ELEMS.COUNT = (c.gf UU_CNT_ELEMS.COUNT + n) % 2 ^ 64)))

/-- A CE context is enabled when its configuration passes the checks of Table 11-1 and disabled when no bucket is open; ABANDON
closes the buckets of other terms; a member whose deadline passes goes on absent; CLR empties a gradebook. A command of the
collective engine, with no news of its bucket yet: it opens the bucket, takes its place in it with its operation, count,
destination and contribution, sends the attendance bell of CE_RS and CE_AR, and has its first partial to send. A command of
another term, and one whose bucket is over, is stale: it completes at once. (Where it rests on the model's own choices:
notes/assumptions/50.md.) -/
def Obligations.ContextsAndDeadlines : Prop :=
  (∀ (a : At) (ag : Agent) (g v : Nat) (s : State), g < 8 →
    let c := s.here a
    (s.writable a ag (CE_GRP_CFG.off g) v → c.ceEn g = false → bit v 0 = true →
      (c.wrFields (CE_GRP_CFG.off g) (v - v % 2)).ceCheck g = none →
      GivesBy ag (CE_GRP_CFG.off g) (.ceGrpCfgWrite a ag g v) s a (fun d =>
        d.ceEn g = true ∧ tget (fun _ => 0) d.cePass g = c.gf (CE_GRP_STAGE_SIZE.BYTES g) / 4096 ∧
        d.gf (CE_GRP_CFG.GID g) = bits v 24 16 ∧ c.sameMem d ∧ c.sameRegsBut d [CE_GRP_CFG.off g])) ∧
    (s.writable a ag (CE_GRP_CFG.off g) v → c.ceEn g = true → bit v 0 = false → (∀ b ∈ c.bkts, b.g ≠ g) →
      (∀ u ∈ c.ceStage, u.g ≠ g) →
      GivesBy ag (CE_GRP_CFG.off g) (.ceGrpCfgWrite a ag g v) s a (fun d =>
        d.ceEn g = false ∧ c.sameMem d ∧ c.sameRegsBut d [CE_GRP_CFG.off g, CE_GRP_STAT.off g])) ∧
    (s.writable a ag (CE_GRP_CTL.off g) 1 → c.flaws = [] → (∀ b ∈ c.bkts, b.g = g → b.cmd = none) →
      GivesBy ag (CE_GRP_CTL.off g) (.ceAbandon a ag g) s a (fun d =>
        d.bkts = c.bkts.filter (fun b => !(b.g == g && b.term != c.ceTerm g)) ∧
        (∀ b, c.bkts.filter (fun b => b.g == g && b.term != c.ceTerm g) = [b] →
          d.peek (c.recAddr g b.bkt) 64 = leBytes 4 b.step ++ leBytes 2 b.term ++ leBytes 1 8 ++ leBytes 57 0 ∧
          c.sameMemBut d (c.recAddr g b.bkt) 64))) ∧
    (∀ bkt b t, s.coreLive a → c.bkts.find? (fun b => b.g == g && b.bkt == bkt && b.mode == 0 && b.term == c.ceTerm g) = some b →
      b.timer = some t → c.gf (CE_GRP_DEADLINE.DEADLINE_US g) ≠ 0 → t + c.gf (CE_GRP_DEADLINE.DEADLINE_US g) * tUs ≤ c.now →
      (b.gathers = false → Gives (.deadlineExpiry a g bkt) s a (fun d => ∀ y ∈ d.bkts, y.id = b.id → y.mode = 2)) ∧
      (b.gathers = true → b.seen.any (fun e => decide (e.1 ≤ 2)) = false → Gives (.deadlineExpiry a g bkt) s a (fun d => d = c))) ∧
    (s.writable a ag GB_CTL.off (8 + g) → GivesBy ag GB_CTL.off (.gbClr a ag g) s a (fun d =>
      (∀ i, i < 64 → d.gf (GB_E_A.VALID g i) = 0) ∧ c.sameMem d ∧ c.sameRegsBut d ((List.range 64).map (GB_E_A.off g))))) ∧
  (∀ (a : At) (q op g : Nat) (rest : List Nat) (h : Head) (i : Instr) (s : State), s.coreLive a →
    let c := s.here a
    let raw := h.raw
    let seg := (c.queue qCE).seg
    q = qCE → (op = 0x50 ∧ i = Instr.ceRs a q ∨ op = 0x51 ∧ i = .ceAg a q ∨ op = 0x52 ∧ i = .ceAr a q) →
    c.clean qCE op specCeCmd h → c.ceCtx (ceGROUP raw) = g :: rest → h.redo = none →
    c.findBkt g (ceTERM raw) (ceSTEP raw) (ceBUCKET raw) = none → (∀ b ∈ c.bkts, b.id ≠ c.nextBkt) →
    (ceTERM raw = c.ceTerm g → c.bktDone g (ceTERM raw) (ceSTEP raw) (ceBUCKET raw) = false → c.gf (CE_GRP_CARRY.ADDR g) = 0 →
      ∀ bs, (c.fetchOpd seg raw 40 (if op = 0x51 then c.ceExtent raw false else 4 * ceCOUNT raw)).1 = some bs →
      Gives i s a (fun d => ∃ b ∈ d.bkts,
        (b.id = c.nextBkt ∧ b.g = g ∧ b.term = ceTERM raw ∧ b.step = ceSTEP raw ∧ b.bkt = ceBUCKET raw) ∧
        (b.cmd = some (c.numberOf qCE h) ∧ b.op = op ∧ b.par = cePAR raw ∧ b.count = ceCOUNT raw ∧ b.dst = opdPlace seg raw 48 ∧
         b.mode = 1 ∧ b.timer = some c.now ∧ b.contrib = if op = 0x51 then bs.map BitVec.toNat else words32 (ceCOUNT raw) bs) ∧
        b.toSend ++ b.unacked ≠ [] ∧
        (if op = 0x51 then d.tc0 = c.tc0 else d.tc0 = (c.ceBell b).tc0 ∧ d.tc0Wait = (c.ceBell b).tc0Wait))) ∧
    (ceTERM raw ≠ c.ceTerm g ∨ c.bktDone g (ceTERM raw) (ceSTEP raw) (ceBUCKET raw) = true →
      Gives i s a (fun d => d.bkts = c.bkts ∧ d.tc0 = c.tc0 ∧ ∀ y, (d.queue qCE).cmd? (c.numberOf qCE h) = some y → y.st = .done)))

/-! ### Cores -/

/-- The instructions of a core that touch only the core: LUI, AUIPC, operations and immediates write rd; branches, JAL and JALR
set the pc; a CSR instruction returns the old value and writes the new one, or is illegal; floating-point operations and fused
ones write their register and accrue flags, and are illegal while FS is Off or for a reserved rounding mode; FENCE waits for the
core's own posted stores; WFI goes on. (Where it rests on the model's own choices: notes/assumptions/40.md, 144.md.) -/
def Obligations.CoreInstructionsExecute : Prop :=
  ∀ (a : At) (h raw len : Nat) (i : Rv) (d : Chan) (s : State), s.coreLive a → (s.here a).atInstr h raw len i d →
    let x := d.core h
    let does (P : Core → Prop) : Prop := Gives (.coreInstruction a h) s a (fun e => P (e.core h) ∧ d.sameMem e ∧ d.sameRegsBut e [])
    let illegal : Prop := does (fun y => x.trapped y 2 (raw % 2 ^ 64) x.handler)
    let jumps (rd t : Nat) : Prop := does (fun y =>
      y.pc = BitVec.ofNat 64 (t - t % 2) ∧ (rd ≠ 0 → y.xr rd = (x.pc.toNat + len) % 2 ^ 64) ∧
      (∀ r, r ≠ rd → y.xr r = x.xr r) ∧ y.f = x.f ∧ y.user = x.user)
    (∀ rd imm, i = .lui rd imm → does (fun y => x.stepped y len rd (imm % 2 ^ 64))) ∧
    (∀ rd imm, i = .auipc rd imm → does (fun y => x.stepped y len rd ((x.pc.toNat + imm) % 2 ^ 64))) ∧
    (∀ o w rd rs1 rs2, i = .op o w rd rs1 rs2 → does (fun y => x.stepped y len rd (aluRun o w (x.xr rs1) (x.xr rs2) % 2 ^ 64))) ∧
    (∀ o w rd rs1 k, i = .imm o w rd rs1 k → does (fun y => x.stepped y len rd (aluRun o w (x.xr rs1) k % 2 ^ 64))) ∧
    (∀ f3 rs1 rs2 imm, i = .branch f3 rs1 rs2 imm → does (fun y =>
      let t := (x.pc.toNat + imm) % 2 ^ 64
      y.pc = (if taken f3 (x.xr rs1) (x.xr rs2) then BitVec.ofNat 64 (t - t % 2) else x.pc + BitVec.ofNat 64 len) ∧
      y.x = x.x ∧ y.f = x.f ∧ y.user = x.user)) ∧
    (∀ rd imm, i = .jal rd imm → jumps rd ((x.pc.toNat + imm) % 2 ^ 64)) ∧
    (∀ rd rs1 imm, i = .jalr rd rs1 imm → jumps rd ((x.xr rs1 + imm) % 2 ^ 64)) ∧
    (∀ f3 rd rs1 num, i = .csr f3 rd rs1 num →
      let src := if 4 ≤ f3 then rs1 else x.xr rs1
      let write : Bool := f3 % 4 == 1 || rs1 != 0
      (∀ old, d.csrRead h num = some old → x.csrAllowed num write = true →
        let new := if f3 % 4 = 1 then src else if f3 % 4 = 2 then old ||| src else old - (old &&& src)
        does (fun y => x.stepped y len rd (old % 2 ^ 64) ∧
          (write = false → ∀ n, n ≠ csrMINSTRET → y.cs n = x.cs n) ∧
          (write = true →
            (num = 0x340 ∨ num = csrMCAUSE ∨ num = csrMTVAL → y.cs num = new % 2 ^ 64) ∧
            (num = csrMEPC → y.cs num = (new - new % 2) % 2 ^ 64) ∧
            (num = csrMIE → y.cs num = new &&& (2 ^ 3 + 2 ^ 7 + 2 ^ 11)) ∧
            (num = csrFCSR → y.cs num = new % 256)))) ∧
      (d.csrRead h num = none ∨ x.csrAllowed num write = false → illegal)) ∧
    (∀ o rd rs1 rs2 rm, i = .fop o rd rs1 rs2 rm →
      let mode := if o.rounds then x.rnd rm else some .rne
      (∀ m v fl, mode = some m → x.fsOn = true → fopRun o m (x.fr rs1) (x.fr rs2) (x.xr rs1) = ((true, v), fl) →
        does (fun y => x.fstepped y len rd v fl)) ∧
      (∀ m v fl, mode = some m → x.fsOn = true → fopRun o m (x.fr rs1) (x.fr rs2) (x.xr rs1) = ((false, v), fl) →
        does (fun y => x.stepped y len rd (v % 2 ^ 64) ∧ y.cs csrFCSR = (x.cs csrFCSR ||| fl) % 2 ^ 64)) ∧
      (mode = none ∨ x.fsOn = false → illegal)) ∧
    (∀ k rd rs1 rs2 rs3 rm, i = .fma k rd rs1 rs2 rs3 rm →
      (∀ m, x.rnd rm = some m → x.fsOn = true → does (fun y =>
        let r := fmaRun k m (x.fr rs1) (x.fr rs2) (x.fr rs3)
        x.fstepped y len rd r.1 r.2)) ∧
      (x.rnd rm = none ∨ x.fsOn = false → illegal)) ∧
    (i = .fence →
      (d.coreWaitsRemote h = false → does (fun y => x.stepped y len 0 0)) ∧
      (d.coreWaitsRemote h = true → Gives (.coreInstruction a h) s a (fun e => e = s.here a))) ∧
    (i = .wfi →
      (x.user = false ∨ bit (x.cs csrMSTATUS) 21 = false → does (fun y => x.stepped y len 0 0)) ∧
      (x.user = true → bit (x.cs csrMSTATUS) 21 = true → illegal))

/-- Exceptions, MRET and interrupts: what a trap saves, where it goes, and what MRET restores. (Where it rests on the model's own
choices: notes/assumptions/40.md, 96.md, 97.md, 113.md, 74.md.) -/
def Obligations.CoresTrapAndReturn : Prop :=
  ∀ (a : At) (h : Nat) (s : State), s.coreLive a →
    let c := s.here a
    (∀ raw len i d, c.atInstr h raw len i d →
      let x := d.core h
      (i = .ecall → Gives (.coreInstruction a h) s a (fun e =>
        x.trapped (e.core h) (if x.user then 8 else 11) 0 x.handler ∧ d.sameMem e ∧ d.sameRegsBut e [])) ∧
      (i = .ebreak → Gives (.coreInstruction a h) s a (fun e =>
        x.trapped (e.core h) 3 0 x.handler ∧ d.sameMem e ∧ d.sameRegsBut e [])) ∧
      (i = .illegal ∨ i = .mret ∧ x.user = true → Gives (.coreInstruction a h) s a (fun e =>
        x.trapped (e.core h) 2 (raw % 2 ^ 64) x.handler ∧ d.sameMem e ∧ d.sameRegsBut e [])) ∧
      (∀ f3 rd rs1 num, i = .csr f3 rd rs1 num → x.user = true → bits num 8 2 ≠ 0 → Gives (.coreInstruction a h) s a (fun e =>
        x.trapped (e.core h) 2 (raw % 2 ^ 64) x.handler ∧ d.sameMem e ∧ d.sameRegsBut e [])) ∧
      (i = .mret → x.user = false → Gives (.coreInstruction a h) s a (fun e =>
        let y := e.core h
        y.pc.toNat = x.cs csrMEPC ∧ y.user = (bits (x.cs csrMSTATUS) 11 2 != 3) ∧
        bits (y.cs csrMSTATUS) 3 1 = bits (x.cs csrMSTATUS) 7 1 ∧ bits (y.cs csrMSTATUS) 7 1 = 1 ∧
        bits (y.cs csrMSTATUS) 11 2 = 0 ∧ y.x = x.x ∧ y.f = x.f ∧ d.sameMem e ∧ d.sameRegsBut e []))) ∧
    (∀ g d, c.hartRuns h = true → c.fetch h = (.error g, d) → Gives (.coreInstruction a h) s a (fun e =>
      (d.core h).trapped (e.core h) 1 (g % 2 ^ 64) (d.core h).handler)) ∧
    (let x := c.core h
     let p := c.mip h &&& x.cs csrMIE
     let n := if bit p 11 then 11 else 7
     c.hartRuns h = true → x.user = true ∨ bit (x.cs csrMSTATUS) 3 = true → p ≠ 0 → Gives (.interrupt a h) s a (fun e =>
       x.trapped (e.core h) (2 ^ 63 + n) 0
         ((if x.cs csrMTVEC % 4 = 1 then x.handler + 4 * n else x.handler) % 2 ^ 64) ∧ c.sameMem e ∧ c.sameRegsBut e []))

/-- Loads and stores of a core to its TCM and to a line that its data cache holds; an access that crosses 64 bytes is misaligned,
and a stage core's store to a homeroom register is an access fault. Atomics of a core on its TCM: an AMO returns the old value and
stores the new; LR reserves; SC stores with the reservation and fails without it; one with its release bit waits for the core's
own posted stores. (Where it rests on the model's own choices: notes/assumptions/40.md, 96.md, 126.md.) -/
def Obligations.CoreMemoryInstructionsExecute : Prop :=
  (∀ (a : At) (h raw len : Nat) (i : Rv) (d : Chan) (s : State), s.coreLive a → (s.here a).atInstr h raw len i d →
    let x := d.core h
    (∀ f3 rd rs1 imm, i = .load f3 rd rs1 imm → f3 < 8 →
      let g := (x.xr rs1 + imm) % 2 ^ 64
      let n := 2 ^ (f3 % 4)
      let ext (v : Nat) : Nat := if f3 < 4 then sext (8 * n) v else v
      (∀ o, regionOf g = .tcm o → o % 64 + n ≤ 64 → Gives (.coreLoad a h) s a (fun e =>
        x.stepped (e.core h) len rd (ext (x.tcmRead o n)) ∧ (e.core h).tcm = x.tcm ∧ d.sameMem e ∧ d.sameRegsBut e [])) ∧
      (∀ m b bs, regionOf g = .mem m → m % 64 + n ≤ 64 → tget? (m / 64) x.dcache = some (b, bs) →
        Gives (.coreLoad a h) s a (fun e =>
          x.stepped (e.core h) len rd (ext (leAt bs (m % 64) n)) ∧ (e.core h).dcache = x.dcache ∧ d.sameMem e ∧ d.sameRegsBut e [])) ∧
      (∀ o, regionOf g = .tcm o ∨ regionOf g = .mem o → 64 < o % 64 + n → Gives (.coreLoad a h) s a (fun e =>
        x.trapped (e.core h) 4 g x.handler ∧ d.sameMem e ∧ d.sameRegsBut e []))) ∧
    (∀ rd rs1 imm, i = .flw rd rs1 imm →
      let g := (x.xr rs1 + imm) % 2 ^ 64
      (∀ o, x.fsOn = true → regionOf g = .tcm o → o % 64 + 4 ≤ 64 → Gives (.coreLoad a h) s a (fun e =>
        x.fstepped (e.core h) len rd (x.tcmRead o 4) 0 ∧ (e.core h).tcm = x.tcm ∧ d.sameMem e ∧ d.sameRegsBut e [])) ∧
      (x.fsOn = false → Gives (.coreLoad a h) s a (fun e =>
        x.trapped (e.core h) 2 (raw % 2 ^ 64) x.handler ∧ d.sameMem e ∧ d.sameRegsBut e []))) ∧
    (∀ rs1 rs2 imm, i = .fsw rs1 rs2 imm →
      let g := (x.xr rs1 + imm) % 2 ^ 64
      (∀ o, x.fsOn = true → regionOf g = .tcm o → o % 64 + 4 ≤ 64 → Gives (.coreStore a h) s a (fun e =>
        x.stepped (e.core h) len 0 0 ∧ (e.core h).tcmBytes o 4 = leBytes 4 (x.fr rs2) ∧
        (∀ y, ¬ (o ≤ y ∧ y < o + 4) → (e.core h).tcmBytes y 1 = x.tcmBytes y 1) ∧ d.sameMem e ∧ d.sameRegsBut e [])) ∧
      (x.fsOn = false → Gives (.coreStore a h) s a (fun e =>
        x.trapped (e.core h) 2 (raw % 2 ^ 64) x.handler ∧ d.sameMem e ∧ d.sameRegsBut e []))) ∧
    (∀ f3 rs1 rs2 imm, i = .store f3 rs1 rs2 imm → f3 < 4 →
      let g := (x.xr rs1 + imm) % 2 ^ 64
      let bs := leBytes (2 ^ f3) (x.xr rs2)
      (∀ o, regionOf g = .tcm o → o % 64 + 2 ^ f3 ≤ 64 → Gives (.coreStore a h) s a (fun e =>
        x.stepped (e.core h) len 0 0 ∧ (e.core h).tcmBytes o (2 ^ f3) = bs ∧
        (∀ y, ¬ (o ≤ y ∧ y < o + 2 ^ f3) → (e.core h).tcmBytes y 1 = x.tcmBytes y 1) ∧ d.sameMem e ∧ d.sameRegsBut e [])) ∧
      (∀ m b old, regionOf g = .mem m → m % 64 + 2 ^ f3 ≤ 64 → tget? (m / 64) x.dcache = some (b, old) →
        Gives (.coreStore a h) s a (fun e =>
          x.stepped (e.core h) len 0 0 ∧
          tget? (m / 64) (e.core h).dcache = some (true, old.take (m % 64) ++ bs ++ old.drop (m % 64 + 2 ^ f3)) ∧
          (∀ l, l ≠ m / 64 → tget? l (e.core h).dcache = tget? l x.dcache) ∧ d.sameMem e ∧ d.sameRegsBut e [])) ∧
      (∀ off, regionOf g = .reg off → h < 4 → off < 0x10000 → Gives (.coreStore a h) s a (fun e =>
        x.trapped (e.core h) 7 g x.handler ∧ d.sameMem e ∧ d.sameRegsBut e [])))) ∧
  (∀ (a : At) (h raw len : Nat) (d : Chan) (s : State) (f5 : Nat) (dw : Bool) (rd rs1 rs2 o : Nat), s.coreLive a →
    (s.here a).atInstr h raw len (.amo f5 dw rd rs1 rs2) d →
    let x := d.core h
    let g := x.xr rs1
    let n := if dw then 8 else 4
    let waits : Prop := bit raw 25 = true ∧ d.coreWaitsRemote h = true
    (waits → Gives (.coreAmo a h) s a (fun e => e = s.here a)) ∧
    (¬ waits → regionOf g = .tcm o → o % 64 + n ≤ 64 →
    (f5 ≠ 2 → f5 ≠ 3 → Gives (.coreAmo a h) s a (fun e =>
      x.stepped (e.core h) len rd (sext (8 * n) (x.tcmRead o n)) ∧
      (e.core h).tcmBytes o n = leBytes n (amoNew f5 n (x.tcmRead o n) (x.xr rs2)) ∧ d.sameMem e ∧ d.sameRegsBut e [])) ∧
    (f5 = 2 → o % n = 0 → Gives (.coreAmo a h) s a (fun e =>
      x.stepped (e.core h) len rd (sext (8 * n) (x.tcmRead o n)) ∧ (e.core h).resv = some (g, n) ∧ (e.core h).tcm = x.tcm ∧
      d.sameMem e ∧ d.sameRegsBut e [])) ∧
    (f5 = 3 → o % n = 0 → x.resv = some (g, n) → Gives (.coreAmo a h) s a (fun e =>
      x.stepped (e.core h) len rd 0 ∧ (e.core h).resv = none ∧ (e.core h).tcmBytes o n = leBytes n (x.xr rs2) ∧
      d.sameMem e ∧ d.sameRegsBut e [])) ∧
    (f5 = 3 → o % n = 0 → x.resv ≠ some (g, n) → Gives (.coreAmo a h) s a (fun e =>
      x.stepped (e.core h) len rd 1 ∧ (e.core h).resv = none ∧ (e.core h).tcm = x.tcm ∧ d.sameMem e ∧ d.sameRegsBut e []))))

/-- CMD.PUSH appends with status 0, refuses with status 1, 2 or 3, and waits for room in a full queue. TOK.ADD, TOK.WAIT with its
end, SUM.RD, EVT.RAISE, XFENCE and FENCE.I. (Where it rests on the model's own choices: notes/assumptions/98.md.) -/
def Obligations.XmiustanInstructionsExecute : Prop :=
  (∀ (a : At) (h raw len : Nat) (i : Rv) (d : Chan) (s : State), s.coreLive a → (s.here a).atInstr h raw len i d →
    let x := d.core h
    let (rd, src, q0) := x.xmArgs i
    let q := q0 % 256
    i.kind = .cmdPush → d.coreQuiet h = true →
    (∀ cmd, qidOk q = true → d.qDepth q ≠ 0 → x.pushSource src = some cmd → d.canAppend q cmd = true →
      Gives (.cmdPush a h) s a (fun e =>
        x.stepped (e.core h) len rd 0 ∧ e.queue q = (d.append q cmd none).queue q ∧
        (e.queue q).ents.length = (d.queue q).ents.length + 1)) ∧
    (∀ cmd, qidOk q = true → d.qDepth q ≠ 0 → x.pushSource src = some cmd → d.canAppend q cmd = false →
      Gives (.cmdPush a h) s a (fun e =>
        (e.core h).waiting = true ∧ (e.core h).pc = x.pc ∧ (e.core h).x = x.x ∧
        e.waiting = d.waiting ++ [{ q := q, raw := cmd, launch := none, core := some h, fwd := none }] ∧
        d.sameMem e ∧ d.sameRegsBut e [])) ∧
    (∀ st, st = (if qidOk q = false then 1 else if d.qDepth q = 0 then 2 else if x.pushSource src = none then 3 else 0) → st ≠ 0 →
      Gives (.cmdPush a h) s a (fun e =>
        x.stepped (e.core h) len rd st ∧ e.queues = d.queues ∧ e.waiting = d.waiting ∧ d.sameMem e ∧ d.sameRegsBut e []))) ∧
  (∀ (a : At) (h : Nat) (s : State), s.coreLive a →
    let c := s.here a
    (∀ raw len i d, c.atInstr h raw len i d →
      let x := d.core h
      let (rd, p, v) := x.xmArgs i
      (i.kind = .tokAdd → d.coreQuiet h = true → Gives (.tokAdd a h) s a (fun e =>
        e.tok (p % 256) = (d.tok (p % 256) + v % 2 ^ 16) % 2 ^ 32 ∧ x.stepped (e.core h) len 0 0 ∧ d.sameMem e ∧
        d.sameRegsBut e [CH_TOK.off (p % 256)])) ∧
      (i.kind = .tokWait → Gives (.tokWait a h) s a (fun e =>
        (e.core h).waiting = true ∧ (e.core h).pc = x.pc ∧ (e.core h).x = x.x ∧ d.sameMem e ∧ d.sameRegsBut e [])) ∧
      (i.kind = .sumRd → Gives (.sumRd a h) s a (fun e =>
        x.stepped (e.core h) len rd (d.rd (VE_SUM.off (bits p 4 2) (bits p 0 4))) ∧ d.sameMem e ∧ d.sameRegsBut e [])) ∧
      (i.kind = .evtRaise → d.coreQuiet h = true → 0x8000 ≤ bits p 0 16 → bits p 16 2 ≠ 3 → Gives (.evtRaise a h) s a (fun e =>
        d.logged e (coreBlock h) (bits p 0 16) (bits p 16 2) (det [(16, 8, v)]) ∧ x.stepped (e.core h) len 0 0 ∧ d.sameMem e ∧
        d.sameRegsBut e [HR_LOG_STAT.off])) ∧
      (i.kind = .evtRaise → bits p 0 16 < 0x8000 ∨ bits p 16 2 = 3 → Gives (.evtRaise a h) s a (fun e =>
        x.trapped (e.core h) 2 (raw % 2 ^ 64) x.handler ∧ d.sameMem e ∧ d.sameRegsBut e [])) ∧
      (i.kind = .xfence → d.coreQuiet h = true → Gives (.xfence a h) s a (fun e =>
        x.stepped (e.core h) len 0 0 ∧ d.sameMem e ∧ d.sameRegsBut e [])) ∧
      (i = .fenceI → Gives (.fenceI a h) s a (fun e =>
        x.stepped (e.core h) len 0 0 ∧ (e.core h).icache = [] ∧ d.sameMem e ∧ d.sameRegsBut e []))) ∧
    (∀ i d, c.waitingAt h = (some i, d) → i.kind = .tokWait →
      let (rd, p, v) := (c.core h).xmArgs i
      c.tokOk (p % 256) (v % 2 ^ 32) = true → Gives (.tokWaitSatisfied a h) s a (fun e =>
        (e.core h).waiting = false ∧ (d.core h).stepped (e.core h) 4 rd (c.tokSeen (p % 256) % 2 ^ 64) ∧ d.sameMem e ∧ d.sameRegsBut e [])))

/-- Cache maintenance over the lines named: CLEAN leaves them clean, INV drops them, FLUSH writes back and drops them; a dirty
line that is evicted reaches memory. (Where it rests on the model's own choices: notes/assumptions/94.md.) -/
def Obligations.CacheLinesAreWrittenBack : Prop :=
  ∀ (a : At) (h : Nat) (s : State), s.coreLive a →
    let c := s.here a
    (∀ raw len i d, c.atInstr h raw len i d →
      let x := d.core h
      let lines := x.cmoLines (x.xmArgs i).2.1 (x.xmArgs i).2.2
      (i.kind = .cmoClean → Gives (.cmoClean a h) s a (fun e =>
        (∀ l ∈ lines, ∃ bs, tget? l (e.core h).dcache = some (false, bs)) ∧ x.stepped (e.core h) len 0 0 ∧
        (∀ l bs, lines = [l] → tget? l x.dcache = some (true, bs) → d.flaws = [] →
          e.peek (l * 64) bs.length = bs ∧ d.sameMemBut e (l * 64) bs.length))) ∧
      (i.kind = .cmoInv → Gives (.cmoInv a h) s a (fun e =>
        (∀ l ∈ lines, tget? l (e.core h).dcache = none) ∧ x.stepped (e.core h) len 0 0 ∧ d.sameMem e ∧ d.sameRegsBut e [])) ∧
      (i.kind = .cmoFlush → Gives (.cmoFlush a h) s a (fun e =>
        (∀ l ∈ lines, tget? l (e.core h).dcache = none) ∧ x.stepped (e.core h) len 0 0 ∧
        (∀ l bs, lines = [l] → tget? l x.dcache = some (true, bs) → d.flaws = [] →
          e.peek (l * 64) bs.length = bs ∧ d.sameMemBut e (l * 64) bs.length)))) ∧
    (∀ l bs, tget? l (c.core h).dcache = some (true, bs) → c.flaws = [] → Gives (.cacheEviction a h l) s a (fun e =>
      tget? l (e.core h).dcache = none ∧ e.peek (l * 64) bs.length = bs ∧ c.sameMemBut e (l * 64) bs.length ∧ c.sameRegsBut e []))

/-- RUN starts a stage core at SC_BOOT the first time and lets it go on later; clearing it stops the core; RESET clears its
registers but keeps its TCM; a kick restarts the watchdog; its first expiry warns, its second asks for the fence, as the service
core's does. (Where it rests on the model's own choices: notes/assumptions/93.md.) -/
def Obligations.StageCoresAreControlled : Prop :=
  ∀ (a : At) (ag : Agent) (h : Nat) (s : State), h < 4 →
    let c := s.here a
    let x := c.core h
    (s.writable a ag (SC_CTL.off h) 1 → c.flag (SC_CTL.RUN h) = false → GivesBy ag (SC_CTL.off h) (.scRun a ag h) s a (fun d =>
      d.flag (SC_CTL.RUN h) = true ∧ (x.began = true → d.core h = x) ∧
      (x.began = false → (d.core h).pc = BitVec.ofNat 64 (c.gf (SC_BOOT.ADDR h) * 4) ∧ (d.core h).user = false ∧ (d.core h).x = x.x) ∧
      c.sameMem d ∧ c.sameRegsBut d [SC_CTL.off h])) ∧
    (s.writable a ag (SC_CTL.off h) 0 → c.flag (SC_CTL.RUN h) = true → GivesBy ag (SC_CTL.off h) (.scStop a ag h) s a (fun d =>
      d.flag (SC_CTL.RUN h) = false ∧ d.core h = { x with waiting := false } ∧ c.sameMem d ∧ c.sameRegsBut d [SC_CTL.off h])) ∧
    (s.writable a ag (SC_CTL.off h) 2 → GivesBy ag (SC_CTL.off h) (.scReset a ag h) s a (fun d =>
      d.flag (SC_CTL.RUN h) = false ∧ d.core h = { tcm := x.tcm, kick := x.kick, expired := x.expired } ∧
      c.sameMem d ∧ c.sameRegsBut d [SC_CTL.off h])) ∧
    (s.writable a ag (SC_WDOG_KICK.off h) 1 → GivesBy ag (SC_WDOG_KICK.off h) (.wdogKick a ag h) s a (fun d =>
      d.core h = { x with kick := c.now, expired := false } ∧ c.sameMem d ∧ c.sameRegsBut d [])) ∧
    (s.coreLive a → c.gf (SC_WDOG.PERIOD_US h) ≠ 0 → x.kick + c.gf (SC_WDOG.PERIOD_US h) * tUs ≤ c.now →
      Gives (.wdogExpired a h) s a (fun d =>
        (x.expired = false → c.logged d 0x0D 0x22 2 (det [(16, 1, h)]) ∧ (d.core h).expired = true ∧ d.fenceReq = c.fenceReq) ∧
        (x.expired = true → c.logged d 0x0D 0x23 3 (det [(16, 1, h)]) ∧ d.fenceReq = some (c.fenceReq.getD 4)) ∧
        c.sameMem d ∧ c.sameRegsBut d [HR_LOG_STAT.off])) ∧
    (s.coreLive a → c.flag SVC_STAT.UP = true → Gives (.svcWdogExpiry a) s a (fun d =>
      c.logged d 0x0E 0x23 3 (det [(16, 1, 4)]) ∧ d.fenceReq = some (c.fenceReq.getD 4) ∧
      c.sameMem d ∧ c.sameRegsBut d [HR_LOG_STAT.off]))

/-- The interrupt controller: acknowledging the source presented, which is an asserted one for the target of a priority above the
running one, pushes it and puts it in service, and any other acknowledgement fails (R215, R216); EOI pops the last, whose source
leaves service (R217); a source's priority and target are written, TARGET but for its reserved values, and what stands on a stack
stays (R218); the software sources are set and cleared (R221). -/
def Obligations.InterruptControllerServes : Prop :=
  ∀ (a : At) (ag : Agent) (t n v : Nat) (s : State),
    let c := s.here a
    (t < 6 → n < 512 → s.writable a ag (CIC_ACK.off t) n → GivesBy ag (CIC_ACK.off t) (.cicAck a ag t n) s a (fun d =>
      (∀ p, c.presented t = some (n, p) →
        c.gf (CIC_SRC.TARGET n) = t ∧ c.gf (CIC_SRC.PRIO n) = p ∧ c.level n = true ∧ c.inService n = false ∧ c.runPrio t < p ∧ p < 16 ∧
        d.stack t = (n, p) :: c.stack t ∧ d.inService n = true ∧ d.flag (CIC_STAT.ACK_OK t) = true) ∧
      (∀ k, k ≠ t → d.stack k = c.stack k) ∧
      ((∀ p, c.presented t ≠ some (n, p)) → d.prios = c.prios ∧ d.flag (CIC_STAT.ACK_OK t) = false) ∧
      c.sameMem d ∧ c.sameRegsBut d [CIC_STAT.off t])) ∧
    (t < 6 → s.writable a ag (CIC_EOI.off t) 1 → GivesBy ag (CIC_EOI.off t) (.cicEoi a ag t) s a (fun d =>
      d.stack t = (c.stack t).tail ∧ (∀ k, k ≠ t → d.stack k = c.stack k) ∧
      (∀ m, (∀ k, k < 6 → (d.stack k).all (fun e => e.1 != m) = true) → d.inService m = false) ∧
      (c.stack t = [] → d.prios = c.prios ∧ d.flag (CIC_STAT.ERR t) = true) ∧
      c.sameMem d ∧ c.sameRegsBut d [CIC_STAT.off t])) ∧
    (n < 512 → s.writable a ag (CIC_SRC.off n) v → GivesBy ag (CIC_SRC.off n) (.cicSrcWrite a ag n v) s a (fun d =>
      d.gf (CIC_SRC.PRIO n) = bits v 0 4 ∧
      d.gf (CIC_SRC.TARGET n) = (if bits v 4 3 < 6 then bits v 4 3 else c.gf (CIC_SRC.TARGET n)) ∧ d.prios = c.prios ∧ c.sameMem d ∧ c.sameRegsBut d [CIC_SRC.off n])) ∧
    (s.writable a ag CIC_SWSRC_SET.off v → GivesBy ag CIC_SWSRC_SET.off (.cicSwsrcSet a ag v) s a (fun d =>
      (∀ k, k < 64 → bit (d.gf CIC_SWSRC_SET.BITS) k = (bit (c.gf CIC_SWSRC_SET.BITS) k || bit v k)) ∧
      c.sameMem d ∧ c.sameRegsBut d [CIC_SWSRC_SET.off])) ∧
    (s.writable a ag CIC_SWSRC_CLR.off v → GivesBy ag CIC_SWSRC_CLR.off (.cicSwsrcClr a ag v) s a (fun d =>
      (∀ k, k < 64 → bit (d.gf CIC_SWSRC_SET.BITS) k = (bit (c.gf CIC_SWSRC_SET.BITS) k && !bit v k)) ∧
      c.sameMem d ∧ c.sameRegsBut d [CIC_SWSRC_SET.off]))

/-- The interrupt sources of the slots, the contexts, the die link, the heat limits, the homeroom and the log assert while their
conditions hold, a source of a block without power never, and the reserved ones among them never. -/
def Obligations.InterruptSourcesFollowTheirUnits : Prop :=
  ∀ c : Chan,
    (∀ k, k < 8 →
      (c.level (64 + 4 * k) = true ↔ c.computeOn = true ∧ c.gf (SS_STAT.FAULT k) = 1) ∧
      (c.level (64 + 4 * k + 1) = true ↔ c.computeOn = true ∧ c.gf (SS_STAT.STEP_END k) = 1) ∧
      (c.level (64 + 4 * k + 2) = true ↔ c.computeOn = true ∧ c.gf (SS_STAT.DRAINED k) = 1) ∧
      c.level (64 + 4 * k + 3) = false) ∧
    (∀ g, g < 8 →
      (c.level (160 + g) = true ↔ c.computeOn = true ∧ c.gf (CE_GRP_STAT.TARDY g) = 1) ∧
      (c.level (168 + g) = true ↔ c.computeOn = true ∧ c.gf (CE_GRP_STAT.STALE g) = 1) ∧
      (c.level (176 + g) = true ↔ c.computeOn = true ∧ c.gf (CE_GRP_STAT.CARRY_LOST g) = 1)) ∧
    (c.level 320 = true ↔ c.baseOn = true ∧ (c.gf UC_STAT.STATE = 0 ∨ c.gf UC_STAT.STATE = 1)) ∧
    (c.level 321 = true ↔ c.baseOn = true ∧ c.gf UC_STAT.WIDTH ≠ 3) ∧
    (c.level 322 = true ↔ c.baseOn = true ∧ c.gf UC_STAT.STATE = 3) ∧
    (c.level 384 = true ↔ c.homeOn = true ∧ c.gf HR_THERM.DUTY < 16) ∧
    (c.level 385 = true ↔ c.homeOn = true ∧ c.gf HR_THERM.HOLD = 1) ∧
    (c.level 386 = true ↔ c.homeOn = true ∧ c.gf HR_THERM.SENS_FAULT = 1) ∧
    (c.level 387 = true ↔ c.homeOn = true ∧ c.gf HR_THERM.ENV_CAP < 16) ∧
    (c.level 400 = true ↔ c.homeOn = true ∧ c.gf HR_HB_STAT.SUSPECT ≠ 0) ∧
    (c.level 401 = true ↔ c.homeOn = true ∧ c.gf HR_RECOV_STAT.CLAIMED = 1) ∧
    (c.level 402 = true ↔ c.homeOn = true ∧ c.gf HR_RECOV_STAT.RECOVERED = 1) ∧
    (c.level 403 = true ↔ c.homeOn = true ∧ c.gf HR_RECOV_STAT.NO_SUB = 1) ∧
    (let unread := (c.gf HR_LOG_STAT.WCNT + 2 ^ 32 - c.gf HR_LOG_STAT.RCNT) % 2 ^ 32
     let thresh := c.gf HR_LOG_CFG.THRESH
     (c.level 416 = true ↔ c.homeOn = true ∧ thresh ≠ 0 ∧ thresh ≤ unread) ∧
     (c.level 417 = true ↔ c.homeOn = true ∧ 4096 < unread)) ∧
    (∀ n, (96 ≤ n ∧ n < 128) ∨ (184 ≤ n ∧ n < 192) ∨ (323 ≤ n ∧ n < 336) ∨ (388 ≤ n ∧ n < 400) ∨ (404 ≤ n ∧ n < 416) ∨
      (418 ≤ n ∧ n < 448) → c.level n = false)

/-! ### Power states and terms -/

/-- A request for a power state begins its transition or is refused with its reason; the entry loses what Table 8-5 says, a wake
or a request begins the exit, and the exit brings the service core up. (Where it rests on the model's own choices:
notes/assumptions/53.md.) -/
def Obligations.PowerStatesChange : Prop :=
  ∀ (a : At) (ag : Agent) (v : Nat) (s : State),
    let c := s.here a
    let cur := c.gf HR_PSTATE.CUR
    let req := bits v 0 3
    (s.writable a ag HR_PSTATE.off v → pstateAgent ag = true → c.ptrans = none → req ≠ cur →
      GivesBy ag HR_PSTATE.off (.pstateRequest a ag v) s a (fun d =>
        (c.pstateFault cur req = none → d.flag HR_PSTATE.BUSY = true ∧
          ∃ t, d.ptrans = some t ∧ t.exit = (req == 0) ∧ t.old = cur ∧ t.new = req ∧ t.began = c.now) ∧
        (∀ r, c.pstateFault cur req = some r → d.gf HR_PSTATE.REFUSAL = r ∧ d.ptrans = none ∧
          c.logged d 0x0C 0x51 0 (det [(16, 1, req), (17, 1, r)])) ∧ c.sameMem d)) ∧
    (s.homeLive a → cur = 0 → c.flag HR_PSTATE.BUSY = false → c.gf HR_IDLE_DELAY.DELAY_US ≠ 0 → c.queuesQuiet = true →
      (∀ t, c.quietSince = some t → t + c.gf HR_IDLE_DELAY.DELAY_US * tUs ≤ c.now → Gives (.idleEntry a) s a (fun d =>
        d.gf HR_PSTATE.CUR = 1 ∧ c.sameMem d ∧ c.sameRegsBut d [HR_PSTATE.off]))) ∧
    (∀ t, s.homeLive a → c.ptrans = some t → t.exit = false → t.andBack = none → Gives (.pstateEntryDone a) s a (fun d =>
      (t.new = 2 → d.gf HR_PSTATE.CUR = 2 ∧ d.flag HR_PSTATE.BUSY = false ∧ d.ptrans = none ∧ d.cores = [] ∧ d.slots = [] ∧
        d.mes = [] ∧ c.sameMem d) ∧
      (t.new = 3 → d.gf HR_PSTATE.CUR = 3 ∧ d.flag HR_PSTATE.BUSY = false ∧ d.ptrans = none ∧ d.cores = [] ∧ d.mem = [] ∧ d.prios = []) ∧
      (t.new = 4 → d.gf HR_PSTATE.CUR = 4 ∧ d.mem = [] ∧ HpdMsg.power false ∈ d.out))) ∧
    (∀ n, s.homeLive a → c.wakeEntry = some n → c.ptrans = none → cur = 2 ∨ cur = 3 → Gives (.wake a) s a (fun d =>
      d.flag HR_PSTATE.BUSY = true ∧ d.gf HR_WAKE_STAT.ENTRY = n ∧ d.flag HR_WAKE_STAT.BY_REQ = false ∧
      (∃ t, d.ptrans = some t ∧ t.exit = true ∧ t.old = cur) ∧ c.sameMem d ∧ c.sameRegsBut d [HR_PSTATE.off, HR_WAKE_STAT.off])) ∧
    (∀ t, s.homeLive a → c.ptrans = some t → t.exit = true → Gives (.pstateExitDone a) s a (fun d =>
      d.gf HR_PSTATE.CUR = 0 ∧ d.flag HR_PSTATE.BUSY = false ∧ d.ptrans = none ∧ d.flag SVC_STAT.UP = true ∧
      c.logged d 0x0C 0x50 0 (det [(16, 1, t.old), (17, 1, 0), (18, 1, t.cause), (19, 1, t.entry)]) ∧ c.sameMem d))

/-- A term switch: START of a later term with enabled contexts enters the drain, an earlier term is refused with reason 1; the
switch goes through when the contexts are empty, or when the drain limit has passed. (Where it rests on the model's own choices:
notes/assumptions/60.md.) -/
def Obligations.TermsSwitch : Prop :=
  ∀ (a : At) (ag : Agent) (v : Nat) (s : State),
    let c := s.here a
    let new := bits v 0 16
    (s.writable a ag CH_TERM_CTL.off v → bit v 24 = true → bit v 27 = false →
      (later 16 new (c.gf CH_TERM.CUR) = true → c.gf CH_TERM.STATE = 0 → (groupsOf (bits v 16 8)).all c.ceEn = true → bit v 25 = false →
        c.gf CH_TERM_TIMEOUT.TIMEOUT_US ≠ 0 → GivesBy ag CH_TERM_CTL.off (.termStart a ag v) s a (fun d =>
          d.gf CH_TERM.STATE = 1 ∧ d.gf CH_TERM.NEXT = new ∧ d.gf CH_TERM.CUR = c.gf CH_TERM.CUR ∧
          d.termSw = some { new := new, groups := bits v 16 8, image := none,
                            tok := if bit v 26 then some (bits v 32 8) else none, began := c.now } ∧
          c.sameMem d ∧ c.sameRegsBut d [CH_TERM.off])) ∧
      (later 16 new (c.gf CH_TERM.CUR) = false → GivesBy ag CH_TERM_CTL.off (.termStart a ag v) s a (fun d =>
        d.gf CH_TERM.REASON = 1 ∧ d.gf CH_TERM.CUR = c.gf CH_TERM.CUR ∧ d.termSw = c.termSw ∧
        c.logged d 0x0C 0xA1 2 (det [(16, 2, new), (18, 1, 1)]) ∧ c.sameMem d ∧ c.sameRegsBut d [CH_TERM.off, HR_LOG_STAT.off]))) ∧
    (∀ w, s.baseLive a → c.termSw = some w →
      ((groupsOf w.groups).all (fun g => c.gf (CE_GRP_STAT.OPEN g) == 0) = true → Gives (.termDrainEnd a) s a (fun d =>
        d.gf CH_TERM.CUR = w.new % 2 ^ 16 ∧ d.gf CH_TERM.STATE = 0 ∧ d.gf CH_TERM.ABANDONED = 0 ∧ d.termSw = none ∧
        d.gf UU_TERM.TERM = w.new % 2 ^ 16)) ∧
      (w.began + c.gf CH_TERM_TIMEOUT.TIMEOUT_US * tUs ≤ c.now → Gives (.termDrainTimeout a) s a (fun d =>
        d.gf CH_TERM.CUR = w.new % 2 ^ 16 ∧ d.gf CH_TERM.STATE = 0 ∧ d.termSw = none ∧
        (∀ m, w.image = some m → d.chart = m))))

/-! ### The Ivell fabric -/

/-- A flit with the LSEQ expected is accepted, acknowledges and returns passes; one that came damaged or whose CRC is wrong is
counted and answered by NAK; a NAK resends the flits from the one it names on, and the sixteenth for one flit retrains. In a lane
exchange the NAK and the resending wait for its end. (Where it rests on the model's own choices: notes/assumptions/30.md, 31.md,
32.md, 25.md, 137.md.) -/
def Obligations.FlitsAreRetried : Prop :=
  ∀ (a : At) (p : Nat) (s : State), s.fabLive a → p < 6 →
    let c := s.here a
    let x := c.port p
    c.linkUsable p = true →
    (∀ bs, s.flitDue a p bs → flitOk bs = true → (parseFlit bs).lseq = x.rexp → 1 ≤ (parseFlit bs).kind → (parseFlit bs).kind ≤ 4 →
      let f := parseFlit bs
      GivesOver (.flit a p bs) s a p Port.flitTaken (fun d =>
        let y := d.port p
        y.rexp = (x.rexp + 1) % 2 ^ 16 ∧ y.discard = false ∧ y.ackDue = true ∧
        tget (fun _ => {}) y.rx f.vc = (tget (fun _ => {}) x.rx f.vc).take f.kind f.payload ∧
        (∀ e ∈ y.replay, (e ∈ x.replay ∧ later 16 e.lseq f.ackSeq = true) ∨ e.kind = 5) ∧
        (∀ v, tget (fun _ => 0) y.passes v = tget (fun _ => 0) x.passes v + (if f.crEn = true ∧ v = f.crVc then f.crCnt else 0)) ∧
        c.sameMem d ∧ c.sameRegsBut d [])) ∧
    (∀ bs, (s.flitDue a p bs ∧ flitOk bs = false) ∨ (isZ p = true ∧ ∃ g r, ((s.enter a).zFar a.chan p).wire = g :: r ∧ bs ≠ g) →
      GivesOver (.flit a p bs) s a p Port.flitTaken (fun d =>
        d.gf (IV_CNT_CRC.COUNT p) = (c.gf (IV_CNT_CRC.COUNT p) + 1) % 2 ^ 64 ∧ (d.port p).discard = true ∧
        (d.port p).rexp = x.rexp ∧ (d.port p).rx = x.rx ∧
        (x.quietUntil ≤ c.now → x.sends (d.port p) (.nak x.rexp)) ∧
        (c.now < x.quietUntil → (d.port p).ctl = x.ctl ∧ (d.port p).wire = x.wire ∧ (d.port p).ctlQ = x.ctlQ ++ [.nak x.rexp]) ∧
        c.sameMem d ∧ c.sameRegsBut d [IV_CNT_CRC.off p])) ∧
    (∀ l, s.ctlDue a p (.nak l) →
      let n := if x.nakSeq = l then x.nakCount + 1 else 1
      let again := x.replay.filter (fun f => notEarlier 16 f.lseq l)
      (n < 16 → x.quietUntil ≤ c.now → GivesOver (.nak a p l) s a p (Port.ctlTaken (.nak l)) (fun d =>
        d.gf (IV_CNT_REPLAY.COUNT p) = (c.gf (IV_CNT_REPLAY.COUNT p) + again.length) % 2 ^ 64 ∧
        (d.port p).wire.length = x.wire.length + again.length ∧ (d.port p).nakSeq = l ∧ (d.port p).nakCount = n ∧
        (d.port p).replay = x.replay ∧ (d.port p).again = none ∧ c.sameMem d ∧ c.sameRegsBut d [IV_CNT_REPLAY.off p])) ∧
      (n < 16 → c.now < x.quietUntil → GivesOver (.nak a p l) s a p (Port.ctlTaken (.nak l)) (fun d =>
        (d.port p).again = some l ∧ (d.port p).wire = x.wire ∧ (d.port p).nakSeq = l ∧ (d.port p).nakCount = n ∧
        c.sameMem d ∧ c.sameRegsBut d [])) ∧
      (16 ≤ n → GivesOver (.nak a p l) s a p (Port.ctlTaken (.nak l)) (fun d =>
        d.linkState p = linkTRAINING ∧ d.gf (IV_CNT_RETRAIN.COUNT p) = (c.gf (IV_CNT_RETRAIN.COUNT p) + 1) % 2 ^ 64 ∧ c.sameMem d)))

/-- A bad lane in use is exchanged for a spare on either side's finding, one that is not in use only counts as good no longer; CAP
negotiates the version and finds mismatches; a training ends UP, HALF or in MISMATCH, with the lanes that its width takes into
use. A link trains again when asked by the peer, by IV_CTL or after a failed retrain, and goes DOWN after three failures, at the
limit of its first training, or when DISABLE is set; a link that went DOWN starts afresh. (Where it rests on the model's own
choices: notes/assumptions/33.md.) -/
def Obligations.LinksNegotiateAndTrain : Prop :=
  (∀ (a : At) (p : Nat) (s : State), s.fabLive a → p < 6 →
    let c := s.here a
    let x := c.port p
    (∀ lane sp, c.linkUsable p = true → x.lanes.contains lane = true → c.freeSpare p = some sp →
      Gives (.laneSpared a p lane true 0) s a (fun d =>
      (d.port p).spared = x.spared ++ [lane] ∧ (d.port p).lanes = x.lanes.erase lane ++ [sp] ∧ bit (d.gf (IV_LANES.GOOD p)) lane = false ∧
      (d.port p).quietUntil = c.now + 20 * tUs ∧ x.sends (d.port p) (.laneSwap lane sp) ∧
      d.gf (IV_LANES.SPARES_USED p) = (c.gf (IV_LANES.SPARES_USED p) + 1) % 4 ∧
      c.logged d 0x09 0xB2 1 (det [(16, 1, p), (17, 1, lane), (18, 1, sp)]) ∧ c.sameMem d)) ∧
    (∀ lane, c.linkUsable p = true → x.lanes.contains lane = false → Gives (.laneSpared a p lane true 0) s a (fun d =>
      bit (d.gf (IV_LANES.GOOD p)) lane = false ∧ (∀ q, d.port q = c.port q) ∧ c.sameMem d ∧ c.sameRegsBut d [IV_LANES.off p])) ∧
    (∀ lane sp, c.linkUsable p = true → x.spared.contains lane = false → c.freeSpare p = some sp →
      s.ctlDue a p (.laneSwap lane sp) → GivesOver (.laneSwap a p lane sp) s a p (Port.ctlTaken (.laneSwap lane sp)) (fun d =>
        (d.port p).spared = x.spared ++ [lane] ∧ (d.port p).lanes = x.lanes.erase lane ++ [sp] ∧ x.sends (d.port p) (.laneSwap lane sp) ∧
        d.gf (IV_LANES.SPARES_USED p) = (c.gf (IV_LANES.SPARES_USED p) + 1) % 4 ∧
        c.logged d 0x09 0xB2 1 (det [(16, 1, p), (17, 1, lane), (18, 1, sp)]) ∧ c.sameMem d ∧
        c.sameRegsBut d [IV_LANES.off p, HR_LOG_STAT.off])) ∧
    (∀ bs, c.linkState p = linkTRAINING → s.ctlDue a p (.cap bs) → GivesOver (.cap a p bs) s a p (Port.ctlTaken (.cap bs)) (fun d =>
      d.gf (IV_VER.NEG_VER p) = min 3 (leAt bs 0 1) ∧ d.gf (IV_STAT.PEER_NODE p) = leAt bs 2 3 % 2 ^ 18 ∧
      d.gf (IV_STAT.MM_REASON p) = (if leAt bs 1 1 ≠ oppositePort p then 1
        else if leAt bs 5 2 + 1 ≠ c.ringLen (axisOf p) then 2 else if leAt bs 0 1 < 2 then 3 else 0) ∧
      d.linkState p = linkTRAINING ∧ (d.port p).capSeen = true ∧ (d.port p).capSent = true ∧
      (x.capSent = true → (d.port p).ctl = x.ctl) ∧ (x.capSent = false → ∃ own, x.sends (d.port p) (.cap own)) ∧
      c.sameMem d ∧ c.sameRegsBut d [IV_VER.off p, IV_STAT.off p])) ∧
    (∀ rtt full sp, c.linkState p = linkTRAINING → x.capSeen = true → c.widthOf p = some (full, sp) →
      (s.enter a).zReady a.chan p = true → Gives (.linkUp a p rtt) s a (fun d =>
      d.linkState p = (if c.gf (IV_STAT.MM_REASON p) ≠ 0 then linkMISMATCH else if full then linkUP else linkHALF) ∧
      (d.port p).trained = true ∧ (d.port p).fails = 0 ∧
      d.gf (IV_RTT.RTT_NS p) = rtt % 2 ^ 16 ∧ (d.port p).lanes = c.lanesFor p full sp ∧
      d.gf (IV_LANES.SPARES_USED p) = ((c.lanesFor p full sp).filter (lanesOf p ≤ ·)).length % 4 ∧ c.sameMem d))) ∧
  (∀ (a : At) (ag : Agent) (p : Nat) (s : State), p < 6 →
    let c := s.here a
    let x := c.port p
    let training (d : Chan) : Prop :=
      d.linkState p = linkTRAINING ∧ d.gf (IV_CNT_RETRAIN.COUNT p) = (c.gf (IV_CNT_RETRAIN.COUNT p) + 1) % 2 ^ 64 ∧
      (d.port p).trainAt = c.now ∧ (d.port p).capSeen = false ∧ (d.port p).retraining = true ∧ x.sends (d.port p) .retrain ∧ c.sameMem d
    let down (d : Chan) : Prop :=
      d.linkState p = linkDOWN ∧ (d.port p).lseq = 0 ∧ (d.port p).rexp = 0 ∧ (d.port p).replay = [] ∧ c.sameMem d
    (s.fabLive a → c.linkUsable p = true ∨ c.linkState p = linkMISMATCH → Gives (.retrain a p) s a training) ∧
    ((s.chan a.chan).gf (IV_CTL.DISABLE p) = 0 → c.flag (IV_CTL.DISABLE p) = false → s.writable a ag (IV_CTL.off p) 1 →
      2 ≤ c.gf HR_CSTATE.PHASE →
      c.linkState p ≠ linkTRAINING → GivesBy ag (IV_CTL.off p) (.ivRetrain a ag p) s a training) ∧
    (s.writable a ag (IV_CTL.off p) 2 → c.flag (IV_CTL.DISABLE p) = false → c.linkState p ≠ linkDOWN →
      GivesBy ag (IV_CTL.off p) (.ivDisable a ag p 1) s a (fun d => d.flag (IV_CTL.DISABLE p) = true ∧ down d)) ∧
    (s.writable a ag (IV_CTL.off p) 0 → c.flag (IV_CTL.DISABLE p) = true → GivesBy ag (IV_CTL.off p) (.ivDisable a ag p 0) s a (fun d =>
      d.flag (IV_CTL.DISABLE p) = false ∧ d.linkState p = c.linkState p ∧ c.sameMem d ∧ c.sameRegsBut d [IV_CTL.off p])) ∧
    (s.fabLive a → c.linkState p = linkDOWN → c.flag (IV_CTL.DISABLE p) = false → 2 ≤ c.gf HR_CSTATE.PHASE →
      (s.enter a).zReady a.chan p = true → Gives (.peerTraining a p) s a training) ∧
    (s.fabLive a → c.linkState p = linkTRAINING → x.retraining = true →
      (x.fails < 2 → Gives (.retrainFailed a p) s a (fun d => training d ∧ (d.port p).fails = x.fails + 1)) ∧
      (x.fails = 2 → Gives (.linkDown a p) s a down)) ∧
    (s.fabLive a → c.linkState p = linkTRAINING → x.retraining = false → c.t0 + 60 * tSec ≤ c.now → Gives (.trainingTimeout a p) s a down))

/-- Requests at the home channel: READ and WRITE act on memory whose codewords are sound and are answered; one that the channel
turns away, or whose extent does not lie in memory, is answered with the error. -/
def Obligations.RequestsAreAnswered : Prop :=
  ∀ (a : At) (p vc x : Nat) (k : Pkt) (e : Chan) (s : State), s.fabLive a →
    let c := s.here a
    c.arrives p vc k e →
    (k.ptype = pREAD → (c.homeErr = 0 → c.homeAddr k k.len = some x → c.flawsIn x k.len = [] → Gives (.read a p vc) s a (fun d =>
        d = e.respond k pREAD_DATA 0 (c.peek x k.len) ∧ c.sameMem d)) ∧
      (c.homeErr ≠ 0 → Gives (.read a p vc) s a (fun d => d = e.respond k pERROR_RESP c.homeErr [] ∧ c.sameMem d)) ∧
      (c.homeErr = 0 → c.homeAddr k k.len = none → Gives (.read a p vc) s a (fun d => d = e.respond k pERROR_RESP 4 [] ∧ c.sameMem d))) ∧
    (k.ptype = pWRITE → (c.homeErr = 0 → c.homeAddr k k.data.length = some x → c.flawsIn x k.data.length = [] →
        Gives (.write a p vc) s a (fun d =>
          d = (e.poke x k.data).respond k pWRITE_ACK 0 [] ∧ d.peek x k.data.length = k.data ∧ c.sameMemBut d x k.data.length)) ∧
      (c.homeErr ≠ 0 → Gives (.write a p vc) s a (fun d => d = e.respond k pERROR_RESP c.homeErr [] ∧ c.sameMem d)) ∧
      (c.homeErr = 0 → c.homeAddr k k.data.length = none →
        Gives (.write a p vc) s a (fun d => d = e.respond k pERROR_RESP 4 [] ∧ c.sameMem d)))

/-- A remote ATOMIC is performed by the home channel: fetch-add adds modulo 2^64, swap stores the operand, compare-swap stores the
operand only if the old value equals the compare value, each returns the old value and changes nothing else in memory. One whose
address is not aligned, or that the channel turns away, is answered with the error and changes nothing. -/
def Obligations.AtomicsReturnTheOldValue : Prop :=
  ∀ (a : At) (p vc x : Nat) (k : Pkt) (e : Chan) (s : State), s.fabLive a →
    let c := s.here a
    c.arrives p vc k e → k.ptype = pATOMIC →
    let op := bits k.aux 0 2
    let old := c.peekLe x 8
    let compare := ofLe (k.data.take 8)
    (c.homeErr = 0 → c.homeAddr k 8 = some x → x % 8 = 0 → c.flawsIn x 8 = [] →
      Gives (.atomicRequest a p vc) s a (fun d =>
        (op = 0 → d.peekLe x 8 = (old + k.aux2) % 2 ^ 64) ∧
        (op = 1 → d.peekLe x 8 = k.aux2 % 2 ^ 64) ∧
        (op = 2 → d.peekLe x 8 = if old = compare then k.aux2 % 2 ^ 64 else old) ∧
        c.sameMemBut d x 8 ∧ ∃ y : Chan, d = y.respond k pATOMIC_DATA 0 (c.peek x 8))) ∧
    (c.homeErr = 0 → c.homeAddr k 8 = some x → x % 8 ≠ 0 → Gives (.atomicRequest a p vc) s a (fun d =>
      d = e.respond k pERROR_RESP 4 [] ∧ c.sameMem d)) ∧
    (c.homeErr ≠ 0 → Gives (.atomicRequest a p vc) s a (fun d => d = e.respond k pERROR_RESP c.homeErr [] ∧ c.sameMem d))

/-- A DELIVER: the opening packet of a free door slot is written and the slot fills; the later ones of its sender are written
beside it; its descriptor is pushed once it and all its data are there, whichever comes last; what the door refuses is recorded
and answered with error 6. (Where it rests on the model's own choices: notes/assumptions/37.md.) -/
def Obligations.DeliversAreTaken : Prop :=
  ∀ (a : At) (p vc x dr i : Nat) (k : Pkt) (e : Chan) (s : State), s.fabLive a →
    let c := s.here a
    let sl := rxSlot k
    let bwd := rxBwd k
    let v := (c.slot sl).doorSlot bwd dr i
    let ring := (c.qRing sl bwd).1 + 64 * (if bwd then (c.slot sl).btail else (c.slot sl).ftail)
    let entries (c : Chan) : List DescEnt := if bwd then (c.slot sl).bq else (c.slot sl).fq
    let answered (d : Chan) : Prop := ∃ y : Chan, d = y.respond k pWRITE_ACK 0 []
    let filling (w : DoorSlot) (bs : List Byte) (d : Chan) : Prop :=
      d.peek x bs.length = bs ∧ c.sameMemBut d x bs.length ∧ (d.slot sl).doorSlot bwd dr i = w ∧ entries d = entries c ∧ answered d
    let pushed (n : Nat) (d : Chan) : Prop :=
      (entries d).length = (entries c).length + 1 ∧ ((d.slot sl).doorSlot bwd dr i).st = 2 ∧
      (∀ y, ¬ (x ≤ y ∧ y < x + n) → ¬ (ring ≤ y ∧ y < ring + 64) → d.byte y = c.byte y) ∧ answered d
    let refused (r : Nat) (d : Chan) : Prop :=
      c.sameMem d ∧ d.slots = c.slots ∧ ∃ y : Chan, d = y.respond k pERROR_RESP 6 [] ∧
        c.logged y 0x07 0x64 1 (det [(16, 1, sl), (17, 1, b2n bwd), (18, 1, r), (19, 3, k.src)])
    c.arrives p vc k e → c.homeErr = 0 → c.flaws = [] →
    (k.ptype = pDELIVER_DATA → c.homeAddr k k.data.length = some x →
      (dlvOffset k = 0 →
        (c.dlvOpen k x (dlvTotal k) = .ok (dr, i) → Gives (.deliverData a p vc) s a
          (filling { st := 1, src := k.src, total := dlvTotal k, got := k.data.length } k.data)) ∧
        (∀ r, c.dlvOpen k x (dlvTotal k) = .error r → Gives (.deliverData a p vc) s a (refused r))) ∧
      (dlvOffset k ≠ 0 →
        (c.dlvLater k x = .ok (dr, i) →
          (v.desc = none ∨ v.got + k.data.length ≠ v.total → Gives (.deliverData a p vc) s a
            (filling { v with got := v.got + k.data.length } k.data)) ∧
          (v.desc.isSome = true → v.got + k.data.length = v.total → Gives (.deliverData a p vc) s a (pushed k.data.length))) ∧
        (∀ r, c.dlvLater k x = .error r → Gives (.deliverData a p vc) s a (refused r)))) ∧
    (k.ptype = pDELIVER_DESC → c.homeAddr k 0 = some x →
      (dlvTotal k = 0 →
        (c.dlvOpen k x 0 = .ok (dr, i) → Gives (.deliverDesc a p vc) s a (pushed 0)) ∧
        (∀ r, c.dlvOpen k x 0 = .error r → Gives (.deliverDesc a p vc) s a (refused r))) ∧
      (dlvTotal k ≠ 0 →
        (c.dlvLater k x = .ok (dr, i) →
          (v.got = v.total → Gives (.deliverDesc a p vc) s a (pushed 0)) ∧
          (v.got ≠ v.total → Gives (.deliverDesc a p vc) s a (filling { v with desc := some k.data } []))) ∧
        (∀ r, c.dlvLater k x = .error r → Gives (.deliverDesc a p vc) s a (refused r)))) ∧
    (k.ptype = pDELIVER_X → 64 ≤ k.data.length → c.homeAddr k (k.data.length - 64) = some x →
      (c.dlvOpen k x (k.data.length - 64) = .ok (dr, i) → Gives (.deliverX a p vc) s a (pushed (k.data.length - 64))) ∧
      (∀ r, c.dlvOpen k x (k.data.length - 64) = .error r → Gives (.deliverX a p vc) s a (refused r)))

/-- Passes, partials, attendance and ring bells take effect: the first attendance that a bucket receives goes on to the next
member, BREAK and MEND go on around the ring, or wait while the next link trains. A packet of a reserved type is discarded and
counted. (Where it rests on the model's own choices: notes/assumptions/38.md, 48.md, 51.md, 47.md, 136.md.) -/
def Obligations.OtherPacketsAct : Prop :=
  ∀ (a : At) (p vc : Nat) (k : Pkt) (e : Chan) (s : State), s.fabLive a →
    let c := s.here a
    let sl := bits k.aux2 0 3
    let j := bits k.aux2 3 3
    let passedOn (b : Bkt) (d : Chan) : Prop := d.tc0 = (e.ceBell b).tc0 ∧ d.tc0Wait = (e.ceBell b).tc0Wait
    let goesOn (kind : Nat) (d : Chan) : Prop :=
      let ax := leAt k.data 0 1
      let o := oppositePort p
      p < 6 → axisOf p = ax → c.linkId o ≠ leAt k.data 1 2 →
        (c.linkUsable o = true → ∃ y : Chan, d = y.txPut o (y.outVc o 0 none) (c.hopBell o kind (leBytes 1 ax ++ leBytes 2 (leAt k.data 1 2))) none) ∧
        (c.linkState o = linkTRAINING → (d.port o).news = (c.port o).news ++ [(kind, leAt k.data 1 2, false)])
    (c.arrives p vc k e → k.ptype = pPASS →
      (c.headVc p vc < 4 → c.ssState sl ≠ ssUNBOUND → Gives (.pass a p vc) s a (fun d =>
        d.gf (SS_OUT_B.PASSES sl j) = max (c.gf (SS_OUT_B.PASSES sl j))
          (min (c.gf (SS_OUT_B.DEPTH sl j)) (c.gf (SS_OUT_B.PASSES sl j) + bits k.aux2 8 8)) ∧
        c.sameMem d ∧ c.sameRegsBut d [SS_OUT_B.off sl j])) ∧
      (4 ≤ c.headVc p vc → (∀ b ∈ c.bkts, b.g ≠ sl) → Gives (.pass a p vc) s a (fun d =>
        tget (fun _ => 0) d.cePass sl = tget (fun _ => 0) c.cePass sl + bits k.aux2 8 8 ∧ c.sameMem d ∧ c.sameRegsBut d []))) ∧
    (∀ g r, c.arrives p vc k e → c.ceCtx (leAt k.data 0 2) = g :: r → (∀ b ∈ c.bkts, b.id ≠ c.nextBkt) →
      later 16 (c.ceTerm g) (leAt k.data 2 2) = false → c.findBkt g (leAt k.data 2 2) (leAt k.data 4 4) (leAt k.data 8 2) = none →
      c.bktDone g (leAt k.data 2 2) (leAt k.data 4 4) (leAt k.data 8 2) = false → c.flawsIn (c.recAddr g (leAt k.data 8 2)) 8 = [] →
      let mine (b : Bkt) : Prop := b.g = g ∧ b.term = leAt k.data 2 2 ∧ b.step = leAt k.data 4 4 ∧ b.bkt = leAt k.data 8 2 ∧
        b.timer = some c.now
      (k.ptype = pCE_PARTIAL → c.homeErr = 0 → bits k.aux2 0 32 ≤ (k.data.drop 64).length → bits k.aux2 32 32 = 0 →
        Gives (.cePartial a p vc) s a (fun d => ∃ b ∈ d.bkts, mine b ∧ (leAt k.data 11 1, leAt k.data 10 1) ∈ b.seen)) ∧
      (isBell bATTENDANCE k = true → Gives (.attendance a p vc) s a (fun d =>
        (∃ b ∈ d.bkts, mine b ∧ b.bell = true ∧ passedOn b d) ∧ c.sameMem d))) ∧
    (∀ g r b, c.arrives p vc k e → isBell bATTENDANCE k = true → c.ceCtx (leAt k.data 0 2) = g :: r →
      later 16 (c.ceTerm g) (leAt k.data 2 2) = false → c.findBkt g (leAt k.data 2 2) (leAt k.data 4 4) (leAt k.data 8 2) = some b →
      c.bkt? b.id = some b → b.timer.isSome = true →
      (b.bell = true → Gives (.attendance a p vc) s a (fun d => d.tc0 = c.tc0 ∧ d.bkts = c.bkts ∧ c.sameMem d ∧ c.sameRegsBut d [])) ∧
      (b.bell = false → Gives (.attendance a p vc) s a (fun d =>
        (∃ y, d.bkt? b.id = some y ∧ y.bell = true) ∧ passedOn b d ∧ c.sameMem d))) ∧
    (c.takes p vc k e → leAt k.data 0 1 < 3 →
      (isBell bBREAK k = true → Gives (.brk a p vc) s a (fun d =>
        leAt k.data 1 2 ∈ d.known (leAt k.data 0 1) ∧ (∀ l ∈ c.known (leAt k.data 0 1), l ∈ d.known (leAt k.data 0 1)) ∧
        goesOn 7 d ∧ c.sameMem d)) ∧
      (isBell bMEND k = true → Gives (.mend a p vc) s a (fun d =>
        d.known (leAt k.data 0 1) = (c.known (leAt k.data 0 1)).filter (· != leAt k.data 1 2) ∧ goesOn 8 d ∧ c.sameMem d))) ∧
    (c.takes p vc k e → ptypeKnown k.ptype = false → Gives (.reservedPacket a p vc) s a (fun d =>
      d = e.count CS_CNT_UNSUP.COUNT 1 ∧ d.gf CS_CNT_UNSUP.COUNT = (c.gf CS_CNT_UNSUP.COUNT + 1) % 2 ^ 64 ∧ c.sameMem d))

/-- A response ends the operation that waits for it: data reach memory or the core's register, an atomic's old value its place, an
acknowledgement ends a write, an error traps the core; a late response is counted. An operation without a response times out.
(Where it rests on the model's own choices: notes/assumptions/42.md, 43.md.) -/
def Obligations.ResponsesEndOperations : Prop :=
  ∀ (a : At) (p vc : Nat) (k : Pkt) (e : Chan) (s : State), s.fabLive a →
    let c := s.here a
    (c.arrives p vc k e →
      (c.opOf k.tid false = none → ∀ i, (k.ptype = pREAD_DATA ∧ i = Instr.readData a p vc ∨ k.ptype = pWRITE_ACK ∧ i = .writeAck a p vc ∨
          k.ptype = pATOMIC_DATA ∧ i = .atomicData a p vc ∨ k.ptype = pERROR_RESP ∧ i = .errorResp a p vc) →
        Gives i s a (fun d =>
          d.gf CS_CNT_LATE.COUNT = (c.gf CS_CNT_LATE.COUNT + 1) % 2 ^ 64 ∧ d.ops = c.ops ∧ c.sameMem d ∧
          c.sameRegsBut d [CS_CNT_LATE.off])) ∧
      (∀ o, c.opOf k.tid false = some o →
        (∀ x, k.ptype = pREAD_DATA → o.cont = .toMem x → c.flaws = [] → Gives (.readData a p vc) s a (fun d =>
          d.peek x k.data.length = k.data ∧ c.sameMemBut d x k.data.length ∧ c.sameOpsBut d k.tid ∧ c.sameRegsBut d [])) ∧
        (∀ y x, k.ptype = pATOMIC_DATA → o.cont = .result y → locOf y = .lcl x → o.q ≠ 0xFF → o.dead = false → c.flaws = [] →
          Gives (.atomicData a p vc) s a (fun d =>
            d.peek x (k.data.take 8).length = k.data.take 8 ∧ c.sameMemBut d x 8 ∧ c.sameOpsBut d k.tid)) ∧
        (k.ptype = pWRITE_ACK → o.cont = .ack → Gives (.writeAck a p vc) s a (fun d =>
          c.sameMem d ∧ c.sameOpsBut d k.tid ∧ c.sameRegsBut d [])) ∧
        (∀ h rd, k.ptype = pATOMIC_DATA → o.cont = .core h rd 8 false false → o.q = 0xFF → rd ≠ 0 → Gives (.atomicData a p vc) s a (fun d =>
          (d.core h).xr rd = leAt k.data 0 8 ∧ (d.core h).busy = false ∧ c.sameOpsBut d k.tid)) ∧
        (∀ h rd n g f, k.ptype = pERROR_RESP → o.cont = .core h rd n g f → Gives (.errorResp a p vc) s a (fun d =>
          (c.core h).trapped (d.core h) (if o.pkt.ptype = pATOMIC then 7 else 5) (o.global % 2 ^ 64) (c.core h).handler ∧
          (d.core h).busy = false ∧ c.sameOpsBut d k.tid ∧ c.sameMem d)))) ∧
    (∀ tid o, c.opOf tid false = some o → o.sent + c.gf CS_TO.RESP_TIMEOUT_US * tUs ≤ c.now → (∃ h, o.cont = .coreStore h) →
      Gives (.respTimeout a tid) s a (fun d =>
        d.gf CS_CNT_TIMEOUT.COUNT = (c.gf CS_CNT_TIMEOUT.COUNT + 1) % 2 ^ 64 ∧ d.flag CS_STAT.TIMEOUT = true ∧
        c.sameOpsBut d tid ∧ c.sameMem d))

/-! ### Start-up, roll call, failures and recovery -/

/-- Start-up, phases P1 to P3: a channel reset begins it, sections, base die, compute die and self-test end P1 or set a fault, and
a neighbour's bell passes the checks of R387 or disables its port. (Where it rests on the model's own choices:
notes/assumptions/61.md, 62.md, 117.md.) -/
def Obligations.ChannelsStartUp : Prop :=
  ∀ (a : At) (s : State), s.homeLive a →
    let c := s.here a
    let faulted (r : Nat) (d : Chan) : Prop := d.cstate = csBYPASS ∧ d.gf HR_CSTATE.FAULT = r ∧ d.gf CS_CFG.MODE = 1 ∧ d.phase = 2
    GivesAll (.channelReset a) s (fun m =>
      let d := m.chan a.chan
      d.phase = 1 ∧ d.cstate = csBOOT ∧ d.mem = [] ∧ d.sections = [] ∧ d.t0 = c.now ∧ d.boot.secBad = c.boot.secBad ∧ d.gf UC_STAT.STATE = 1 ∧
      (∀ q, queueId q = true → q ≠ 0x80 → d.queue q = {}) ∧ (∀ n, n ≠ a.chan → m.chan n = (s.enter a).chan n)) ∧
    (∀ hd secs, c.inP1 = true → c.boot.loaded = false → c.gf HR_CSTATE.FAULT ≠ 2 → c.ucUp = true → c.refLost = false → (s.enter a).hpd.sylOp = none →
      (s.enter a).hpd.header = some hd →
      (c.boot.secBad = false → (s.enter a).hpd.deliver hd c.num = some secs → Gives (.sectionLoad a) s a (fun d =>
        d.sections = secs ∧ d.boot.loaded = true ∧ d.gf CH_CLK_STAT.ROOT_LOCK = 1 ∧ d.gf CS_CFG.MODE = 0 ∧
        d.node = (leAt (d.section1 secPOSITION) 0 2 * 512 + leAt (d.section1 secPOSITION) 2 1 * 4 + c.num) % 2 ^ 18 ∧ c.sameMem d)) ∧
      (c.boot.secBad = true ∨ (s.enter a).hpd.deliver hd c.num = none → Gives (.sectionLoad a) s a (fun d =>
        d.gf HR_CSTATE.FAULT = 2 ∧ d.phase = 1 ∧ d.boot.secBad = true ∧ c.logged d 0x0C 0xC1 3 (det [(16, 1, 1), (17, 1, 2)]) ∧ c.sameMem d))) ∧
    (c.p1Runs = true → c.boot.loaded = true → c.boot.base = false →
      (c.envBad = false → Gives (.baseDieReady a true true) s a (fun d =>
        d.boot.base = true ∧ d.phase = 1 ∧ (∀ x, d.byte x = if spBase ≤ x ∧ x < spBase + spSize then 0 else c.byte x) ∧
        c.sameRegsBut d [])) ∧
      (c.envBad = true → Gives (.baseDieReady a true true) s a (faulted 5)) ∧
      Gives (.baseDieReady a false true) s a (faulted 3) ∧ Gives (.baseDieReady a true false) s a (faulted 4)) ∧
    (c.p1Runs = true → c.boot.base = true → c.boot.compute = false → 7 * tSec + c.staggerSlot * (50 * tMs) ≤ c.localTick →
      (c.boot.envBad = false → c.envForbids = false → Gives (.computePowerOn a) s a (fun d =>
        d.noCompute = false ∧ d.boot.compute = true ∧ c.sameMem d ∧ c.sameRegsBut d [])) ∧
      (c.boot.envBad = true ∨ c.envForbids = true → Gives (.computePowerOn a) s a (faulted 5))) ∧
    (c.p1Runs = true → c.boot.compute = true →
      Gives (.computeSelfTest a true true) s a (fun d =>
        d.flag SVC_STAT.UP = true ∧ d.phase = 2 ∧ d.cstate = csBOOT ∧
        (∀ p, p < 6 → c.flag (IV_CTL.DISABLE p) = false → d.linkState p = linkTRAINING) ∧ c.sameMem d) ∧
      Gives (.computeSelfTest a true false) s a (faulted 6) ∧ Gives (.computeSelfTest a false true) s a (faulted 7)) ∧
    (∀ p vc k e, p < 6 → s.fabLive a → c.takes p vc k e → isRoll 0 k = true →
      (c.phase < 3 → Gives (.neighbour a p vc) s a (fun d => (d.nbr p).bell = some k.data ∧ c.sameMem d ∧ c.sameRegsBut d [])) ∧
      (3 ≤ c.phase → c.linkUsable p = true → (c.nbr p).checked = false →
        let b := parseRoll k.data
        let good : Prop := c.gf (IV_STAT.PEER_NODE p) = b.node ∧ c.beyond p = b.node ∧ b.hall = c.hall ∧
          fabVer c.fabric (c.minusEnd p) (axisOf p) ≤ c.gf (IV_VER.NEG_VER p)
        Gives (.neighbour a p vc) s a (fun d =>
          (d.nbr p).bell = some k.data ∧ (d.nbr p).sent = true ∧ (d.nbr p).checked = true ∧
          (good → (d.nbr p).bad = false ∧ c.sameMem d ∧ c.sameRegsBut d (c.bellRegs [])) ∧
          (¬ good → (d.nbr p).bad = true ∧ d.flag (IV_CTL.DISABLE p) = true ∧ d.linkState p = linkDOWN)))) ∧
    (∀ p, p < 6 → 3 ≤ c.phase → c.linkUsable p = true → (c.nbr p).checked = false → (c.nbr p).bell = none →
      max (c.boot.p2.getD 0) ((c.nbr p).upAt.getD 0) + tSec ≤ c.now → Gives (.neighbourTimeout a p) s a (fun d =>
        (d.nbr p).checked = true ∧ (d.nbr p).bad = true ∧ d.flag (IV_CTL.DISABLE p) = true ∧ d.linkState p = linkDOWN))

/-- Roll call: a candidate starts a lap, a member marks a COLLECT and lets it go or holds it, a CONFIRM closes the axis at each
member, and reports and time limits make the leader or the alternate send ALL_PRESENT, which every channel records once. (Where it
rests on the model's own choices: notes/assumptions/57.md, 63.md, 145.md.) -/
def Obligations.RollCallRuns : Prop :=
  ∀ (a : At) (p vc ax i : Nat) (k : Pkt) (e : Chan) (s : State), s.homeLive a → ax < 3 →
    let c := s.here a
    let me := c.myCoord ax
    let marked (b : RollBell) : RollBell :=
      if c.cstate = csBYPASS then { b with bypass := b.bypass ||| 2 ^ me } else { b with present := b.present ||| 2 ^ me }
    let by_ (b : RollBell) : Nat := 2 * ax + b2n b.minus
    let sent (e d : Chan) : Prop := d.tc0 = e.tc0 ∧ d.tc0Wait = e.tc0Wait
    let lowOk (h : Nat) : Prop := ∀ l, (c.lap ax).low = some l → h ≤ l
    let present (fl n : Nat) (d : Chan) : Prop :=
      d.boot.gotAll = true ∧ d.flag HR_RC_STAT.ALL_PRESENT = true ∧ d.gf HR_RC_STAT.COMPLETE = fl % 2 ∧ d.gf HR_RC_STAT.HALL_PRESENT = n % 2 ^ 17 ∧
      (c.cstate = csROLLCALL → d.cstate = if c.flag CH_SEAT.SEATED then csREADY else csSUBSTITUTE) ∧
      (c.phase = 4 → d.phase = 5) ∧ c.sameMem d
    (c.axisReady ax = true → c.candidate ax = true → (c.lap ax).started = false → c.axisClosed ax = false → lowOk me →
      c.linkUsable (2 * ax) = true → Gives (.lapStart a ax) s a (fun d =>
        (d.lap ax).started = true ∧ (d.lap ax).low = some me ∧
        sent (c.sendRoll (2 * ax) (marked { c.roll0 with phase := 1, axis := ax, head := me })) d ∧
        c.sameMem d ∧ c.sameRegsBut d (c.bellRegs []))) ∧
    (s.fabLive a → c.takes p vc k e → isRoll 1 k = true → (parseRoll k.data).axis = ax →
      let b := parseRoll k.data
      (lowOk b.head → c.lapComplete b = false →
        (c.axisReady ax = true → c.linkUsable (by_ b) = true → Gives (.collect a p vc) s a (fun d =>
          (d.lap ax).low = some b.head ∧ sent (c.sendRoll (by_ b) (marked b)) d ∧ c.sameMem d ∧ c.sameRegsBut d (c.bellRegs []))) ∧
        (c.mayRelease ax = false → Gives (.collect a p vc) s a (fun d =>
          (d.lap ax).low = some b.head ∧ (d.lap ax).held = (c.lap ax).held ++ [(b.bytes, false)] ∧ d.tc0 = c.tc0 ∧
          c.sameMem d ∧ c.sameRegsBut d []))) ∧
      (¬ lowOk b.head → Gives (.collect a p vc) s a (fun d => d = e))) ∧
    (∀ x, (c.lap ax).held[i]? = some (x, false) → (parseRoll x).axis = ax → (parseRoll x).phase ≠ 2 → lowOk (parseRoll x).head →
      c.linkUsable (by_ (parseRoll x)) = true →
      (c.axisReady ax = true → Gives (.collectRelease a ax i) s a (fun d =>
        (d.lap ax).held = (c.lap ax).held.eraseIdx i ∧ sent (c.sendRoll (by_ (parseRoll x)) (marked (parseRoll x))) d ∧
        c.sameMem d)) ∧
      (c.pastHold ax = true → Gives (.holdLimit a ax i) s a (fun d =>
        (d.lap ax).held = (c.lap ax).held.eraseIdx i ∧
        sent (c.sendRoll (by_ (parseRoll x)) (if c.axisReady ax then marked (parseRoll x) else parseRoll x)) d ∧ c.sameMem d))) ∧
    (s.fabLive a → c.takes p vc k e → isRoll 2 k = true → (parseRoll k.data).axis = ax →
      let b := parseRoll k.data
      (c.lap ax).low = some b.head → c.lapComplete b = false → c.axisClosed ax = false →
      Gives (.confirm a p vc) s a (fun d =>
        d.flag (closedFld ax) = true ∧ d.gf (headFld ax) = b.head % 2 ^ (headFld ax).w ∧ d.flag (lineFld ax) = b.line ∧
        (∀ j, j < 5 → ax = 0 → d.gf (HR_RC_X.PRESENT j) = bits b.present (64 * j) 64 ∧ d.gf (HR_RC_XB.BYPASS j) = bits b.bypass (64 * j) 64) ∧
        (∀ j, j < 2 → ax = 1 → d.gf (HR_RC_Y.PRESENT j) = bits b.present (64 * j) 64 ∧ d.gf (HR_RC_YB.BYPASS j) = bits b.bypass (64 * j) 64) ∧
        (ax = 2 → d.gf HR_RC_Z.PRESENT = b.present % 16 ∧ d.gf HR_RC_Z.BYPASS = b.bypass % 16) ∧
        ((b.present ||| b.bypass) &&& 2 ^ me = 0 → ¬ (c.boot.gotAll = true ∧ c.cstate ≠ csBOOT) → d.flag HR_CSTATE.LATE = true) ∧
        ((b.present ||| b.bypass) &&& 2 ^ me ≠ 0 → c.linkUsable (by_ b) = true → sent (c.sendRoll (by_ b) b) d) ∧ c.sameMem d)) ∧
    (s.fabLive a → c.arrives p vc k e → isRoll 3 k = true → c.gf HR_CSTATE.ROLE ≠ 0 →
      let b := parseRoll k.data
      let ring := nodeY b.node * 4 + nodeZ b.node
      Gives (.report a p vc) s a (fun d =>
        (ring, b.npres, b.nbyp) ∈ d.boot.reports ∧ (∀ r ∈ c.boot.reports, r.1 ≠ ring → r ∈ d.boot.reports) ∧
        (d.boot.sentAll = true → d.boot.sentAll = c.boot.sentAll ∨ d.boot.gotAll = true) ∧ c.sameMem d)) ∧
    (let rs := c.boot.reports
     let all := b2n (rs.length == c.ringLen 1 * 4)
     let n := rs.foldl (fun n r => n + r.2.1) 0
     c.boot.gotAll = false → c.boot.sentAll = false →
      (c.gf HR_CSTATE.ROLE = 1 → 70 * tSec ≤ c.localTick → Gives (.leaderTimeout a) s a (fun d => d.boot.sentAll = true ∧ present all n d)) ∧
      (c.gf HR_CSTATE.ROLE = 2 → 72 * tSec ≤ c.localTick →
        Gives (.rollcallAltTimeout a) s a (fun d => d.boot.sentAll = true ∧ present all n d))) ∧
    (s.fabLive a → c.takes p vc k e → isBell bALL_PRESENT k = true → bit (leAt k.data 0 1) 3 = false →
      (c.boot.gotAll = false →
        Gives (.allPresent a p vc) s a (present (leAt k.data 0 1) (leAt k.data 1 3))) ∧
      (c.boot.gotAll = true → Gives (.allPresent a p vc) s a (fun d => d = e)))

/-- Heartbeats go out once a millisecond, clear the sender's misses, and three misses make a neighbour suspect; a channel that is
vacated or accused fences itself, whereupon its engine queues stop, the host queue runs on and its searches for substitutes end;
then it loses its compute die and goes into BYPASS, where one fenced in P1 goes on with P2. (Where it rests on the model's own
choices: notes/assumptions/52.md, 64.md.) -/
def Obligations.HeartbeatsAndFences : Prop :=
  ∀ (a : At) (ag : Agent) (p vc : Nat) (k : Pkt) (e : Chan) (s : State), s.homeLive a →
    let c := s.here a
    let fenced (d : Chan) : Prop := d.cstate = csFENCED ∧ d.gf CS_CFG.MODE = 1 ∧ d.gf CH_TERM.STATE = 0 ∧ d.fencedAt = some c.now ∧
      (∀ q, queueId q = true → q ≠ 0x80 → (d.queue q).fenced = true ∧ (d.queue q).started = []) ∧ d.queue 0x80 = c.queue 0x80 ∧
      d.searches = [] ∧ c.sameMem d
    (c.hbOn = true → c.hbSent ≠ c.hbMs → c.tc0.length + c.hbPorts.length ≤ 64 → (∀ q ∈ c.hbPorts, c.beyond q = c.node ∨ c.routeLinks (c.beyond q) ≤ c.gf CS_CFG.TC0_HOP_LIMIT) →
      Gives (.heartbeatSend a) s a (fun d =>
        d.tc0 = c.tc0 ++ c.hbPorts.map (fun q => (bell bHEARTBEAT c.node (c.beyond q) c.hbBytes).bytes) ∧
        d.hbSeq = c.hbSeq + 1 ∧ d.hbSent = c.hbMs ∧ c.sameMem d ∧ c.sameRegsBut d [])) ∧
    (s.fabLive a → c.arrives p vc k e → isBell bHEARTBEAT k = true → Gives (.heartbeat a p vc) s a (fun d =>
      (∀ q, q < 6 → c.beyond q = leAt k.data 0 3 % 2 ^ 18 →
        d.hb q = { heard := true, misses := 0, state := leAt k.data 3 1 } ∧ bit (d.gf HR_HB_STAT.SUSPECT) q = false) ∧
      (∀ q, q < 6 → c.beyond q ≠ leAt k.data 0 3 % 2 ^ 18 → d.hb q = c.hb q) ∧ c.sameMem d ∧ c.sameRegsBut d [HR_HB_STAT.off])) ∧
    (c.hbTick ≠ c.hbMs → Gives (.hbTick a) s a (fun d => ∀ q, q < 6 → bit (c.gf HR_HB_STAT.MONITORED) q = true →
      ((c.hb q).heard = true → (d.hb q).heard = false ∧ (d.hb q).misses = 0) ∧
      ((c.hb q).heard = false → (d.hb q).misses = (c.hb q).misses + 1 ∧
        ((c.hb q).misses = 2 → (c.hb q).state ≠ csFENCED → (c.hb q).state ≠ csBYPASS → bit (d.gf HR_HB_STAT.SUSPECT) q = true)))) ∧
    (s.writable a ag HR_RECOV_CTL.off 1 → ag ≠ .monitor → c.cstate ≠ csFENCED → c.cstate ≠ csBYPASS →
      GivesBy ag HR_RECOV_CTL.off (.vacate a ag) s a fenced) ∧
    (s.fabLive a → c.arrives p vc k e → isFail 1 k = true → fFAILED k.data = c.node → c.cstate = csREADY ∨ c.cstate = csSERVICE →
      Gives (.suspect a p vc) s a fenced) ∧
    (∀ t, c.fencedAt = some t → c.cstate = csFENCED → Gives (.fencePowerdown a) s a (fun d =>
      d.cstate = csBYPASS ∧ d.noCompute = true ∧ d.fencedAt = none ∧ c.sameMem d ∧
      (c.phase = 1 → c.boot.loaded = true → d.phase = 2) ∧ (c.phase ≠ 1 ∨ c.boot.loaded = false → c.sameRegsBut d [HR_CSTATE.off])))

/-- The coordinator of a failed seat calls its candidates in turn, the alternate waits for it 5 s from the first notice unless its
RECOVER has come, a spare is claimed, answers and is let go after 60 s, and a candidate's answer, or none in 10 ms, moves the
search on. (Where it rests on the model's own choices: notes/assumptions/65.md, 67.md, 68.md, 135.md.) -/
def Obligations.SubstitutesAreCalled : Prop :=
  ∀ (a : At) (p vc : Nat) (k : Pkt) (e : Chan) (s : State), s.homeLive a →
    let c := s.here a
    let x := k.data
    let called (seat job n : Nat) (r : List Nat) (d : Chan) : Prop :=
      ∃ u ∈ d.searches, u.seat = seat ∧ u.job = job ∧ u.stage = 0 ∧ u.called = some (n, c.now) ∧ u.cands = r
    let claimed (d : Chan) : Prop := d.claim.isSome = true
    (s.fabLive a → c.arrives p vc k e → isFail 0 k = true → c.working = true → fJOB x = c.job → fOLD x = c.gf CH_TERM.CUR →
      c.acted.contains (fJOB x, fOLD x, fSEAT x) = false →
      (∀ n r, c.node = c.coordNode (fSEAT x) → c.candidates (fFAILED x) = n :: r → Gives (.notice a p vc) s a (fun d =>
        d.flag HR_RECOV_STAT.COORD = true ∧ d.gf HR_RECOV_STAT.FAILED = fFAILED x ∧ (fJOB x, fOLD x, fSEAT x) ∈ d.acted ∧
        called (fSEAT x) (fJOB x) n r d ∧ c.sameMem d)) ∧
      (c.node = c.coordNode (fSEAT x) → c.candidates (fFAILED x) = [] → Gives (.notice a p vc) s a (fun d =>
        d.flag HR_RECOV_STAT.COORD = true ∧ d.flag HR_RECOV_STAT.NO_SUB = true ∧ c.sameMem d)) ∧
      (c.node ≠ c.coordNode (fSEAT x) → c.node = c.altNode (fSEAT x) →
        (c.altHeard.contains (fJOB x, fOLD x, fSEAT x) = false → c.recSeen.contains (fJOB x, (fOLD x + 1) % 2 ^ 16, fSEAT x) = false →
          Gives (.notice a p vc) s a (fun d =>
          d.altHeard = c.altHeard ++ [(fJOB x, fOLD x, fSEAT x)] ∧ d.altWaits = c.altWaits ++ [{ seat := fSEAT x, failed := fFAILED x, cause := fCAUSE x, job := fJOB x, term := fOLD x, since := c.now }] ∧
          c.sameMem d ∧ c.sameRegsBut d [])) ∧
        (c.altHeard.contains (fJOB x, fOLD x, fSEAT x) = true ∨ c.recSeen.contains (fJOB x, (fOLD x + 1) % 2 ^ 16, fSEAT x) = true →
          Gives (.notice a p vc) s a (fun d => d = e)))) ∧
    (∀ w, c.altWaits.find? (fun w => decide (w.since + 5 * tSec ≤ c.now)) = some w → c.working = true →
      Gives (.recoveryAltTimeout a) s a (fun d =>
        w ∉ d.altWaits ∧ d.flag HR_RECOV_STAT.COORD = true ∧ d.gf HR_RECOV_STAT.FAILED = w.failed % 2 ^ 18 ∧
        (w.job, w.term, w.seat) ∈ d.acted ∧ c.sameMem d)) ∧
    (s.fabLive a → c.arrives p vc k e → isSub 0 k = true →
      let ans (op r : Nat) : List (List Byte) :=
        (c.sendBell bSUBSTITUTE (uCALLER x) (subBytes op r (uCALLER x) c.node (uJOB x) (uOLD x) (uSEAT x))).tc0
      (c.cstate = csSUBSTITUTE → c.claim = none → Gives (.call a p vc) s a (fun d =>
        d.claim = some { job := uJOB x, seat := uSEAT x, caller := uCALLER x, term := uOLD x, since := c.now, up := false } ∧
        d.flag HR_RECOV_STAT.CLAIMED = true ∧ d.tc0 = ans 1 0 ∧ c.sameMem d)) ∧
      (c.cstate ≠ csSUBSTITUTE → Gives (.call a p vc) s a (fun d => d.claim = c.claim ∧ d.tc0 = ans 2 1 ∧ c.sameMem d)) ∧
      (c.cstate = csSUBSTITUTE → claimed c → Gives (.call a p vc) s a (fun d => d.claim = c.claim ∧ d.tc0 = ans 2 2 ∧ c.sameMem d))) ∧
    (∀ u, s.fabLive a → c.arrives p vc k e → isSub 1 k = true → c.searchOf x (fun u => u.waits (uCALLEE x)) = some u →
      Gives (.accept a p vc) s a (fun d =>
        d.gf HR_RECOV_STAT.SUB = uCALLEE x ∧ d.recSeen.length = c.recSeen.length + 1 ∧
        (∃ w ∈ d.searches, w.seat = u.seat ∧ w.job = u.job ∧ w.stage = 1 ∧ w.sub = uCALLEE x) ∧ c.sameMem d)) ∧
    (∀ u n r, s.fabLive a → c.arrives p vc k e → isSub 2 k = true → c.searchOf x (fun u => u.waits (uCALLEE x)) = some u → u.cands = n :: r →
      Gives (.refuse a p vc) s a (fun d => called u.seat u.job n r d ∧ c.sameMem d)) ∧
    (∀ u n t, c.searches.find? (fun u => u.stage == 0 && u.called.any (fun b => decide (b.2 + 10 * tMs ≤ c.now))) = some u →
      u.called = some (n, t) →
      (∀ m r, u.cands = m :: r → Gives (.callTimeout a) s a (fun d => called u.seat u.job m r d ∧ c.sameMem d)) ∧
      (u.cands = [] → Gives (.callTimeout a) s a (fun d =>
        d.flag HR_RECOV_STAT.NO_SUB = true ∧ (∀ w ∈ d.searches, w.job = u.job → w.seat ≠ u.seat) ∧ c.sameMem d))) ∧
    (∀ l, c.claim = some l → c.subRecover = none → l.since + 60 * tSec ≤ c.now → Gives (.claimTimeout a) s a (fun d =>
      d.claim = none ∧ d.flag HR_RECOV_STAT.CLAIMED = false ∧ c.sameMem d))

/-- RECOVER is taken and goes on by every usable port of its spreading once, waiting at one that trains; of those held the one
with the lowest seat is applied after 2 ms; the substitute's UP brings it its chart image in fabric writes, and CHART makes it
adopt the image and go to READY. (Where it rests on the model's own choices: notes/assumptions/60.md, 66.md, 67.md, 145.md.) -/
def Obligations.RecoversAreApplied : Prop :=
  ∀ (a : At) (p vc : Nat) (k : Pkt) (e : Chan) (s : State), s.homeLive a →
    let c := s.here a
    let x := k.data
    (s.fabLive a → c.takes p vc k e → isFail 2 k = true →
      (c.recSeen.contains (recKey x) = false → Gives (.recover a p vc) s a (fun d =>
        d.recSeen = c.recSeen ++ [recKey x] ∧
        d.recovers = (if c.working ∧ c.job = fJOB x ∧ c.gf CH_TERM.CUR = fOLD x then c.recovers ++ [(x, c.now)] else c.recovers) ∧
        ((∀ q ∈ apPorts p, c.linkState q ≠ linkTRAINING) → c.spread = [] →
          let z := (apPorts p).foldl (fun y q => if c.linkUsable q then y.linkBell q bFAILURE x else y) e
          d.spread = [] ∧ d.tc0 = z.tc0 ∧ d.tc0Wait = z.tc0Wait) ∧
        (∀ q r, apPorts p = q :: r → c.linkState q = linkTRAINING → c.spread = [] →
          d.spread = [copiesBy bFAILURE (apPorts p) x] ∧ d.tc0 = c.tc0) ∧
        c.sameMem d ∧ (c.spread = [] → c.sameRegsBut d (c.bellRegs [])))) ∧
      (c.recSeen.contains (recKey x) = true → Gives (.recover a p vc) s a (fun d => d = e))) ∧
    (∀ b t, c.working = true → c.applying = none → (b, t) ∈ c.recovers → fOLD b = c.gf CH_TERM.CUR → t + 2 * tMs ≤ c.now →
      (∀ r ∈ c.recovers, fOLD r.1 = c.gf CH_TERM.CUR → r.1 = b ∨ fSEAT b < fSEAT r.1) →
      Gives (.recoverHoldExpiry a) s a (fun d => d.applying = some b ∧ d.recovers = [])) ∧
    (∀ u, s.fabLive a → c.arrives p vc k e → isSub 3 k = true → c.searchOf x (fun u => u.stage == 1 && u.sub == uCALLEE x) = some u →
      Gives (.up a p vc) s a (fun d =>
        let m := chartFor c.chart u.seat (uCALLEE x) ((u.old + 1) % 2 ^ 16) u.gen
        let imageWrite (e : Nat × Nat) : Op :=
          { op0 with
            kind := 1
            pkt := { pkt0 with
              ptype := pWRITE, dst := uCALLEE x, len := e.2, addr := fabAddr (uCALLEE x) (0x401FF00000 + e.1), data := (m.drop e.1).take e.2 }
            cont := .unit 4 u.seat u.job }
        (∃ w ∈ d.searches, w.seat = u.seat ∧ w.job = u.job ∧ w.stage = 2 ∧ w.sub = u.sub ∧ w.left = (cut m.length).length) ∧
        (∃ y : Chan, d = (cut m.length).foldl (fun y e => y.request (imageWrite e)) y) ∧ c.sameMem d)) ∧
    (∀ l, s.fabLive a → c.arrives p vc k e → isSub 4 k = true → c.claim = some l → l.job = uJOB x → l.seat = uSEAT x →
      c.cstate = csSUBSTITUTE → c.computeOn = true →
      let y := e.sf CH_CHART_SRC.ADDR (subImage / 64)
      (∀ m r i, y.chartAt = (some m, y) → c.subRecover = some r → chartOk c.fabric m = true → chJOB m = fJOB r → chTERM m = fNEW r →
        chGEN m = fGEN r → chNode m (fSEAT r) = c.node → chSeatOf m c.node = some i → c.flag CH_SEAT.SEATED = false →
        c.gf CH_TERM.STATE = 0 → Gives (.chart a p vc) s a (fun d =>
          d.cstate = csREADY ∧ d.chart = m ∧ d.flag CH_SEAT.SEATED = true ∧ d.gf CH_TERM.CUR = fNEW r ∧
          d.claim = none ∧ d.subRecover = none ∧ d.flag HR_RECOV_STAT.CLAIMED = false)) ∧
      (c.subRecover = none → Gives (.chart a p vc) s a (fun d =>
        d.cstate = csSUBSTITUTE ∧ d.claim = none ∧ d.chart = c.chart ∧ d.flag HR_RECOV_STAT.CLAIMED = false)))

/-- The job bootstrap, once on entering READY: it asks the host, fetches by RoCE, or starts a program of the boot image; a failed
fetch is tried again after 1 s. (Where it rests on the model's own choices: notes/assumptions/102.md, 103.md.) -/
def Obligations.BootstrapBegins : Prop :=
  ∀ (a : At) (s : State), s.homeLive a →
    let c := s.here a
    (c.cstate = csREADY → c.flag SVC_STAT.UP = true → c.boot.strapped = false → c.bootstrap = none →
      (c.bsSOURCE = 0 → Gives (.bootstrap a) s a (fun d =>
        d.boot.strapped = true ∧ (∃ b, d.bootstrap = some b ∧ b.stage = 2) ∧ d.mbOut.length = c.mbOut.length + 1 ∧ d.cstate = csREADY ∧
        c.sameMem d ∧ c.sameRegsBut d [])) ∧
      (c.bsSOURCE = 1 → inMem c.bsLOAD c.bsLEN = true → Gives (.bootstrap a) s a (fun d =>
        d.boot.strapped = true ∧ (∃ b, d.bootstrap = some b ∧ b.stage = 1 ∧ b.retries = c.bsRETRIES) ∧ d.cstate = csREADY)) ∧
      (∀ sec ps, c.bsSOURCE = 2 → c.sections.find? (fun e => e.1 == c.bsPROG && e.2.1 == secPROGRAM) = some sec →
        (digestGiven c.bsDIGEST = true → shake256 sec.2.2 = c.bsDIGEST) → imagePieces sec.2.2 = some ps →
        Gives (.bootstrap a) s a (fun d =>
          d.boot.strapped = true ∧ d.bootstrap = none ∧ d.cstate = csSERVICE ∧ d.mbOut.length = c.mbOut.length + 1)) ∧
      (c.bsSOURCE = 3 → Gives (.bootstrap a) s a (fun d =>
        d.boot.strapped = true ∧ d.bootstrap = none ∧ d.cstate = csREADY ∧ c.sameMem d ∧ c.sameRegsBut d []))) ∧
    (∀ b, c.bootstrap = some b → b.stage = 3 → b.since + tSec ≤ c.now → Gives (.bootstrapRetry a) s a (fun d =>
      ∃ y, d.bootstrap = some y ∧ y.stage = 1 ∧ y.retries = b.retries ∧ y.since = c.now))

/-! ### The host and network ports -/

/-- The host's doorbells, mailboxes, boot load and configuration, and the host-bound writes and reads of the module. (Where it
rests on the model's own choices: notes/assumptions/58.md, 76.md, 77.md, 100.md, 123.md, 125.md.) -/
def Obligations.HostAccessesAct : Prop :=
  ∀ (a : At) (s : State), (s.enter a).hpd.good = true →
    let b := s.enter a
    let c := s.here a
    let h := b.hpd
    (h.flag HP_LINK.UP = true → ∀ v, v < 2 ^ 16 → v ≠ c.gf HPC_HQ_CNT.TAIL_CNT →
      let w := c.hqW
      let fits : Prop := v < w ∧ (v + w - c.gf HPC_HQ_CNT.TAIL_CNT) % w ≤ c.qDepth 0x80 - c.qFill 0x80
      (c.gf UC_STAT.STATE = 0 → Gives (.doorbell a v) s a (fun d => d = c)) ∧
      (c.gf UC_STAT.STATE ≠ 0 → fits → Gives (.doorbell a v) s a (fun d =>
        d.gf HPC_HQ_CNT.TAIL_CNT = v ∧ c.sameMem d ∧ c.sameRegsBut d [HPC_HQ_CNT.off] ∧
        (d.queue 0x80).st = if (c.queue 0x80).st = .idle then .running else (c.queue 0x80).st)) ∧
      (c.gf UC_STAT.STATE ≠ 0 → ¬ fits → Gives (.doorbell a v) s a (fun d =>
        d.gf HPC_HQ_CNT.TAIL_CNT = c.gf HPC_HQ_CNT.TAIL_CNT ∧
        d.gf HPC_CNT_DBREF.COUNT = (c.gf HPC_CNT_DBREF.COUNT + 1) % 2 ^ 64 ∧ c.sameMem d))) ∧
    (h.flag HP_LINK.UP = true → Gives (.mbAck a) s a (fun d => d.mbWait = false ∧ c.sameMem d ∧ c.sameRegsBut d [])) ∧
    (∀ n m, mbMessage c h = some (n, m) → leAt m 0 2 = 0x0102 → c.flag SVC_STAT.UP = true → c.ucUp = true →
      (c.cstate ≠ csREADY → Gives (.bootLoad a) s a (fun d =>
        d.flag HPC_STAT.MB_H2D_BUSY = false ∧ d.cstate = c.cstate ∧ d.mbOut.length = c.mbOut.length + 1 ∧ c.sameMem d)) ∧
      (∀ ps, let x := c.peek (leAt m 8 8) (leAt m 16 4)
        let digests := [c.bsDIGEST, (m.drop 24).take 32].filter digestGiven
        c.cstate = csREADY → (∀ y, c.bootstrap = some y → y.stage = 2) → c.flaws = [] → inMem (leAt m 8 8) (leAt m 16 4) = true →
        (h.may 6 = true → digests ≠ []) → (∀ g ∈ digests, shake256 x = g) → imagePieces x = some ps →
        Gives (.bootLoad a) s a (fun d =>
          d.flag HPC_STAT.MB_H2D_BUSY = false ∧ d.cstate = csSERVICE ∧ d.bootstrap = none ∧ d.mbOut.length = c.mbOut.length + 1))) ∧
    (∀ n w r, h.hostOpen = true → h.nextIn = some n → h.inqOf n.val = w :: r → h.outbFill + h.partLen w ≤ outbMax →
      GivesAll (.hostWriteAccept a) s (fun m =>
        m.hpd.outb = h.outb ++ [{ w with
          bytes := w.bytes.take (h.partLen w), seq := ((b.chan n).gf HPC_HWSEQ.LAST + 1) % 2 ^ 32 }] ∧
        m.hpd.lastIn = n.val ∧ (m.chan n).gf HPC_HWSEQ.LAST = ((b.chan n).gf HPC_HWSEQ.LAST + 1) % 2 ^ 32 ∧
        (w.bytes.length ≤ h.partLen w → m.hpd.inqOf n.val = r) ∧
        (h.partLen w < w.bytes.length → m.hpd.inqOf n.val =
          { w with addr := w.addr + h.partLen w, bytes := w.bytes.drop (h.partLen w) } :: r) ∧
        ∀ j, j ≠ n → m.chan j = b.chan j)) ∧
    (∀ i r data o x, h.flag HP_LINK.UP = true → h.reads[i]? = some r → data.length = r.len →
      let t := b.chan (finOf r.chan)
      t.opOf r.tid true = some o → o.cont = .toMem x → t.flaws = [] → GivesAll (.hostReadCompletion a i data) s (fun m =>
        m.hpd.reads = h.reads.eraseIdx i ∧ (m.chan (finOf r.chan)).peek x data.length = data ∧
        t.sameMemBut (m.chan (finOf r.chan)) x data.length ∧ ∀ j, j ≠ finOf r.chan → m.chan j = b.chan j)) ∧
    (h.flag HP_LINK.UP = true →
      (∀ i base size ways commit lock, h.flag HP_LINK.CXL = true → i < 4 →
        ¬ ((h.decoder i).lock = true ∧ (h.decoder i).commit = true) →
        GivesHpd (.hostConfigurationWrite a (.hdm i base size ways commit lock)) s a (fun g =>
          g.decoder i = { base := base, size := size, ways := ways, commit := commit && size == 2 ^ 36 && ways == 1, lock := lock } ∧
          (∀ j, j ≠ i → g.decoder j = h.decoder j) ∧ h.sameRegsBut g [])) ∧
      (∀ on, h.flag HP_LINK.CXL = true → GivesHpd (.hostConfigurationWrite a (.memEnable on)) s a (fun g =>
        g.cxlMem = on ∧ (on = false → ∀ j, g.winOn j = false) ∧ h.sameRegsBut g [])) ∧
      (∀ on, GivesHpd (.hostConfigurationWrite a (.bme on)) s a (fun g =>
        g.flag HP_LINK.BME = on ∧ h.sameRegsBut g [HP_LINK.off] ∧
        (on = true → ∀ v, v < 64 → bit h.pba v = true → bit h.mask v = false → bit g.pba v = false ∧ v ∈ g.sent))) ∧
      (∀ v on, v < 64 → GivesHpd (.hostConfigurationWrite a (.mask v on)) s a (fun g => bit g.mask v = on ∧ h.sameRegsBut g [])) ∧
      (∀ v x y, v < 64 → GivesHpd (.hostConfigurationWrite a (.entry v x y)) s a (fun g =>
        tget (fun _ => (0, 0)) g.msix v = (x, y) ∧ h.sameRegsBut g [])) ∧
      (∀ n, n = 128 ∨ n = 256 ∨ n = 512 → GivesHpd (.hostConfigurationWrite a (.mps n)) s a (fun g => g.mps = n ∧ h.sameRegsBut g [])))

/-- The loss of the host link, with a cause of Table 16-9 or at the end of its recovery, drops what is on its way, empties the
host queues and resets what Table 16-8 names; no host access is left outstanding, and the issuer of a read that was takes its
error: a core traps, a queue halts with HOST_UNREACHABLE. A link that comes up is recorded. (Where it rests on the model's own
choices: notes/assumptions/109.md, 110.md.) -/
def Obligations.HostLinkComesAndGoes : Prop :=
  ∀ (a : At) (s : State), (s.enter a).hpd.good = true →
    let b := s.enter a
    let h := b.hpd
    let lost (m : State) : Prop :=
      m.hpd.flag HP_LINK.UP = false ∧ m.hpd.flag HP_LINK.BME = false ∧ m.hpd.flag HP_LINK.CXL = false ∧
      m.hpd.gf HP_LINK.EPOCH = (h.gf HP_LINK.EPOCH + 1) % 2 ^ 32 ∧ m.hpd.outb = [] ∧ m.hpd.inq = [] ∧ m.hpd.reads = [] ∧
      m.hpd.hdm = [] ∧ m.hpd.mask = 2 ^ 64 - 1 ∧ m.hpd.h2d = [] ∧ m.hpd.d2h = [] ∧
      ∀ n, (m.chan n).hostUp = false ∧ (m.chan n).gf HPC_WIN.BASE = 0 ∧ (m.chan n).flag HPC_STAT.MB_H2D_BUSY = false ∧
        (m.chan n).gf HPC_CNT_DROPPED.COUNT =
          ((b.chan n).gf HPC_CNT_DROPPED.COUNT + (h.outb.filter (fun w => w.chan == n.val)).length) % 2 ^ 64 ∧
        ((b.chan n).qDepth 0x80 ≠ 0 → ((m.chan n).queue 0x80).st = .halted ∧ ((m.chan n).queue 0x80).ents = [] ∧
          ((m.chan n).queue 0x80).started = [] ∧
          (((b.chan n).queue 0x80).started = [] → ((b.chan n).queue 0x80).st ≠ .halted → (m.chan n).gf (Q_ERR.CODE 0x80) = 0x10)) ∧
        (∀ o ∈ (m.chan n).ops, o.host = false) ∧
        (∀ o, (b.chan n).ops.filter (·.host) = [o] → o.pkt.ptype ≠ pATOMIC →
          (∀ h rd k g f, o.cont = .core h rd k g f →
            ((b.chan n).core h).trapped ((m.chan n).core h) 5 (o.global % 2 ^ 64) ((b.chan n).core h).handler ∧
            ((m.chan n).core h).busy = false) ∧
          (∀ x y, o.cont = .toMem x → o.dead = false → queueId o.q = true → o.q ≠ 0x80 → ((b.chan n).queue o.q).cmd? o.cmd = some y →
            y.st = .running → ((b.chan n).queue o.q).st ≠ .halted →
            ((m.chan n).queue o.q).st = .halted ∧ (m.chan n).gf (Q_ERR.CODE o.q) = haltHOST ∧
            (m.chan n).gf (Q_ERR.OPCODE o.q) = opcodeOf y.raw))
    (h.flag HP_LINK.UP = true →
      (∀ cause, 1 ≤ cause → cause ≤ 6 → GivesAll (.hostLinkLost a cause) s lost) ∧ GivesAll (.ltssmRecoveryTimeout a) s lost) ∧
    (h.flag HP_LINK.UP = false → ∀ cxl width speed, width = 4 ∨ width = 8 ∨ width = 16 → 3 ≤ speed → speed ≤ 5 →
      GivesAll (.hostLinkUp a cxl width speed) s (fun m =>
        m.hpd.flag HP_LINK.UP = true ∧ m.hpd.flag HP_LINK.CXL = cxl ∧ m.hpd.gf HP_LINK.WIDTH = width ∧ m.hpd.gf HP_LINK.SPEED = speed ∧
        m.hpd.gf HP_VER.DECODERS = (if cxl then 4 else 0) ∧ m.hpd.gf HP_LINK.EPOCH = h.gf HP_LINK.EPOCH ∧
        ∀ n, (m.chan n).hostUp = true ∧ (b.chan n).sameMem (m.chan n)))

/-- RDMA: the states of a queue pair, the message that an RDMA command of a transfer engine posts, a READ, WRITE and SEND that its
peer asks for, and what its own messages' responses, acknowledgements, NAKs and time limits do. (Where it rests on the model's own
choices: notes/assumptions/79.md, 80.md, 81.md, 84.md.) -/
def Obligations.RdmaMessagesAct : Prop :=
  ∀ (a : At) (ag : Agent) (q psn : Nat) (s : State), q < 64 →
    let c := s.here a
    let x := c.qp q
    let free : Prop := c.enOn = true ∧ c.en.pausedTo = none ∧ c.en.held = []
    let errored (d : Chan) : Prop := d.qpState q = qpERROR ∧ (d.qp q).msgs = [] ∧ c.sameMem d
    (∀ v, s.writable a ag (EN_QP_A.off q) v →
      (c.qpState q = qpRESET → bits v 0 3 = qpINIT → GivesBy ag (EN_QP_A.off q) (.qpStateWrite a ag q v) s a (fun d =>
        d.qpState q = qpINIT ∧ d.gf (EN_QP_A.OWNER q) = bits v 3 3 ∧ d.gf (EN_QP_A.DQPN q) = bits v 8 24 ∧
        d.gf (EN_QP_A.SPORT q) = bits v 32 16 ∧ c.sameMem d ∧ c.sameRegsBut d [EN_QP_A.off q])) ∧
      (c.qpState q ≠ qpRESET →
        qpMove (c.qpState q) (bits v 0 3) = true → GivesBy ag (EN_QP_A.off q) (.qpStateWrite a ag q v) s a (fun d =>
        d.qpState q = bits v 0 3 ∧ (bits v 0 3 = qpRESET ∨ bits v 0 3 = qpERROR → (d.qp q).msgs = []) ∧ c.sameMem d)) ∧
      (c.qpState q ≠ qpRESET → qpMove (c.qpState q) (bits v 0 3) = false →
        GivesBy ag (EN_QP_A.off q) (.qpStateWrite a ag q v) s a (fun d =>
        c.logged d 0x10 0xF3 0 (det [(16, 1, q), (17, 1, c.qpState q), (18, 1, bits v 0 3)]) ∧ c.sameMem d ∧ c.sameRegsBut d [HR_LOG_STAT.off]))) ∧
    (∀ (t : Nat) (h : Head), (s.enter a).hpd.good = true → c.clean t 0x26 specRdma h → rdQP h.raw = q →
      let seg := (c.queue t).seg
      let m : EnMsg := { te := t, cmd := c.numberOf t h, op := rdOP h.raw, psn := c.gf (EN_QP_E.SPSN q), pkts := enPkts (rdLEN h.raw)
                         va := fieldOf h.raw 40 47, key := fieldOf h.raw 52 55, lcl := (rdLocal seg h.raw).getD 0
                         inl := rdInline seg h.raw, len := rdLEN h.raw, got := 0 }
      Gives (.rdma a t) s a (fun d =>
        (d.qp q).msgs = x.msgs ++ [m] ∧ d.gf (EN_QP_E.SPSN q) = (m.psn + m.pkts) % 2 ^ 24 ∧ c.sameMem d)) ∧
    (∀ va key n, s.baseLive a → free → c.qpHears q = true → c.psnTurn q psn = 0 →
      (c.mrOk key va n false = true → c.flaws = [] → Gives (.rdmaReadRequest a q psn va key n false) s a (fun d =>
        d.gf (EN_QP_E.EPSN q) = (c.gf (EN_QP_E.EPSN q) + enPkts n) % 2 ^ 24 ∧
        d.en.frames = c.en.frames ++ (List.range (enPkts n)).map (fun i =>
          c.frameOf q (.readResp ((psn + i) % 2 ^ 24) (((c.peek va n).drop (4096 * i)).take 4096))) ∧ c.sameMem d)) ∧
      (c.mrOk key va n false = false → Gives (.rdmaReadRequest a q psn va key n false) s a (fun d =>
        d.en.frames = c.en.frames ++ [c.frameOf q (.nak psn 2)] ∧ d.gf (EN_QP_E.EPSN q) = c.gf (EN_QP_E.EPSN q) ∧ c.sameMem d))) ∧
    (∀ va key data, s.baseLive a → free → c.qpHears q = true → c.psnTurn q psn = 0 →
      (c.mrOk key va data.length true = true → c.flaws = [] → Gives (.rdmaWriteRequest a q psn va key data false) s a (fun d =>
        d.peek va data.length = data ∧ c.sameMemBut d va data.length ∧
        d.gf (EN_QP_E.EPSN q) = (c.gf (EN_QP_E.EPSN q) + enPkts data.length) % 2 ^ 24 ∧
        d.gf EN_CNT_RX.BYTES = (c.gf EN_CNT_RX.BYTES + data.length) % 2 ^ 64 ∧
        d.en.frames = c.en.frames ++ [c.frameOf q (.ack ((psn + enPkts data.length - 1) % 2 ^ 24))])) ∧
      (c.mrOk key va data.length true = false → Gives (.rdmaWriteRequest a q psn va key data false) s a (fun d =>
        d.en.frames = c.en.frames ++ [c.frameOf q (.nak psn 2)] ∧ c.sameMem d))) ∧
    (∀ data, s.baseLive a → free → c.qpHears q = true → c.psnTurn q psn = 0 → data.length ≤ 4096 → c.flaws = [] →
      let dp := c.gf (EN_QP_F.DEPTH q)
      let used := (c.gf (EN_QP_G.PROD q) + 65536 - c.gf (EN_QP_G.CONS q)) % 65536
      let at_ := c.gf (EN_QP_F.RQ_ADDR q) * 64 + 4160 * (x.sends % dp)
      (dp ≠ 0 → used ≠ dp → Gives (.rdmaSend a q psn data false) s a (fun d =>
        d.peek (at_ + 64) data.length = data ∧ d.peekLe at_ 4 = data.length ∧ d.peekLe (at_ + 4) 4 = (x.sends + 1) % 2 ^ 32 ∧
        c.sameMemBut d at_ 4160 ∧ (d.qp q).sends = x.sends + 1 ∧ d.gf (EN_QP_G.PROD q) = (x.sends + 1) % 2 ^ 16 ∧
        d.gf (EN_QP_E.EPSN q) = (c.gf (EN_QP_E.EPSN q) + 1) % 2 ^ 24 ∧ d.en.frames = c.en.frames ++ [c.frameOf q (.ack (psn % 2 ^ 24))])) ∧
      (dp = 0 ∨ used = dp → Gives (.rdmaSend a q psn data false) s a (fun d =>
        d.en.frames = c.en.frames ++ [c.frameOf q (.rnr psn 1000)] ∧ d.gf (EN_QP_E.EPSN q) = c.gf (EN_QP_E.EPSN q) ∧ c.sameMem d))) ∧
    (∀ m, s.baseLive a → c.qpSends q = true → x.msgs = [m] →
      (∀ data, m.op = 0 → psn = (m.psn + m.got / 4096) % 2 ^ 24 → data ≠ [] → c.flaws = [] →
        (m.got + data.length = m.len ∨ m.got + data.length < m.len ∧ data.length % 4096 = 0) →
        Gives (.readResponse a q psn data false) s a (fun d =>
          d.peek (m.lcl + m.got) data.length = data ∧ c.sameMemBut d (m.lcl + m.got) data.length ∧
          d.gf EN_CNT_RX.BYTES = (c.gf EN_CNT_RX.BYTES + data.length) % 2 ^ 64 ∧
          (d.qp q).msgs = if m.got + data.length = m.len then [] else [{ m with got := m.got + data.length }])) ∧
      (m.op ≠ 0 → c.psnSent q psn = true → psnGe psn (m.psn + m.got) = true → Gives (.roceAck a q psn false) s a (fun d =>
        (d.qp q).msgs = (if psnGe psn (m.psn + m.pkts - 1) then [] else [{ m with got := psnOff psn m.psn + 1 }]) ∧
        (d.qp q).retries = 0 ∧ c.sameMem d ∧ c.sameRegsBut d [])) ∧
      (m.op = 0 → c.psnSent q psn = true →
        (x.retries < c.gf EN_CFG.RETRY → Gives (.roceNak a q psn 0 false) s a (fun d =>
          (d.qp q).retries = x.retries + 1 ∧ (d.qp q).msgs = [m] ∧
          d.gf EN_CNT_RETX.COUNT = (c.gf EN_CNT_RETX.COUNT + 1) % 2 ^ 64 ∧ c.sameMem d)) ∧
        (c.gf EN_CFG.RETRY ≤ x.retries → Gives (.roceNak a q psn 0 false) s a errored) ∧
        Gives (.roceNak a q psn 2 false) s a errored ∧ Gives (.roceNak a q psn 3 false) s a errored)) ∧
    (s.baseLive a → c.qpState q = qpRTS → x.msgs ≠ [] → x.since + c.gf EN_CFG.ACK_TO_US * tUs ≤ c.now →
      (x.retries < c.gf EN_CFG.RETRY → c.flaws = [] → Gives (.ackTimeout a q) s a (fun d =>
        (d.qp q).retries = x.retries + 1 ∧ (d.qp q).since = c.now ∧ (d.qp q).msgs = x.msgs ∧ c.sameMem d)) ∧
      (c.gf EN_CFG.RETRY ≤ x.retries → Gives (.ackTimeout a q) s a errored))

/-- Congestion and flow control, address resolution and the port's link. (Where it rests on the model's own choices:
notes/assumptions/73.md, 79.md, 82.md.) -/
def Obligations.EthernetPortActs : Prop :=
  ∀ (a : At) (q : Nat) (s : State), s.baseLive a →
    let c := s.here a
    let x := c.qp q
    let flushed (d : Chan) : Prop := d.en.held = [] ∧ d.en.frames = c.en.frames ++ c.en.held
    (c.enOn = true →
      (q < 64 → Gives (.cnp a q) s a (fun d =>
        d.gf EN_CNT_CNP.COUNT = (c.gf EN_CNT_CNP.COUNT + 1) % 2 ^ 64 ∧ c.sameMem d ∧ c.sameRegsBut d [EN_CNT_CNP.off] ∧
        (if (∀ t, x.fell = some t → t + 50 * tUs ≤ c.now) then
          (d.qp q).fell = some c.now ∧
          (if x.rateNum * (256 - c.gf EN_CC.MD) < c.gf EN_CC.MIN_GBPS * (x.rateDen * 256)
           then (d.qp q).rateNum = c.gf EN_CC.MIN_GBPS ∧ (d.qp q).rateDen = 1
           else (d.qp q).rateNum * (x.rateDen * 256) = x.rateNum * (256 - c.gf EN_CC.MD) * (d.qp q).rateDen)
         else d.qp q = x))) ∧
      (∀ p t, bit p (c.gf EN_CFG.PRIO) = true →
        (t ≠ 0 → Gives (.pfc a p t) s a (fun d =>
          d.flag EN_STAT.TX_PAUSED = true ∧ d.en.pausedTo.isSome = true ∧ d.en.frames = c.en.frames ∧ c.sameMem d)) ∧
        (t = 0 → Gives (.pfc a p t) s a (fun d =>
          d.flag EN_STAT.TX_PAUSED = false ∧ d.en.pausedTo = none ∧ flushed d ∧ c.sameMem d))) ∧
      (c.flag EN_STAT.RX_PAUSING = true → 0x80000 ≤ c.en.fill → c.en.xoffAt + pauseTicks Config.xoffQuanta.toNat / 2 ≤ c.now →
        Gives (.xoffRefresh a) s a (fun d =>
          d.en.frames = c.en.frames ++ [.pfc c.enMac (c.gf EN_CFG.PRIO) Config.xoffQuanta.toNat] ∧ d.en.xoffAt = c.now ∧ c.sameMem d)) ∧
      (∀ t, c.en.pausedTo = some t → t ≤ c.now → Gives (.pauseExpiry a) s a (fun d =>
        d.flag EN_STAT.TX_PAUSED = false ∧ d.en.pausedTo = none ∧ flushed d ∧ c.sameMem d)) ∧
      (∀ mac sip tip, c.flag EN_CFG.IPV6 = false →
        (tip = c.rd EN_IP0.off % 2 ^ 32 → Gives (.arpRequest a mac sip tip) s a (fun d =>
          d.en.frames = c.en.frames ++ [.arpReply (c.ethTo mac) (c.rd EN_IP0.off % 2 ^ 32) sip] ∧ c.sameMem d)) ∧
        (tip ≠ c.rd EN_IP0.off % 2 ^ 32 → Gives (.arpRequest a mac sip tip) s a (fun d =>
          d.en.frames = c.en.frames ∧ d.gf EN_CNT_DISCARD.COUNT = (c.gf EN_CNT_DISCARD.COUNT + 1) % 2 ^ 64 ∧ c.sameMem d))) ∧
      (∀ mac sip tip, c.flag EN_CFG.IPV6 = true → tip = c.rd EN_IP0.off + c.rd EN_IP1.off * 2 ^ 64 →
        Gives (.neighborSolicitation a mac sip tip) s a (fun d =>
          d.en.frames = c.en.frames ++ [.ndAdvert (c.ethTo mac) tip sip] ∧ c.sameMem d)) ∧
      Gives (.discardedFrame a) s a (fun d =>
        d.gf EN_CNT_DISCARD.COUNT = (c.gf EN_CNT_DISCARD.COUNT + 1) % 2 ^ 64 ∧ c.sameMem d ∧ c.sameRegsBut d [EN_CNT_DISCARD.off]) ∧
      Gives (.enLinkDown a) s a (fun d =>
        d.flag EN_STAT.UP = false ∧ d.flag EN_STAT.TX_PAUSED = false ∧ d.en.pausedTo = none ∧ c.logged d 0x10 0xF1 2 0 ∧ c.sameMem d)) ∧
    (q < 64 → c.qpState q = qpRTS → x.changed + c.gf EN_CC.INC_US * tUs ≤ c.now → Gives (.rateIncrease a q) s a (fun d =>
      (d.qp q).changed = x.changed + c.gf EN_CC.INC_US * tUs ∧ c.sameMem d ∧ c.sameRegsBut d [] ∧
      (if 400 * x.rateDen ≤ x.rateNum + c.gf EN_CC.AI_GBPS * x.rateDen then (d.qp q).rateNum = 400 ∧ (d.qp q).rateDen = 1
       else (d.qp q).rateNum * x.rateDen = (x.rateNum + c.gf EN_CC.AI_GBPS * x.rateDen) * (d.qp q).rateDen))) ∧
    (c.flag EN_CFG.EN = true → c.flag EN_STAT.UP = false → Gives (.enLinkUp a) s a (fun d =>
      d.flag EN_STAT.UP = true ∧ c.logged d 0x10 0xF0 0 0 ∧ (c.en.pausedTo = none → flushed d) ∧ c.sameMem d))

/-! ### The die link, clocks, temperature and power -/

/-- The UCIe link: a training begins with CAP, the maps and the selection must agree, three failed exchanges lead to the safe
width, and the link comes up or goes DOWN. (Where it rests on the model's own choices: notes/assumptions/71.md, 72.md, 107.md,
108.md.) -/
def Obligations.DieLinkTrains : Prop :=
  ∀ (a : At) (ag : Agent) (s : State),
    let c := s.here a
    let training (d : Chan) : Prop :=
      d.gf UC_STAT.STATE = 1 ∧ d.gf UC_STAT.WIDTH = 0 ∧ d.gf UC_STAT.FAILS = 0 ∧ d.uc.step = 1 ∧
      d.gf UC_CNT_RETRAIN.COUNT = (c.gf UC_CNT_RETRAIN.COUNT + 1) % 2 ^ 64 ∧ c.sameMem d
    let failed (d : Chan) : Prop :=
      d.gf UC_STAT.FAILS = c.gf UC_STAT.FAILS + 1 ∧ d.uc.step = (if c.gf UC_STAT.FAILS + 1 < 3 then 4 else 7) ∧ c.sameMem d
    let down (d : Chan) : Prop :=
      d.gf UC_STAT.STATE = 0 ∧ d.gf UC_STAT.WIDTH = 0 ∧ d.uc.step = 0 ∧ (c.inP1 = true → d.gf HR_CSTATE.FAULT = 1) ∧ c.sameMem d
    (s.writable a ag UC_CTL.off 1 → GivesBy ag UC_CTL.off (.ucRetrain a ag) s a training) ∧
    (s.homeLive a →
      (c.ucUp = true → Gives (.ucRetryLimit a) s a (fun d =>
        training d ∧ d.gf UC_CNT_RETRY.COUNT = (c.gf UC_CNT_RETRY.COUNT + 16) % 2 ^ 64)) ∧
      (∀ ver gen rate, c.uc.step = 1 →
        let bad := c.uc.bad ||| (2 ^ 68 - 1 - c.uc.tested % 2 ^ 68)
        (gen = 2 ∨ gen = 3 → Gives (.ucCap a ver gen rate) s a (fun d =>
          d.gf UC_VER.PEER_VER = ver % 2 ^ 8 ∧ d.gf UC_VER.PEER_GEN = gen ∧ d.uc.bad = bad ∧
          d.gf UC_MAP_LOCAL.GOOD = (2 ^ 68 - 1 - bad) % 2 ^ 64 ∧ d.uc.step = 4 ∧ c.sameMem d)) ∧
        (gen ≠ 2 → gen ≠ 3 → Gives (.ucCap a ver gen rate) s a down)) ∧
      (∀ map, c.uc.step = 4 → c.gf UC_STAT.FAILS < 3 →
        let bad := tget (fun _ => 0) (s.enter a).hpd.bad a.chan.val ||| (2 ^ 68 - 1 - map % 2 ^ 68)
        let peer := 2 ^ 68 - 1 - bad
        let g := c.ucMapOwn &&& (peer % 2 ^ 68)
        GivesAll (.ucMap a map) s (fun m =>
          let d := m.chan a.chan
          tget (fun _ => 0) m.hpd.bad a.chan.val = bad ∧ d.gf UC_MAP_PEER.GOOD = peer % 2 ^ 64 ∧
          ((ucWidth g c.ucRed).isSome = true → d.uc.step = 5 ∧ d.gf UC_STAT.FAILS = c.gf UC_STAT.FAILS ∧ c.sameMem d) ∧
          ((ucWidth g c.ucRed).isSome = false → failed d) ∧ ∀ n, n ≠ a.chan → m.chan n = (s.enter a).chan n)) ∧
      (∀ width part chk, c.uc.step = 5 → c.gf UC_STAT.FAILS < 3 →
        let agree : Prop := ucWidth c.ucG c.ucRed = some (width, part) ∧ chk = (Config.mapCheck c.ucG).toNat
        (agree → Gives (.ucSel a width part chk) s a (fun d => d.uc.step = 6 ∧ c.sameMem d ∧ c.sameRegsBut d [])) ∧
        (¬ agree → Gives (.ucSel a width part chk) s a failed)) ∧
      (c.uc.step = 4 ∨ c.uc.step = 5 → c.uc.since + tMs ≤ c.now → c.gf UC_STAT.FAILS < 3 →
        Gives (.ucExchangeTimeout a) s a failed) ∧
      (c.uc.step = 6 → c.gf UC_STAT.FAILS < 3 → Gives (.ucTrainingFailed a) s a failed) ∧
      (∀ w q, c.uc.step = 6 → ucWidth c.ucG c.ucRed = some (w, q) → Gives (.ucLinkUp a) s a (fun d =>
        d.gf UC_STAT.STATE = 2 ∧ d.gf UC_STAT.WIDTH = w ∧ d.gf UC_STAT.PART = q ∧ d.gf UC_STAT.RATE = b2n c.uc.fast ∧
        d.gf UC_STAT.FAILS = 0 ∧ d.uc.step = 0 ∧ c.sameMem d)) ∧
      (c.uc.step = 7 → Gives (.ucLinkUp a) s a (fun d =>
        d.gf UC_STAT.STATE = 3 ∧ d.gf UC_STAT.WIDTH = 1 ∧ d.gf UC_STAT.RATE = 0 ∧ d.uc.step = 0 ∧ c.sameMem d)) ∧
      (c.uc.step = 7 → c.uc.since + 10 * tMs ≤ c.now → Gives (.ucLinkDown a) s a down))

/-- A lost clock fences the channel until the reference returns; the sensors, the control step of each millisecond and the
environment's bands set the throttle. (Where it rests on the model's own choices: notes/assumptions/69.md, 70.md, 72.md.) -/
def Obligations.ClocksAndSensorsAct : Prop :=
  ∀ (a : At) (s : State), s.homeLive a →
    let c := s.here a
    let mayFence : Prop := c.cstate ≠ csFENCED ∧ c.cstate ≠ csBYPASS
    (∀ root, Gives (.clockFault a root) s a (fun d =>
      d.refLost = true ∧ d.gf CH_CLK_STAT.ROOT_LOCK = 0 ∧ (root = false → d.gf CH_CLK_STAT.REF_LOST = 1) ∧
      (c.computeOn = true → mayFence → d.cstate = csFENCED) ∧ (∀ p, p < 6 → d.linkState p = linkDOWN) ∧
      (c.flag CH_SEAT.SEATED = false → d.tc0 = c.tc0) ∧ c.sameMem d)) ∧
    (c.refLost = true → Gives (.refReturn a) s a (fun d =>
      d.refLost = false ∧ d.gf CH_CLK_STAT.ROOT_LOCK = 1 ∧
      (∀ p, p < 6 → d.linkState p = if c.mayTrain p then linkTRAINING else c.linkState p) ∧ c.sameMem d)) ∧
    (c.sampTick ≠ c.localTick / (100 * tUs) + 1 → ∀ t, let v (n : Nat) : Option Int := (t[n]?).getD none
      Gives (.thermSample a t) s a (fun d =>
        (∀ n, n < 26 → d.tempValid n = tempOk (v n) ∧ (∀ x, v n = some x → d.gf (HR_TEMP.T n) = ofSigned 16 x) ∧
          (tempOk (v n) = false → d.flag HR_THERM.SENS_FAULT = true)) ∧
        (((List.range 16).filter (fun n => tempOk (v n))).length < 8 → d.gf HR_THERM.T_BASE = 105 * 16) ∧
        (8 ≤ ((List.range 16).filter (fun n => tempOk (v n))).length →
          (∃ n, n < 16 ∧ tempOk (v n) = true ∧ d.gf HR_THERM.T_BASE = d.gf (HR_TEMP.T n)) ∧
          ∀ n, n < 16 → tempOk (v n) = true → d.temp n ≤ toSigned 16 (d.gf HR_THERM.T_BASE)) ∧
        d.gf HR_THERM.DUTY = c.gf HR_THERM.DUTY ∧ c.sameMem d)) ∧
    (c.thermTick ≠ c.localTick / tMs + 1 →
      (c.tooHot = none → Gives (.thermStep a) s a (fun d =>
        let t := toSigned 16 (c.gf HR_THERM.T_BASE)
        let hold : Prop := (c.flag HR_THERM.HOLD = true ∧ 103 * 16 ≤ t) ∨ 105 * 16 ≤ t
        (d.flag HR_THERM.HOLD = true ↔ hold) ∧
        (hold → d.gf HR_THERM.DUTY = min 1 (c.gf HR_THERM.ENV_CAP)) ∧
        (¬ hold → t < 93 * 16 → d.gf HR_THERM.DUTY = min (c.gf HR_THERM.DUTY + 1) (c.gf HR_THERM.ENV_CAP)) ∧
        (¬ hold → 93 * 16 ≤ t → t < 95 * 16 → d.gf HR_THERM.DUTY = min (c.gf HR_THERM.DUTY) (c.gf HR_THERM.ENV_CAP)) ∧
        (¬ hold → 95 * 16 ≤ t → d.gf HR_THERM.DUTY = min (max 1 (c.gf HR_THERM.DUTY - 1)) (c.gf HR_THERM.ENV_CAP)) ∧ c.sameMem d)) ∧
      (c.tooHot.isSome = true → mayFence → Gives (.thermStep a) s a (fun d => d.cstate = csFENCED ∧ c.sameMem d)) ∧
      (c.tooHot.isSome = true → c.cstate = csBYPASS → Gives (.thermStep a) s a (fun d => d.noCompute = true ∧ c.sameMem d))) ∧
    (c.envTick ≠ c.localTick / (10 * tMs) + 1 → ∀ vin iin tin flow, Gives (.envSample a vin iin tin flow) s a (fun d =>
      (∀ v, vin = some v → d.gf HR_ENV.VIN = v % 2 ^ 16) ∧ (∀ v, tin = some v → d.gf HR_ENV.T_IN = ofSigned 16 v) ∧
      (∀ v, flow = some v → d.gf HR_ENV.FLOW = v % 2 ^ 16) ∧ (∀ v, iin = some v → d.gf HR_ENV.IIN = v % 2 ^ 16) ∧
      (iin = none → d.flag HR_THERM.SENS_FAULT = true) ∧
      (∀ k, k < 3 →
        let r : Option Int := if k = 0 then vin.map (fun n => (n : Int)) else if k = 1 then tin else flow.map (fun n => (n : Int))
        let b := envBand c.envBounds k r
        let x := tget (fun _ => {}) c.bands k
        let cur := c.gf (bandFld k)
        let change : Prop := (cur < b ∧ 3 ≤ (if x.seen = b then x.run + 1 else 1)) ∨ (b < cur ∧ 100 ≤ x.better + 1)
        (change → d.gf (bandFld k) = b ∧
          d.gf HR_THERM.ENV_CAP = (if (List.range 3).any (fun j => decide (2 ≤ d.gf (bandFld j))) then 8 else 16) ∧
          (b = 3 → mayFence → d.cstate = csFENCED ∨ d.cstate = csBYPASS)) ∧
        (¬ change → d.gf (bandFld k) = cur)) ∧ c.sameMem d))

/-- Module power comes and goes with MOD_PWRGD and the converters, the syllabus is verified at the end of P0, and one channel may
lose its supply. (Where it rests on the model's own choices: notes/assumptions/91.md, 105.md.) -/
def Obligations.PowerComesAndGoes : Prop :=
  ∀ (a : At) (s : State),
    let b := s.enter a
    let h := b.hpd
    let dead (m : State) : Prop := m.hpd.good = false ∧ m.hpd.nvCount = h.nvCount + 1 ∧ m.hpd.gf MG_STAT.CH_POWER = 0 ∧
      ∀ n, (m.chan n).gf HR_PSTATE.CUR = 4 ∧ (m.chan n).mem = []
    (∀ test, h.good = false → h.conv = true → GivesAll (.powerGood a test) s (fun m =>
      m.hpd.good = true ∧ m.hpd.gf SEC_STAT.STATE = (if test = 0 then secOPERATIONAL else secERROR) ∧
      m.hpd.gf MG_STAT.PON_CNT = (h.gf MG_STAT.PON_CNT + 1) % 2 ^ 32 ∧ m.hpd.rd SEC_FUSE.off = h.rd SEC_FUSE.off ∧
      m.hpd.flash = h.flash ∧ m.hpd.keys = h.keys ∧ m.hpd.keyFuses = h.keyFuses ∧
      ∀ n, (m.chan n).cstate = csBOOT ∧ (m.chan n).phase = 0 ∧ (m.chan n).gf UC_STAT.STATE = 1 ∧ (m.chan n).mem = [])) ∧
    (h.good = true → h.p0 = false → h.gf SEC_STAT.STATE = secOPERATIONAL →
      let booted (k : Nat) (m : State) : Prop :=
        m.hpd.gf SYL_STAT.BOOT_COPY = k ∧ m.hpd.header = some (h.copyHeader k) ∧ m.hpd.p0 = true ∧
        ∀ n, (b.chan n).cstate = csBOOT → (b.chan n).phase = 0 → (m.chan n).phase = 1 ∧ ((b.chan n).gf UC_STAT.STATE = 0 → (m.chan n).gf HR_CSTATE.FAULT = 1)
      GivesAll (.syllabusVerified a) s (fun m =>
        (h.copyCode 0 true = 0 → m.hpd.gf SYL_STAT.A_CODE = 0 ∧ m.hpd.gf SYL_STAT.B_CODE = 0xFF ∧ booted 0 m) ∧
        (h.copyCode 0 true ≠ 0 → h.copyCode 1 true = 0 →
          m.hpd.gf SYL_STAT.A_CODE = h.copyCode 0 true ∧ m.hpd.gf SYL_STAT.B_CODE = 0 ∧ booted 1 m) ∧
        (h.copyCode 0 true ≠ 0 → h.copyCode 1 true ≠ 0 →
          m.hpd.gf SYL_STAT.A_CODE = h.copyCode 0 true ∧ m.hpd.gf SYL_STAT.B_CODE = h.copyCode 1 true ∧ m.hpd.header = h.header ∧
          (h.header = none → ∀ n, m.chan n = b.chan n)))) ∧
    (h.good = true → GivesAll (.pwrgdFall a) s dead) ∧
    (∀ us, h.good = true → us < 1000 → GivesHpd (.pwrgdGlitch a us) s a (fun g =>
      h.sameRegsBut g [MG_LOG_STAT.off] ∧ g.good = true ∧
      ((tget (fun _ => (0, 0)) h.rate 1).1 ≠ h.localSec ∨ (tget (fun _ => (0, 0)) h.rate 1).2 < 100 →
        g.gf MG_LOG_STAT.WCNT = (h.gf MG_LOG_STAT.WCNT + 1) % 2 ^ 32))) ∧
    (∀ cause, h.conv = true → 1 ≤ cause → cause ≤ 3 → GivesAll (.converterOff a cause) s (fun m =>
      m.hpd.conv = false ∧ m.hpd.good = false ∧ (h.good = true → dead m))) ∧
    GivesHpd (.converterOn a) s a (fun g => g.conv = true ∧ g.good = h.good ∧ h.sameRegsBut g []) ∧
    (h.good = true → (s.here a).gf HR_PSTATE.CUR ≠ 4 → Gives (.channelPowerLost a) s a (fun d =>
      d.gf HR_PSTATE.CUR = 4 ∧ d.mem = [] ∧ d.out = (s.here a).out ++ [.power false]))

/-! ### The flash and the security module -/

/-- SYL_CMD starts an operation of the flash or is refused with a code, and the operation's end has its effect and its code.
(Where it rests on the model's own choices: notes/assumptions/88.md, 87.md.) -/
def Obligations.FlashOperationsAct : Prop :=
  ∀ (a : At) (ag : Agent) (v : Nat) (s : State),
    let h := (s.enter a).hpd
    let starts (op : Nat) (i : Instr) : Prop :=
      let w := setBits v 0 3 op
      s.writableHpd a ag SYL_CMD.off w → h.flag SYL_STAT.BUSY = false →
        (h.sylRefusal ag w = 0 → GivesHpdBy ag SYL_CMD.off i s a (fun g =>
          g.flag SYL_STAT.BUSY = true ∧
          g.sylOp = some { op := op, copy := scCOPY w, addr := scADDR w, len := scLEN w, began := h.now } ∧
          g.flash = h.flash ∧ h.sameRegsBut g [SYL_STAT.off])) ∧
        (h.sylRefusal ag w ≠ 0 → GivesHpdBy ag SYL_CMD.off i s a (fun g =>
          g.gf SYL_STAT.LAST_CODE = h.sylRefusal ag w ∧ g.flag SYL_STAT.BUSY = false ∧ g.sylOp = h.sylOp ∧ g.flash = h.flash))
    starts 1 (.erase a ag v) ∧ starts 2 (.program a ag v) ∧ starts 3 (.flashRead a ag v) ∧ starts 4 (.verify a ag v) ∧
    (∀ o, h.good = true → h.sylOp = some o →
      let ended (code : Nat) (g : Hpd) : Prop := g.flag SYL_STAT.BUSY = false ∧ g.sylOp = none ∧ g.gf SYL_STAT.LAST_CODE = code
      (o.op = 1 → GivesHpd (.flashOpDone a true) s a (fun g => ended 0 g ∧
        ∀ x, g.flashByte x = if o.addr ≤ x ∧ x < o.addr + 65536 then 0xFF else h.flashByte x)) ∧
      (o.op = 2 → (∀ i, i < o.len → h.flashByte (o.addr + i) = 0xFF) → GivesHpd (.flashOpDone a true) s a (fun g => ended 0 g ∧
        (∀ i, i < o.len → g.flashByte (o.addr + i) = tget bufDefault h.sylBuf i) ∧
        ∀ x, x < o.addr ∨ o.addr + o.len ≤ x → g.flashByte x = h.flashByte x)) ∧
      (o.op = 2 → (∃ i, i < o.len ∧ h.flashByte (o.addr + i) ≠ 0xFF) → GivesHpd (.flashOpDone a true) s a (fun g => ended 4 g ∧
        g.flash = h.flash)) ∧
      (o.op = 3 → GivesHpd (.flashOpDone a true) s a (fun g => ended 0 g ∧ g.flash = h.flash ∧
        ∀ i, i < o.len → tget bufDefault g.sylBuf i = h.flashByte (o.addr + i))) ∧
      (1 ≤ o.op → o.op ≤ 3 → GivesHpd (.flashOpDone a false) s a (fun g => ended 4 g ∧ g.flash = h.flash ∧ g.sylBuf = h.sylBuf)) ∧
      (o.op = 4 → GivesHpd (.flashOpDone a true) s a (fun g => ended (h.copyCode o.copy true) g ∧ g.flash = h.flash)))

/-- SEC_CTL starts an operation of the security module, whose end leaves its code and has its effect: nonces, attestation,
certificate, tokens for debug, enrolment and revocation, zeroising, which erases the seeds, and the self-test. While the module
has failed its tests every operation but zeroising ends with code 8; zeroising does not end that. (Where it rests on the model's
own choices: notes/assumptions/83.md, 86.md, 87.md, 89.md.) -/
def Obligations.SecurityOperationsAct : Prop :=
  ∀ (a : At) (ag : Agent) (s : State),
    let h := (s.enter a).hpd
    let starts (op v : Nat) (i : Instr) : Prop :=
      s.writableHpd a ag SEC_CTL.off v → h.flag SEC_STAT.BUSY = false →
        (¬ (ag = .host ∧ secPolicy op = true ∧ h.may 7 = false) → h.inError = false ∨ op = 7 →
          GivesHpdBy ag SEC_CTL.off i s a (fun g =>
            g.flag SEC_STAT.BUSY = true ∧ g.secOp = some op ∧ h.sameRegsBut g [SEC_STAT.off])) ∧
        (¬ (ag = .host ∧ secPolicy op = true ∧ h.may 7 = false) → h.inError = true → op ≠ 7 → GivesHpdBy ag SEC_CTL.off i s a (fun g =>
          g.gf SEC_RESULT.CODE = 8 ∧ g.gf SEC_RESULT.OP = op ∧ g.flag SEC_STAT.BUSY = false ∧ g.secOp = none)) ∧
        (ag = .host → secPolicy op = true → h.may 7 = false → GivesHpdBy ag SEC_CTL.off i s a (fun g =>
          g.gf SEC_RESULT.CODE = 9 ∧ g.gf SEC_RESULT.OP = op ∧ g.flag SEC_STAT.BUSY = false ∧ g.secOp = none))
    starts 1 1 (.nonce a ag) ∧ starts 2 2 (.attest a ag) ∧ starts 3 3 (.cert a ag) ∧ starts 4 4 (.unlock a ag) ∧
    starts 5 5 (.enrol a ag) ∧ starts 6 6 (.revoke a ag) ∧ starts 7 (7 + 0x5A * 256) (.zeroise a ag 0x5A) ∧ starts 8 8 (.selftest a ag) ∧
    (h.good = true →
      GivesHpd (.entropyHealthFailure a) s a (fun g => g.gf SEC_STAT.STATE = secERROR ∧ g.inError = true ∧ g.flash = h.flash)) ∧
    (∀ op, h.good = true → h.secOp = some op →
      let ended (code : Nat) (g : Hpd) : Prop :=
        g.flag SEC_STAT.BUSY = false ∧ g.secOp = none ∧ g.gf SEC_RESULT.CODE = code ∧ g.gf SEC_RESULT.OP = op % 16
      (h.inError = true → op ≠ 7 → ∀ ok, GivesHpd (.secOpDone a ok) s a (ended 8)) ∧
      (op = 7 → GivesHpd (.secOpDone a true) s a (fun g =>
        ended 0 g ∧ g.seeds = none ∧ g.flag SEC_STAT.NO_KEY = true ∧ g.gf SEC_STAT.STATE = secZEROISED ∧ g.secFailed = h.secFailed)) ∧
      (h.inError = false →
        (op = 1 → GivesHpd (.secOpDone a true) s a (fun g => ended 0 g ∧ g.nonce = true ∧
          ∀ i, i < 4 → g.rd (SEC_NONCE.off i) = (Config.nonce h.fresh).toNat / 2 ^ (64 * i) % 2 ^ 64)) ∧
        (op = 2 →
          (h.noKey = true → GivesHpd (.secOpDone a true) s a (fun g => ended 7 g ∧ g.gf SEC_IDX.NEXT = h.gf SEC_IDX.NEXT)) ∧
          (h.noKey = false → h.gf SEC_IDX.NEXT < 4096 * 1024 → GivesHpd (.secOpDone a true) s a (fun g =>
            ended 0 g ∧ g.gf SEC_RESULT.LEN = 10149 ∧ g.gf SEC_IDX.NEXT = h.gf SEC_IDX.NEXT + 1 ∧
            (h.gf SEC_IDX.NEXT % 1024 = 0 → g.gf SEC_FUSE.IDX_BLOCKS = max (h.gf SEC_IDX.NEXT / 1024 + 1) (h.gf SEC_FUSE.IDX_BLOCKS))))) ∧
        (op = 3 → GivesHpd (.secOpDone a true) s a (fun g => ended 0 g ∧ g.gf SEC_RESULT.LEN = 2948 ∧
          peekBuf g.secBuf 0 2948 = h.certBody ++ slot0Sign h.certBody)) ∧
        (op = 4 →
          let t := peekBuf h.secBuf 0 64
          let ok : Prop := leAt t 0 4 = 0x4B4E4C55 ∧ ofLe ((t.drop 45).take 19) = 0 ∧ leAt t 44 1 ≤ 3 ∧ leAt t 4 8 = h.rd SEC_SERIAL.off ∧
            h.nonce = true ∧ (t.drop 12).take 32 = h.nonceBytes ∧ xmssVerify nolerdaKey t (peekBuf h.secBuf 64 2820) = true
          GivesHpd (.secOpDone a true) s a (fun g =>
            (ok → ended 0 g ∧ g.nonce = false ∧ g.gf SEC_STAT.DEBUG = h.gf SEC_STAT.DEBUG ||| leAt t 44 1) ∧
            (¬ ok → g.gf SEC_RESULT.CODE ≠ 0 ∧ g.nonce = false ∧ g.gf SEC_STAT.DEBUG = h.gf SEC_STAT.DEBUG))) ∧
        (op = 5 →
          let t := peekBuf h.secBuf 0 84
          let k := leAt t 12 1
          let ok : Prop := leAt t 0 4 = 0x4C524E45 ∧ 1 ≤ k ∧ k ≤ 4 ∧ leAt t 13 3 = 0 ∧ leAt t 4 8 = h.rd SEC_SERIAL.off ∧
            h.enrolled k = false ∧ xmssVerify nolerdaKey t (peekBuf h.secBuf 84 2820) = true
          GivesHpd (.secOpDone a true) s a (fun g =>
            (ok → ended 0 g ∧ g.enrolled k = true ∧ tget (fun _ => []) g.keys k = (t.drop 16).take 68 ∧
              tget (fun _ => []) g.keyFuses k = keyDigest ((t.drop 16).take 68)) ∧
            (¬ ok → g.gf SEC_RESULT.CODE ≠ 0 ∧ g.gf SEC_FUSE.ENROLLED = h.gf SEC_FUSE.ENROLLED ∧ g.keys = h.keys))) ∧
        (op = 6 →
          let t := peekBuf h.secBuf 0 64
          let sig := peekBuf h.secBuf 64 2820
          let k := leAt t 12 1
          let ok : Prop := leAt t 0 4 = 0x4B564552 ∧ 1 ≤ k ∧ k ≤ 4 ∧ ofLe ((t.drop 44).take 20) = 0 ∧ leAt t 4 8 = h.rd SEC_SERIAL.off ∧
            h.nonce = true ∧ (t.drop 13).take 31 = h.nonceBytes.take 31 ∧
            (xmssVerify nolerdaKey t sig = true ∨ h.enrolled k = true ∧ xmssVerify (h.slotKey k) t sig = true)
          GivesHpd (.secOpDone a true) s a (fun g =>
            (ok → ended 0 g ∧ g.revoked k = true ∧ g.nonce = false) ∧
            (¬ ok → g.gf SEC_RESULT.CODE ≠ 0 ∧ g.gf SEC_FUSE.REVOKED = h.gf SEC_FUSE.REVOKED))) ∧
        (op = 8 → GivesHpd (.secOpDone a true) s a (ended 0) ∧
          GivesHpd (.secOpDone a false) s a (fun g => ended 8 g ∧ g.gf SEC_STAT.STATE = secERROR))))

/-! ### The monitor and telemetry -/

/-- A request of the management UART is carried out where the policy and the target's state allow it and answered; a host's
request in a mailbox does the same under the host's own permissions and is answered there. A write that is not permitted is
recorded, on whatever path it comes. (Where it rests on the model's own choices: notes/assumptions/92.md, 101.md, 104.md.) -/
def Obligations.MonitorRequestsAreAnswered : Prop :=
  ∀ (a : At) (s : State), (s.enter a).hpd.good = true →
    let b := s.enter a
    let h := b.hpd
    let c := s.here a
    let lines (l : List (List Byte)) (m : State) : Prop := m.hpd.uart = h.uart ++ l
    let only (l : List (List Byte)) (m : State) : Prop := lines l m ∧ m.ch = b.ch ∧ h.sameRegsBut m.hpd []
    let ok (l : List (List Byte)) : List (List Byte) := ascii "OK" :: l
    let okWith (l : List Byte) : List (List Byte) := [ascii "OK" ++ (ascii " " ++ l)]
    let err (k : Nat) : List (List Byte) := (MonAns.err k).lines
    let refused (m : State) : Prop := lines (err 2) m ∧ m.ch = b.ch ∧ m.hpd.gf MG_LOG_STAT.WCNT = (h.gf MG_LOG_STAT.WCNT + 1) % 2 ^ 32
    GivesAll (.monId a .uart) s (only (ok (([h.regRead SEC_SERIAL.off, (b.chan 0).gf CH_ID.STEPPING, h.regRead SYL_HDR.off] ++
      (List.range 4).map (fun n => if b.monFar n then 0 else (b.chan (finOf n)).regRead SVC_STAT.off % 2 ^ 32)).map (hexText 4)))) ∧
    GivesAll (.monSens a .uart) s (only (ok (sensorIds.map (fun id =>
      hexText 1 id ++ ascii " " ++ hexText 2 (b.sensor id).1 ++ ascii (if (b.sensor id).2 then " 1" else " 0"))))) ∧
    GivesAll (.monPwr a .uart) s (only (ok ((List.range 4).map (fun n =>
      ascii "c" ++ [hexDigit n] ++ ascii (if bit (h.gf MG_STAT.CH_POWER) n then " ON" else " OFF"))))) ∧
    (∀ t off, t ≤ 4 →
      (monAligned t off = false → GivesAll (.monRd a .uart t off) s (only (err 4))) ∧
      (monAligned t off = true → b.monFar t = true → GivesAll (.monRd a .uart t off) s (only (err 3))) ∧
      (monAligned t off = true → b.monFar t = false → GivesAll (.monRd a .uart t off) s
        (only (okWith (hexText 4 (if t < 4 then (b.chan (finOf t)).regRead off else b.bar0Read off)))))) ∧
    (∀ t off v, t ≤ 4 →
      (h.monMay t off v = false → GivesAll (.monWr a .uart t off v) s refused) ∧
      (h.monMay t off v = true → monAligned t off = false → GivesAll (.monWr a .uart t off v) s (only (err 4))) ∧
      (h.monMay t off v = true → monAligned t off = true → b.monFar t = true → GivesAll (.monWr a .uart t off v) s (only (err 3))) ∧
      (h.monMay t off v = true → monAligned t off = true → b.monFar t = false → t < 4 → GivesAll (.monWr a .uart t off v) s (fun m =>
        lines (ok []) m ∧ m.chan (finOf t) = (b.chan (finOf t)).regBy .monitor off v ∧
        (∀ n, n ≠ finOf t → m.chan n = b.chan n) ∧ m.hpd.gf MG_LOG_STAT.WCNT = (h.gf MG_LOG_STAT.WCNT + 1) % 2 ^ 32))) ∧
    (∀ t i n, t ≤ 5 → 1 ≤ n → n ≤ 64 → i < 2 ^ 32 →
      (b.monFar t = true → GivesAll (.monLog a .uart t i n) s (only (err 3))) ∧
      (b.monFar t = false → GivesAll (.monLog a .uart t i n) s (only (ok ((b.records t i n).map (fun r =>
        match r with | some e => hexBytes e.bytes | none => ascii "NONE")))))) ∧
    (∀ r, r ≤ 5 → GivesAll (.monBaud a .uart r) s (fun m =>
      lines (ok []) m ∧ m.hpd.gf MG_STAT.BAUD = r ∧ m.ch = b.ch ∧ h.sameRegsBut m.hpd [MG_STAT.off])) ∧
    (∀ t, t < 4 →
      let d := b.chan (finOf t)
      (d.gf HR_PSTATE.CUR = 4 → GivesAll (.monPwrOn a .uart t) s (fun m =>
        let e := m.chan (finOf t)
        lines (ok []) m ∧ e.gf HR_PSTATE.CUR = 0 ∧ e.cstate = csBOOT ∧ e.phase = 1 ∧ e.gf UC_STAT.STATE = 1 ∧ e.mem = [] ∧
        bit (m.hpd.gf MG_STAT.CH_POWER) t = true)) ∧
      (d.gf HR_PSTATE.CUR ≠ 4 → GivesAll (.monPwrOn a .uart t) s (only (err 5))) ∧
      (h.may 4 = false → GivesAll (.monPwrOff a .uart t) s refused) ∧
      (h.may 4 = true → b.monFar t = true → GivesAll (.monPwrOff a .uart t) s (only (err 3))) ∧
      (h.may 4 = true → b.monFar t = false → d.homeOn = true → d.ptrans = none → d.cstate ≠ csSERVICE →
        GivesAll (.monPwrOff a .uart t) s (fun m => lines (ok []) m ∧ (m.chan (finOf t)).flag HR_PSTATE.BUSY = true ∧
          ∃ x, (m.chan (finOf t)).ptrans = some x ∧ x.exit = false ∧ x.new = 4)) ∧
      (bit (h.gf SEC_STAT.DEBUG) 0 = false →
        GivesAll (.svcHalt a .uart t) s refused ∧ GivesAll (.svcRun a .uart t) s refused ∧ ∀ n, n ≤ 32 → GivesAll (.svcReg a .uart t n) s refused) ∧
      (bit (h.gf SEC_STAT.DEBUG) 0 = true → b.monFar t = false →
        GivesAll (.svcHalt a .uart t) s (fun m => lines (ok []) m ∧ ((m.chan (finOf t)).core 4).held = true ∧ d.sameMem (m.chan (finOf t))) ∧
        GivesAll (.svcRun a .uart t) s (fun m => lines (ok []) m ∧ ((m.chan (finOf t)).core 4).held = false ∧ d.sameMem (m.chan (finOf t))) ∧
        ∀ n, n ≤ 32 → GivesAll (.svcReg a .uart t n) s
          (only (okWith (hexText 4 (if n = 32 then (d.core 4).pc.toNat else (d.core 4).xr n)))))) ∧
    (∀ off v, off < 0x10000000 → h.monMay a.chan off v = false → GivesAll (.registerWrite a .monitor off v) s (fun m =>
      m.ch = b.ch ∧ m.hpd.gf MG_LOG_STAT.WCNT = (h.gf MG_LOG_STAT.WCNT + 1) % 2 ^ 32)) ∧
    GivesAll (.monitorSyntax a .uart false) s (only (err 1)) ∧
    GivesAll (.monitorSyntax a .uart true) s (fun m =>
      lines (err 6) m ∧ m.hpd.gf MG_CNT_UART.COUNT = (h.gf MG_CNT_UART.COUNT + 1) % 2 ^ MG_CNT_UART.COUNT.w) ∧
    (∀ l, b.mailLine a.chan = some l →
      let mailed (l : List (List Byte)) (d : Chan) : Prop :=
        d.flag HPC_STAT.MB_H2D_BUSY = false ∧ c.sameMem d ∧
        d.mbOut = c.mbOut ++ [(leBytes 2 0x0202 ++ leBytes 6 0 ++ (l.map (· ++ [13, 10])).flatten).take 4096]
      (parseLine l = none → Gives (.monReq a) s a (mailed (err 1)) ∧ exec (.monitorSyntax a .mailbox false) s = exec (.monReq a) s) ∧
      (parseLine l = some .pwr → h.may 2 = false → GivesAll (.monReq a) s (fun m =>
        mailed (err 2) (m.chan a.chan) ∧ (∀ n, n ≠ a.chan → m.chan n = b.chan n) ∧
        m.hpd.gf MG_LOG_STAT.WCNT = (h.gf MG_LOG_STAT.WCNT + 1) % 2 ^ 32)) ∧
      (parseLine l = some .pwr → h.may 2 = true → Gives (.monReq a) s a (mailed (ok ((List.range 4).map (fun n =>
        ascii "c" ++ [hexDigit n] ++ ascii (if bit (h.gf MG_STAT.CH_POWER) n then " ON" else " OFF")))))) ∧
      (∀ q i, parseLine l = some q →
        (q = .id ∧ i = Instr.monId a .mailbox ∨ q = .sens ∧ i = .monSens a .mailbox ∨ q = .pwr ∧ i = .monPwr a .mailbox ∨
         (∃ t x, q = .rd t x ∧ i = .monRd a .mailbox t x) ∨ (∃ t x v, q = .wr t x v ∧ i = .monWr a .mailbox t x v) ∨
         (∃ t x n, q = .log t x n ∧ i = .monLog a .mailbox t x n) ∨ (∃ t, q = .pwrOn t ∧ i = .monPwrOn a .mailbox t) ∨
         (∃ t, q = .pwrOff t ∧ i = .monPwrOff a .mailbox t) ∨ (∃ r, q = .baud r ∧ i = .monBaud a .mailbox r) ∨
         (∃ t, q = .svcHalt t ∧ i = .svcHalt a .mailbox t) ∨ (∃ t, q = .svcRun t ∧ i = .svcRun a .mailbox t) ∨
         (∃ t n, q = .svcReg t n ∧ i = .svcReg a .mailbox t n)) → exec i s = exec (.monReq a) s))

/-- Telemetry over SMBus is answered; the alert response clears PEND; a break resets the baud rate, and MG_PWR_CTL restores a
channel's power. (Where it rests on the model's own choices: notes/assumptions/41.md.) -/
def Obligations.TelemetryIsAnswered : Prop :=
  ∀ (a : At) (ag : Agent) (s : State), (s.enter a).hpd.good = true →
    let b := s.enter a
    let h := b.hpd
    let answers (bs : List Byte) (g : Hpd) : Prop := g.mctp = h.mctp ++ [bs] ∧ h.sameRegsBut g []
    let vendor (cmd : Nat) (bs : List Byte) (g : Hpd) : Prop := answers (leBytes 1 0x7F ++ leBytes 4 (h.gf MG_VER.IANA) ++ leBytes 1 cmd ++ bs) g
    (∀ op eid, op ≤ 1 → 8 ≤ eid → eid ≤ 254 → GivesHpd (.setEndpointId a op eid) s a (fun g =>
      g.eid = eid ∧ answers (leBytes 1 1 ++ leBytes 1 0 ++ (leBytes 1 0 ++ leBytes 1 eid ++ leBytes 1 0)) g)) ∧
    (∀ op eid, eid < 8 ∨ 254 < eid → GivesHpd (.setEndpointId a op eid) s a (fun g =>
      g.eid = h.eid ∧ answers (leBytes 1 1 ++ leBytes 1 2) g)) ∧
    GivesHpd (.getEndpointId a) s a (answers (leBytes 1 2 ++ leBytes 1 0 ++ (leBytes 1 h.eid ++ leBytes 2 0))) ∧
    (∀ ty, ty = 0xFF ∨ ty = 0 ∨ ty = 0x7F → GivesHpd (.getMctpVersionSupport a ty) s a (fun g => ∃ v, v < 2 ^ 32 ∧
      answers (leBytes 1 4 ++ leBytes 1 0 ++ (leBytes 1 1 ++ leBytes 4 v)) g)) ∧
    GivesHpd (.getMessageTypeSupport a) s a (answers (leBytes 1 5 ++ leBytes 1 0 ++ (leBytes 1 1 ++ leBytes 1 0x7F))) ∧
    (∀ cmd, cmd ≠ 1 → cmd ≠ 2 → cmd ≠ 4 → cmd ≠ 5 → GivesHpd (.unsupportedControlMessage a cmd) s a (answers (leBytes 1 cmd ++ leBytes 1 5))) ∧
    GivesHpd (.getId a) s a (vendor 1 (leBytes 8 (h.regRead SEC_SERIAL.off) ++ leBytes 1 ((b.chan 0).gf CH_ID.STEPPING) ++
      leBytes 8 (h.regRead SYL_HDR.off) ++ ((List.range 4).map (fun n =>
        leBytes 4 (if b.monFar n then 0 else (b.chan (finOf n)).regRead SVC_STAT.off))).flatten)) ∧
    GivesHpd (.getSensors a) s a (vendor 2 ((sensorIds.map (fun id =>
      leBytes 2 id ++ leBytes 4 (b.sensor id).1 ++ leBytes 1 (b2n (b.sensor id).2))).flatten)) ∧
    (∀ t i n, t < 6 → n ≤ 32 → b.monFar t = false → GivesHpd (.getLog a t i n) s a (vendor 3 (((b.records t i n).map (fun r =>
      leBytes 1 (b2n r.isSome) ++ recBytes r)).flatten))) ∧
    (h.flag MG_ALERT.PEND = true → GivesHpd (.alertResponse a) s a (fun g =>
      g.flag MG_ALERT.PEND = false ∧ g.mctp = h.mctp ++ [[0x98]] ∧ h.sameRegsBut g [MG_ALERT.off])) ∧
    (∀ ms, 10 ≤ ms → GivesHpd (.uartBreak a ms) s a (fun g => g.gf MG_STAT.BAUD = 0 ∧ h.sameRegsBut g [MG_STAT.off])) ∧
    (∀ t, s.writableHpd a ag MG_PWR_CTL.off (4 + t % 4) → (b.chan (finOf t)).gf HR_PSTATE.CUR = 4 → GivesAll (.pwrCtlOn a ag t) s (fun m =>
      let e := m.chan (finOf t)
      e.gf HR_PSTATE.CUR = 0 ∧ e.cstate = csBOOT ∧ e.phase = 1 ∧ e.gf UC_STAT.STATE = 1 ∧ e.mem = [] ∧
      bit (m.hpd.gf MG_STAT.CH_POWER) (t % 4) = true ∧ ∀ n, n ≠ finOf t → m.chan n = b.chan n))

/-! ### Encodings and invariants -/

/-- What the commands of the transfer engines, the vector engines and the host queue bring about when they start. COPY moves its
rows, from the command, from memory or from afar; REG_WR writes and REG_RD reads a register; ATOMIC and DELIVER send their
packets; VE_OP and VE_FUNC write the results of their elements, VE_COMPRESS and VE_EXPAND pack and unpack by the mask, VE_SETVL
sets the length; HQ_WRITE, HQ_DMA, HQ_RESULT and HQ_FLAG move the host's bytes. No other memory changes. (FENCE stands with the
completions, RDMA with the network port, the commands of the matrix, update and collective engines with their engines.) (Where it
rests on the model's own choices: notes/assumptions/22.md.) -/
def Obligations.DataCommandsMoveData : Prop :=
  ∀ (a : At) (q : Nat) (h : Head) (s : State), (s.enter a).hpd.good = true →
    let c := s.here a
    let raw := h.raw
    let seg := (c.queue q).seg
    let n := c.numberOf q h
    let src := operand seg raw 24 true (rowsExtent (copyRows raw) (copyLen raw) (copySrcStride raw))
    let dst := opdGlobal seg raw 32
    (c.clean q 0x20 specCopy h →
      (∀ (y : Nat) (row : Nat → List Byte), (∀ i, i < copyRows raw →
          locOf (dst + i * copyDstStride raw) = .lcl (y + i * copyDstStride raw) ∧ (row i).length = copyLen raw ∧
          ((∃ p, src = .inl p ∧ row i = (raw.drop (p + i * copySrcStride raw)).take (copyLen raw)) ∨
           ∃ g x, src = .addr g ∧ locOf (g + i * copySrcStride raw) = .lcl x ∧ row i = c.peek x (copyLen raw) ∧
             ∀ j, j < copyRows raw → x + copyLen raw ≤ y + j * copyDstStride raw ∨ y + j * copyDstStride raw + copyLen raw ≤ x)) →
        copyRows raw = 1 ∨ copyLen raw ≤ copyDstStride raw →
        Gives (.copy a q) s a (fun d =>
          (∀ i, i < copyRows raw → d.peek (y + i * copyDstStride raw) (copyLen raw) = row i) ∧
          ∀ z, (∀ i, i < copyRows raw → ¬ (y + i * copyDstStride raw ≤ z ∧ z < y + i * copyDstStride raw + copyLen raw)) →
            d.byte z = c.byte z)) ∧
      (∀ g x y, copyRows raw = 1 → src = .addr g → locOf g = .lcl x → locOf dst = .lcl y → Gives (.copy a q) s a (fun d =>
        d.peek y (copyLen raw) = c.peek x (copyLen raw) ∧ c.sameMemBut d y (copyLen raw))) ∧
      (∀ row : Nat → List Byte, (∀ i, i < copyRows raw → away (dst + i * copyDstStride raw) ∧ (row i).length = copyLen raw ∧
          ((∃ p, src = .inl p ∧ row i = (raw.drop (p + i * copySrcStride raw)).take (copyLen raw)) ∨
           ∃ g x, src = .addr g ∧ locOf (g + i * copySrcStride raw) = .lcl x ∧ row i = c.peek x (copyLen raw))) →
        Gives (.copy a q) s a (c.asks q n ((List.range (copyRows raw)).flatMap (fun i => writesTo (dst + i * copyDstStride raw) (row i))))) ∧
      (∀ (g : Nat) (cont : Nat → Nat → OpCont), src = .addr g → (∀ i, i < copyRows raw → away (g + i * copySrcStride raw) ∧
          ((∃ y, locOf (dst + i * copyDstStride raw) = .lcl y ∧ cont i = fun o => .toMem (y + o)) ∨
           away (dst + i * copyDstStride raw) ∧ cont i = fun o => .toGlobal (dst + i * copyDstStride raw + o))) →
        Gives (.copy a q) s a (c.asks q n ((List.range (copyRows raw)).flatMap (fun i =>
          readsFrom (g + i * copySrcStride raw) (copyLen raw) (cont i)))))) ∧
    (c.clean q 0x24 specRegWr h →
      let off := fieldOf raw 24 27
      let v := fieldOf raw 32 39
      ∀ desc, chanDesc off = some desc → actsOnWrite off = false → (precReg off && c.claimed off) = false →
        c.outranked (.te (q - 0x18)) off = false → off ≠ Q_ERR.off q → off ≠ HR_LOG_STAT.off →
        Gives (.regWr a q) s a (fun d => d.rd off = desc.write (c.rd off) v % 2 ^ 64 ∧ c.sameMem d ∧
          c.sameRegsBut d [off, Q_ERR.off q, HR_LOG_STAT.off])) ∧
    (c.clean q 0x25 specRegRd h →
      let v := leBytes 8 ((c.begun q specRegRd h).2.regRead (fieldOf raw 24 27))
      (∀ y, locOf dst = .lcl y → Gives (.regRd a q) s a (fun d => d.peek y 8 = v ∧ c.sameMemBut d y 8)) ∧
      (away dst → Gives (.regRd a q) s a (c.asks q n (writesTo dst v)))) ∧
    (c.clean q 0x22 specAtomic h → ∀ node x, locOf (opdGlobal seg raw 24) = .fab node x →
      let op := fieldOf raw 56 56
      let cmp := if op = 2 then leBytes 8 (fieldOf raw 40 47) else []
      Gives (.atomic a q) s a (c.asks q n [{ op0 with
        cont := .result (opdGlobal seg raw 48)
        pkt := { pkt0 with
          ptype := pATOMIC, dst := node, len := cmp.length, aux := op, addr := fabAddr node x, aux2 := fieldOf raw 32 39, data := cmp } }])) ∧
    (c.clean q 0x21 specDeliver h → ∀ node x pl ds, (c.atHand seg raw 24 (dlvLen raw)).1 = some (some pl) →
      (c.atHand seg raw 48 64).1 = some (some ds) → locOf dst = .fab node x →
      let part (ptype off : Nat) (bs : List Byte) : Op := { op0 with
        kind := 1
        pkt := { pkt0 with
          ptype := ptype, dst := node, len := bs.length, aux := dlvAux raw, addr := fabAddr node (x + off)
          aux2 := pl.length + off * 2 ^ 32, data := bs } }
      ds.length = 64 → Gives (.deliver a q) s a (c.asks q n (if extOf raw then [part pDELIVER_X 0 (pl ++ ds)]
        else (cut pl.length).map (fun e => part pDELIVER_DATA e.1 ((pl.drop e.1).take e.2)) ++ [part pDELIVER_DESC 0 ds]))) ∧
    (let len := c.vl q
     let vals (off f : Nat) (l : List Nat) : Prop := (c.readStream seg raw off f len).1 = some l
     let neg (on : Bool) (v : Nat) : Nat := if on && !isNan32 v then negate32 v else v
     let stored (fd x : Nat) (rs : List Nat) (d : Chan) : Prop :=
       let conv := convertAll fd .rne (c.flag (VE_CTL.SAT (q - 0x10))) c.e2 rs
       let out := if fd = 0x10 then packElems 0x10 (rs.map (fun r => b2n (truthy r))) else conv.1
       let scales := x + mxBase fd rs.length
       d.peek x out.length = out ∧ (isMx fd = true → d.peek scales conv.2.1.length = conv.2.1) ∧
       (∀ z, ¬ (x ≤ z ∧ z < x + out.length) → ¬ (isMx fd = true ∧ scales ≤ z ∧ z < scales + conv.2.1.length) → d.byte z = c.byte z) ∧
       d.gf (VE_CNT_ELEMS.COUNT (q - 0x10)) = (c.gf (VE_CNT_ELEMS.COUNT (q - 0x10)) + rs.length) % 2 ^ 64
     (c.clean q 0x30 specVeOp h → ∀ xs ys zs, vals 32 (fieldOf raw 26 26) xs → vals 40 (fieldOf raw 27 27) ys →
       (if veReadsC raw then vals 48 (fieldOf raw 28 28) zs else zs = List.replicate len 0) →
       Gives (.veOp a q) s a (stored (c.promote q (fieldOf raw 29 29)) (opdPlace seg raw 56) ((xs.zip (ys.zip zs)).map (fun e =>
         veResult (veKind raw) (veCond raw) e.1 (neg (veNegB raw) e.2.1) (neg (veNegC raw) e.2.2) (e.2.2 != 0))))) ∧
     (c.clean q 0x31 specVeFunc h → ∀ xs, vals 32 (fieldOf raw 26 26) xs →
       Gives (.veFunc a q) s a
         (stored (c.promote q (fieldOf raw 27 27)) (opdPlace seg raw 40) (xs.map (funcStage (fieldOf raw 24 24))))) ∧
     (let f := fieldOf raw 26 26
      let e := elemBits f / 8
      let inl := isInline seg raw 32
      let x := opdPlace seg raw 48
      let y := opdPlace seg raw 56
      ∀ bs mask, (c.fetchOpd seg raw 40 (elemBytes 0x10 len)).1 = some mask →
      (c.clean q 0x32 specCompress h → (c.fetchOpd seg raw 32 (opdBytes seg raw 32 f len)).1 = some bs →
        let out := (maskSet len mask).flatMap (elemBytesAt inl e bs)
        x + out.length ≤ y ∨ y + 8 ≤ x → Gives (.veCompress a q) s a (fun d =>
          d.peek x out.length = out ∧ d.peek y 8 = leBytes 8 (maskSet len mask).length ∧
          ∀ z, ¬ (x ≤ z ∧ z < x + out.length) → ¬ (y ≤ z ∧ z < y + 8) → d.byte z = c.byte z)) ∧
      (c.clean q 0x33 specExpand h →
        (c.fetchOpd seg raw 32 (if inl then e else e * (maskSet len mask).length)).1 = some bs →
        Gives (.veExpand a q) s a (fun d =>
          (∀ i j, (maskSet len mask)[i]? = some j →
            d.peek (x + e * j) (elemBytesAt inl e bs i).length = elemBytesAt inl e bs i) ∧
          ∀ z, (∀ j ∈ maskSet len mask, ¬ (x + e * j ≤ z ∧ z < x + e * j + e)) → d.byte z = c.byte z))) ∧
     (c.clean q 0x34 specSetvl h → Gives (.veSetvl a q) s a (fun d => d.vl q = fieldOf raw 24 25 ∧ c.sameMem d))) ∧
    (q = 0x80 →
      (∀ y, c.clean 0x80 0x61 specHqWrite h → locOf (opdGlobal none raw 24) = .lcl y →
        let bs := (raw.drop 64).take (fieldOf raw 32 35)
        Gives (.hqWrite a) s a (fun d => d.peek y bs.length = bs ∧ c.sameMemBut d y bs.length)) ∧
      (∀ x, c.clean 0x80 0x62 specHqDma h →
        (locOf (opdGlobal none raw 24) = .lcl x → away (opdGlobal none raw 32) →
          Gives (.hqDma a) s a (c.asks 0x80 n (writesTo (opdGlobal none raw 32) (c.peek x (fieldOf raw 40 43))))) ∧
        (away (opdGlobal none raw 24) → locOf (opdGlobal none raw 32) = .lcl x → Gives (.hqDma a) s a
          (c.asks 0x80 n (readsFrom (opdGlobal none raw 24) (fieldOf raw 40 43) (fun o => .toMem (x + o)))))) ∧
      (∀ x bs, c.clean 0x80 0x63 specHqResult h → (c.atHand none raw 32 (fieldOf raw 40 43)).1 = some (some bs) →
        locOf (opdGlobal none raw 24) = .lcl x → locOf (opdGlobal none raw 24 + 64) = .lcl (x + 64) → Gives (.hqResult a) s a (fun d =>
          d.peek (x + 64) bs.length = bs ∧ d.peek x 64 = leBytes 8 (fieldOf raw 44 51) ++ leBytes 4 (fieldOf raw 40 43) ++ leBytes 52 0 ∧
          c.sameMemBut d x (64 + bs.length))) ∧
      (c.clean 0x80 0x64 specHqFlag h → away (opdGlobal none raw 24) →
        Gives (.hqFlag a) s a (c.asks 0x80 n (writesTo (opdGlobal none raw 24) (leBytes 8 (fieldOf raw 32 39))))))

/-- Packets, flits and roll-call bells survive their encoding as bytes: every field at every value that its bytes admit. -/
def Obligations.FlitsAndPacketsRoundTrip : Prop :=
  (∀ k : Pkt, k.ptype < 2 ^ 8 → k.hops < 2 ^ 8 → k.dirs < 2 ^ 8 → k.err < 2 ^ 8 → k.dst < 2 ^ 18 → k.src < 2 ^ 18 → k.tid < 2 ^ 13 →
    k.len < 2 ^ 16 → k.aux < 2 ^ 16 → k.addr < 2 ^ 64 → k.aux2 < 2 ^ 64 → parsePkt k.bytes = k) ∧
  (∀ f : Flit, f.lseq < 2 ^ 16 → f.vc < 2 ^ 4 → f.kind < 2 ^ 3 → f.plen ≤ 240 → f.payload.length = f.plen → f.ackSeq < 2 ^ 16 →
    f.crVc < 2 ^ 4 → f.crCnt < 2 ^ 8 → parseFlit f.bytes = f ∧ flitOk f.bytes = true ∧ f.bytes.length = 256) ∧
  (∀ b : RollBell, b.phase < 2 ^ 8 → b.axis < 2 ^ 8 → b.state < 2 ^ 8 → b.head < 2 ^ 16 → b.hall < 2 ^ 64 → b.node < 2 ^ 18 →
    b.seat < 2 ^ 8 → b.present < 2 ^ 320 → b.bypass < 2 ^ 320 → b.npres < 2 ^ 16 → b.nbyp < 2 ^ 16 →
    parseRoll b.bytes = b ∧ b.bytes.length = 208)

/-- Every step keeps the memory of every channel in canonical form, so that equal memories are equal data. (Where it rests on the
model's own choices: notes/assumptions/1.md.) -/
def Obligations.EveryStepKeepsMemoryCanonical : Prop :=
  ∀ s t : State, s.memOk → step s = .next t → t.memOk

/-- Every step keeps it so that, while the module has no power or its link to the host is down, no host-bound write is held for
the host and no host-bound read is outstanding. (Where it rests on the model's own choices: notes/assumptions/111.md.) -/
def Obligations.NothingIsHeldWithoutALink : Prop :=
  ∀ s t : State, s.hpd.linkOk → step s = .next t → t.hpd.linkOk

/-- A fuse bit, once blown, never returns to 0: over every step the serial and the keys of enrolled slots stay, enrolled and
revoked slots stay so, and no thermometer counter falls. (Where it rests on the model's own choices: notes/assumptions/85.md.) -/
def Obligations.FusesAreNeverCleared : Prop :=
  ∀ s t : State, step s = .next t →
    t.hpd.rd SEC_SERIAL.off = s.hpd.rd SEC_SERIAL.off ∧
    (∀ k, s.hpd.enrolled k = true → t.hpd.enrolled k = true ∧ t.hpd.slotKey k = s.hpd.slotKey k ∧ t.hpd.keyFuse k = s.hpd.keyFuse k) ∧
    (∀ k, s.hpd.revoked k = true → t.hpd.revoked k = true) ∧
    s.hpd.gf SEC_FUSE.SYL_SVN ≤ t.hpd.gf SEC_FUSE.SYL_SVN ∧ s.hpd.gf SEC_FUSE.FW_SVN ≤ t.hpd.gf SEC_FUSE.FW_SVN ∧
    s.hpd.gf SEC_FUSE.IDX_BLOCKS ≤ t.hpd.gf SEC_FUSE.IDX_BLOCKS
end

