-- ==== Sys2Proof/Laws/State.lean ====
section
/-!
SUPPORT. What the basic updates leave alone: one lemma per update and field, each true by definition.  Each proof is
written (rfl), in brackets: simp then rewrites with the lemma, and the kernel never compares two register tables.  A proof over
the machine that closes such a goal by rfl, show or change can send the kernel into evaluating a table: cite these instead.
-/
namespace Sys2Proof.Machine

@[simp] theorem Chan.wr_num (c : Chan) (o v : Nat) : (c.wr o v).num = c.num := (rfl)
@[simp] theorem Chan.wr_now (c : Chan) (o v : Nat) : (c.wr o v).now = c.now := (rfl)
@[simp] theorem Chan.wr_t0 (c : Chan) (o v : Nat) : (c.wr o v).t0 = c.t0 := (rfl)
@[simp] theorem Chan.wr_hpdT0 (c : Chan) (o v : Nat) : (c.wr o v).hpdT0 = c.hpdT0 := (rfl)
@[simp] theorem Chan.wr_fresh (c : Chan) (o v : Nat) : (c.wr o v).fresh = c.fresh := (rfl)
@[simp] theorem Chan.wr_wrs (c : Chan) (o v : Nat) : (c.wr o v).wrs = c.wrs := (rfl)
@[simp] theorem Chan.wr_retiring (c : Chan) (o v : Nat) : (c.wr o v).retiring = c.retiring := (rfl)
@[simp] theorem Chan.wr_mem (c : Chan) (o v : Nat) : (c.wr o v).mem = c.mem := (rfl)
@[simp] theorem Chan.wr_flaws (c : Chan) (o v : Nat) : (c.wr o v).flaws = c.flaws := (rfl)
@[simp] theorem Chan.wr_erase (c : Chan) (o v : Nat) : (c.wr o v).erase = c.erase := (rfl)
@[simp] theorem Chan.wr_log (c : Chan) (o v : Nat) : (c.wr o v).log = c.log := (rfl)
@[simp] theorem Chan.wr_rate (c : Chan) (o v : Nat) : (c.wr o v).rate = c.rate := (rfl)
@[simp] theorem Chan.wr_queues (c : Chan) (o v : Nat) : (c.wr o v).queues = c.queues := (rfl)
@[simp] theorem Chan.wr_waiting (c : Chan) (o v : Nat) : (c.wr o v).waiting = c.waiting := (rfl)
@[simp] theorem Chan.wr_ports (c : Chan) (o v : Nat) : (c.wr o v).ports = c.ports := (rfl)
@[simp] theorem Chan.wr_loop (c : Chan) (o v : Nat) : (c.wr o v).loop = c.loop := (rfl)
@[simp] theorem Chan.wr_ops (c : Chan) (o v : Nat) : (c.wr o v).ops = c.ops := (rfl)
@[simp] theorem Chan.wr_opq (c : Chan) (o v : Nat) : (c.wr o v).opq = c.opq := (rfl)
@[simp] theorem Chan.wr_nextTid (c : Chan) (o v : Nat) : (c.wr o v).nextTid = c.nextTid := (rfl)
@[simp] theorem Chan.wr_breaks (c : Chan) (o v : Nat) : (c.wr o v).breaks = c.breaks := (rfl)
@[simp] theorem Chan.wr_tc0 (c : Chan) (o v : Nat) : (c.wr o v).tc0 = c.tc0 := (rfl)
@[simp] theorem Chan.wr_tc0Wait (c : Chan) (o v : Nat) : (c.wr o v).tc0Wait = c.tc0Wait := (rfl)
@[simp] theorem Chan.wr_tc0Next (c : Chan) (o v : Nat) : (c.wr o v).tc0Next = c.tc0Next := (rfl)
@[simp] theorem Chan.wr_fenceReq (c : Chan) (o v : Nat) : (c.wr o v).fenceReq = c.fenceReq := (rfl)
@[simp] theorem Chan.wr_out (c : Chan) (o v : Nat) : (c.wr o v).out = c.out := (rfl)
@[simp] theorem Chan.wr_cyc (c : Chan) (o v : Nat) : (c.wr o v).cyc = c.cyc := (rfl)
@[simp] theorem Chan.wr_retakes (c : Chan) (o v : Nat) : (c.wr o v).retakes = c.retakes := (rfl)
@[simp] theorem Chan.wr_calls (c : Chan) (o v : Nat) : (c.wr o v).calls = c.calls := (rfl)
@[simp] theorem Chan.wr_mes (c : Chan) (o v : Nat) : (c.wr o v).mes = c.mes := (rfl)
@[simp] theorem Chan.wr_phases (c : Chan) (o v : Nat) : (c.wr o v).phases = c.phases := (rfl)
@[simp] theorem Chan.wr_ves (c : Chan) (o v : Nat) : (c.wr o v).ves = c.ves := (rfl)
@[simp] theorem Chan.wr_fss (c : Chan) (o v : Nat) : (c.wr o v).fss = c.fss := (rfl)
@[simp] theorem Chan.wr_gathered (c : Chan) (o v : Nat) : (c.wr o v).gathered = c.gathered := (rfl)
@[simp] theorem Chan.wr_slots (c : Chan) (o v : Nat) : (c.wr o v).slots = c.slots := (rfl)
@[simp] theorem Chan.wr_nextLaunch (c : Chan) (o v : Nat) : (c.wr o v).nextLaunch = c.nextLaunch := (rfl)
@[simp] theorem Chan.wr_ttLast (c : Chan) (o v : Nat) : (c.wr o v).ttLast = c.ttLast := (rfl)
@[simp] theorem Chan.wr_uu (c : Chan) (o v : Nat) : (c.wr o v).uu = c.uu := (rfl)
@[simp] theorem Chan.wr_buddies (c : Chan) (o v : Nat) : (c.wr o v).buddies = c.buddies := (rfl)
@[simp] theorem Chan.wr_bkts (c : Chan) (o v : Nat) : (c.wr o v).bkts = c.bkts := (rfl)
@[simp] theorem Chan.wr_nextBkt (c : Chan) (o v : Nat) : (c.wr o v).nextBkt = c.nextBkt := (rfl)
@[simp] theorem Chan.wr_cePass (c : Chan) (o v : Nat) : (c.wr o v).cePass = c.cePass := (rfl)
@[simp] theorem Chan.wr_ceStage (c : Chan) (o v : Nat) : (c.wr o v).ceStage = c.ceStage := (rfl)
@[simp] theorem Chan.wr_chart (c : Chan) (o v : Nat) : (c.wr o v).chart = c.chart := (rfl)
@[simp] theorem Chan.wr_termSw (c : Chan) (o v : Nat) : (c.wr o v).termSw = c.termSw := (rfl)
@[simp] theorem Chan.wr_sections (c : Chan) (o v : Nat) : (c.wr o v).sections = c.sections := (rfl)
@[simp] theorem Chan.wr_boot (c : Chan) (o v : Nat) : (c.wr o v).boot = c.boot := (rfl)
@[simp] theorem Chan.wr_hbs (c : Chan) (o v : Nat) : (c.wr o v).hbs = c.hbs := (rfl)
@[simp] theorem Chan.wr_hbSeq (c : Chan) (o v : Nat) : (c.wr o v).hbSeq = c.hbSeq := (rfl)
@[simp] theorem Chan.wr_hbSent (c : Chan) (o v : Nat) : (c.wr o v).hbSent = c.hbSent := (rfl)
@[simp] theorem Chan.wr_hbTick (c : Chan) (o v : Nat) : (c.wr o v).hbTick = c.hbTick := (rfl)
@[simp] theorem Chan.wr_acted (c : Chan) (o v : Nat) : (c.wr o v).acted = c.acted := (rfl)
@[simp] theorem Chan.wr_searches (c : Chan) (o v : Nat) : (c.wr o v).searches = c.searches := (rfl)
@[simp] theorem Chan.wr_altWaits (c : Chan) (o v : Nat) : (c.wr o v).altWaits = c.altWaits := (rfl)
@[simp] theorem Chan.wr_altHeard (c : Chan) (o v : Nat) : (c.wr o v).altHeard = c.altHeard := (rfl)
@[simp] theorem Chan.wr_spread (c : Chan) (o v : Nat) : (c.wr o v).spread = c.spread := (rfl)
@[simp] theorem Chan.wr_claim (c : Chan) (o v : Nat) : (c.wr o v).claim = c.claim := (rfl)
@[simp] theorem Chan.wr_recovers (c : Chan) (o v : Nat) : (c.wr o v).recovers = c.recovers := (rfl)
@[simp] theorem Chan.wr_recSeen (c : Chan) (o v : Nat) : (c.wr o v).recSeen = c.recSeen := (rfl)
@[simp] theorem Chan.wr_subRecover (c : Chan) (o v : Nat) : (c.wr o v).subRecover = c.subRecover := (rfl)
@[simp] theorem Chan.wr_applying (c : Chan) (o v : Nat) : (c.wr o v).applying = c.applying := (rfl)
@[simp] theorem Chan.wr_fencedAt (c : Chan) (o v : Nat) : (c.wr o v).fencedAt = c.fencedAt := (rfl)
@[simp] theorem Chan.wr_bootstrap (c : Chan) (o v : Nat) : (c.wr o v).bootstrap = c.bootstrap := (rfl)
@[simp] theorem Chan.wr_mbOut (c : Chan) (o v : Nat) : (c.wr o v).mbOut = c.mbOut := (rfl)
@[simp] theorem Chan.wr_mbWait (c : Chan) (o v : Nat) : (c.wr o v).mbWait = c.mbWait := (rfl)
@[simp] theorem Chan.wr_cores (c : Chan) (o v : Nat) : (c.wr o v).cores = c.cores := (rfl)
@[simp] theorem Chan.wr_prios (c : Chan) (o v : Nat) : (c.wr o v).prios = c.prios := (rfl)
@[simp] theorem Chan.wr_pres5 (c : Chan) (o v : Nat) : (c.wr o v).pres5 = c.pres5 := (rfl)
@[simp] theorem Chan.wr_due5 (c : Chan) (o v : Nat) : (c.wr o v).due5 = c.due5 := (rfl)
@[simp] theorem Chan.wr_ptrans (c : Chan) (o v : Nat) : (c.wr o v).ptrans = c.ptrans := (rfl)
@[simp] theorem Chan.wr_quietSince (c : Chan) (o v : Nat) : (c.wr o v).quietSince = c.quietSince := (rfl)
@[simp] theorem Chan.wr_noCompute (c : Chan) (o v : Nat) : (c.wr o v).noCompute = c.noCompute := (rfl)
@[simp] theorem Chan.wr_en (c : Chan) (o v : Nat) : (c.wr o v).en = c.en := (rfl)
@[simp] theorem Chan.wr_uc (c : Chan) (o v : Nat) : (c.wr o v).uc = c.uc := (rfl)
@[simp] theorem Chan.wr_bands (c : Chan) (o v : Nat) : (c.wr o v).bands = c.bands := (rfl)
@[simp] theorem Chan.wr_thermTick (c : Chan) (o v : Nat) : (c.wr o v).thermTick = c.thermTick := (rfl)
@[simp] theorem Chan.wr_envTick (c : Chan) (o v : Nat) : (c.wr o v).envTick = c.envTick := (rfl)
@[simp] theorem Chan.wr_sampTick (c : Chan) (o v : Nat) : (c.wr o v).sampTick = c.sampTick := (rfl)
@[simp] theorem Chan.wr_sensBad (c : Chan) (o v : Nat) : (c.wr o v).sensBad = c.sensBad := (rfl)
@[simp] theorem Chan.wr_refLost (c : Chan) (o v : Nat) : (c.wr o v).refLost = c.refLost := (rfl)
@[simp] theorem Chan.wr_hlogHeld (c : Chan) (o v : Nat) : (c.wr o v).hlogHeld = c.hlogHeld := (rfl)
@[simp] theorem Chan.wr_hpdGen (c : Chan) (o v : Nat) : (c.wr o v).hpdGen = c.hpdGen := (rfl)
@[simp] theorem Chan.wr_hostUp (c : Chan) (o v : Nat) : (c.wr o v).hostUp = c.hostUp := (rfl)
@[simp] theorem Chan.wr_hlogFull (c : Chan) (o v : Nat) : (c.wr o v).hlogFull = c.hlogFull := (rfl)
@[simp] theorem Chan.wr_irqWas (c : Chan) (o v : Nat) : (c.wr o v).irqWas = c.irqWas := (rfl)

@[simp] theorem Chan.sf_num (c : Chan) (f : Fld) (v : Nat) : (c.sf f v).num = c.num := (rfl)
@[simp] theorem Chan.sf_now (c : Chan) (f : Fld) (v : Nat) : (c.sf f v).now = c.now := (rfl)
@[simp] theorem Chan.sf_t0 (c : Chan) (f : Fld) (v : Nat) : (c.sf f v).t0 = c.t0 := (rfl)
@[simp] theorem Chan.sf_hpdT0 (c : Chan) (f : Fld) (v : Nat) : (c.sf f v).hpdT0 = c.hpdT0 := (rfl)
@[simp] theorem Chan.sf_fresh (c : Chan) (f : Fld) (v : Nat) : (c.sf f v).fresh = c.fresh := (rfl)
@[simp] theorem Chan.sf_wrs (c : Chan) (f : Fld) (v : Nat) : (c.sf f v).wrs = c.wrs := (rfl)
@[simp] theorem Chan.sf_retiring (c : Chan) (f : Fld) (v : Nat) : (c.sf f v).retiring = c.retiring := (rfl)
@[simp] theorem Chan.sf_mem (c : Chan) (f : Fld) (v : Nat) : (c.sf f v).mem = c.mem := (rfl)
@[simp] theorem Chan.sf_flaws (c : Chan) (f : Fld) (v : Nat) : (c.sf f v).flaws = c.flaws := (rfl)
@[simp] theorem Chan.sf_erase (c : Chan) (f : Fld) (v : Nat) : (c.sf f v).erase = c.erase := (rfl)
@[simp] theorem Chan.sf_log (c : Chan) (f : Fld) (v : Nat) : (c.sf f v).log = c.log := (rfl)
@[simp] theorem Chan.sf_rate (c : Chan) (f : Fld) (v : Nat) : (c.sf f v).rate = c.rate := (rfl)
@[simp] theorem Chan.sf_queues (c : Chan) (f : Fld) (v : Nat) : (c.sf f v).queues = c.queues := (rfl)
@[simp] theorem Chan.sf_waiting (c : Chan) (f : Fld) (v : Nat) : (c.sf f v).waiting = c.waiting := (rfl)
@[simp] theorem Chan.sf_ports (c : Chan) (f : Fld) (v : Nat) : (c.sf f v).ports = c.ports := (rfl)
@[simp] theorem Chan.sf_loop (c : Chan) (f : Fld) (v : Nat) : (c.sf f v).loop = c.loop := (rfl)
@[simp] theorem Chan.sf_ops (c : Chan) (f : Fld) (v : Nat) : (c.sf f v).ops = c.ops := (rfl)
@[simp] theorem Chan.sf_opq (c : Chan) (f : Fld) (v : Nat) : (c.sf f v).opq = c.opq := (rfl)
@[simp] theorem Chan.sf_nextTid (c : Chan) (f : Fld) (v : Nat) : (c.sf f v).nextTid = c.nextTid := (rfl)
@[simp] theorem Chan.sf_breaks (c : Chan) (f : Fld) (v : Nat) : (c.sf f v).breaks = c.breaks := (rfl)
@[simp] theorem Chan.sf_tc0 (c : Chan) (f : Fld) (v : Nat) : (c.sf f v).tc0 = c.tc0 := (rfl)
@[simp] theorem Chan.sf_tc0Wait (c : Chan) (f : Fld) (v : Nat) : (c.sf f v).tc0Wait = c.tc0Wait := (rfl)
@[simp] theorem Chan.sf_tc0Next (c : Chan) (f : Fld) (v : Nat) : (c.sf f v).tc0Next = c.tc0Next := (rfl)
@[simp] theorem Chan.sf_fenceReq (c : Chan) (f : Fld) (v : Nat) : (c.sf f v).fenceReq = c.fenceReq := (rfl)
@[simp] theorem Chan.sf_out (c : Chan) (f : Fld) (v : Nat) : (c.sf f v).out = c.out := (rfl)
@[simp] theorem Chan.sf_cyc (c : Chan) (f : Fld) (v : Nat) : (c.sf f v).cyc = c.cyc := (rfl)
@[simp] theorem Chan.sf_retakes (c : Chan) (f : Fld) (v : Nat) : (c.sf f v).retakes = c.retakes := (rfl)
@[simp] theorem Chan.sf_calls (c : Chan) (f : Fld) (v : Nat) : (c.sf f v).calls = c.calls := (rfl)
@[simp] theorem Chan.sf_mes (c : Chan) (f : Fld) (v : Nat) : (c.sf f v).mes = c.mes := (rfl)
@[simp] theorem Chan.sf_phases (c : Chan) (f : Fld) (v : Nat) : (c.sf f v).phases = c.phases := (rfl)
@[simp] theorem Chan.sf_ves (c : Chan) (f : Fld) (v : Nat) : (c.sf f v).ves = c.ves := (rfl)
@[simp] theorem Chan.sf_fss (c : Chan) (f : Fld) (v : Nat) : (c.sf f v).fss = c.fss := (rfl)
@[simp] theorem Chan.sf_gathered (c : Chan) (f : Fld) (v : Nat) : (c.sf f v).gathered = c.gathered := (rfl)
@[simp] theorem Chan.sf_slots (c : Chan) (f : Fld) (v : Nat) : (c.sf f v).slots = c.slots := (rfl)
@[simp] theorem Chan.sf_nextLaunch (c : Chan) (f : Fld) (v : Nat) : (c.sf f v).nextLaunch = c.nextLaunch := (rfl)
@[simp] theorem Chan.sf_ttLast (c : Chan) (f : Fld) (v : Nat) : (c.sf f v).ttLast = c.ttLast := (rfl)
@[simp] theorem Chan.sf_uu (c : Chan) (f : Fld) (v : Nat) : (c.sf f v).uu = c.uu := (rfl)
@[simp] theorem Chan.sf_buddies (c : Chan) (f : Fld) (v : Nat) : (c.sf f v).buddies = c.buddies := (rfl)
@[simp] theorem Chan.sf_bkts (c : Chan) (f : Fld) (v : Nat) : (c.sf f v).bkts = c.bkts := (rfl)
@[simp] theorem Chan.sf_nextBkt (c : Chan) (f : Fld) (v : Nat) : (c.sf f v).nextBkt = c.nextBkt := (rfl)
@[simp] theorem Chan.sf_cePass (c : Chan) (f : Fld) (v : Nat) : (c.sf f v).cePass = c.cePass := (rfl)
@[simp] theorem Chan.sf_ceStage (c : Chan) (f : Fld) (v : Nat) : (c.sf f v).ceStage = c.ceStage := (rfl)
@[simp] theorem Chan.sf_chart (c : Chan) (f : Fld) (v : Nat) : (c.sf f v).chart = c.chart := (rfl)
@[simp] theorem Chan.sf_termSw (c : Chan) (f : Fld) (v : Nat) : (c.sf f v).termSw = c.termSw := (rfl)
@[simp] theorem Chan.sf_sections (c : Chan) (f : Fld) (v : Nat) : (c.sf f v).sections = c.sections := (rfl)
@[simp] theorem Chan.sf_boot (c : Chan) (f : Fld) (v : Nat) : (c.sf f v).boot = c.boot := (rfl)
@[simp] theorem Chan.sf_hbs (c : Chan) (f : Fld) (v : Nat) : (c.sf f v).hbs = c.hbs := (rfl)
@[simp] theorem Chan.sf_hbSeq (c : Chan) (f : Fld) (v : Nat) : (c.sf f v).hbSeq = c.hbSeq := (rfl)
@[simp] theorem Chan.sf_hbSent (c : Chan) (f : Fld) (v : Nat) : (c.sf f v).hbSent = c.hbSent := (rfl)
@[simp] theorem Chan.sf_hbTick (c : Chan) (f : Fld) (v : Nat) : (c.sf f v).hbTick = c.hbTick := (rfl)
@[simp] theorem Chan.sf_acted (c : Chan) (f : Fld) (v : Nat) : (c.sf f v).acted = c.acted := (rfl)
@[simp] theorem Chan.sf_searches (c : Chan) (f : Fld) (v : Nat) : (c.sf f v).searches = c.searches := (rfl)
@[simp] theorem Chan.sf_altWaits (c : Chan) (f : Fld) (v : Nat) : (c.sf f v).altWaits = c.altWaits := (rfl)
@[simp] theorem Chan.sf_altHeard (c : Chan) (f : Fld) (v : Nat) : (c.sf f v).altHeard = c.altHeard := (rfl)
@[simp] theorem Chan.sf_spread (c : Chan) (f : Fld) (v : Nat) : (c.sf f v).spread = c.spread := (rfl)
@[simp] theorem Chan.sf_claim (c : Chan) (f : Fld) (v : Nat) : (c.sf f v).claim = c.claim := (rfl)
@[simp] theorem Chan.sf_recovers (c : Chan) (f : Fld) (v : Nat) : (c.sf f v).recovers = c.recovers := (rfl)
@[simp] theorem Chan.sf_recSeen (c : Chan) (f : Fld) (v : Nat) : (c.sf f v).recSeen = c.recSeen := (rfl)
@[simp] theorem Chan.sf_subRecover (c : Chan) (f : Fld) (v : Nat) : (c.sf f v).subRecover = c.subRecover := (rfl)
@[simp] theorem Chan.sf_applying (c : Chan) (f : Fld) (v : Nat) : (c.sf f v).applying = c.applying := (rfl)
@[simp] theorem Chan.sf_fencedAt (c : Chan) (f : Fld) (v : Nat) : (c.sf f v).fencedAt = c.fencedAt := (rfl)
@[simp] theorem Chan.sf_bootstrap (c : Chan) (f : Fld) (v : Nat) : (c.sf f v).bootstrap = c.bootstrap := (rfl)
@[simp] theorem Chan.sf_mbOut (c : Chan) (f : Fld) (v : Nat) : (c.sf f v).mbOut = c.mbOut := (rfl)
@[simp] theorem Chan.sf_mbWait (c : Chan) (f : Fld) (v : Nat) : (c.sf f v).mbWait = c.mbWait := (rfl)
@[simp] theorem Chan.sf_cores (c : Chan) (f : Fld) (v : Nat) : (c.sf f v).cores = c.cores := (rfl)
@[simp] theorem Chan.sf_prios (c : Chan) (f : Fld) (v : Nat) : (c.sf f v).prios = c.prios := (rfl)
@[simp] theorem Chan.sf_pres5 (c : Chan) (f : Fld) (v : Nat) : (c.sf f v).pres5 = c.pres5 := (rfl)
@[simp] theorem Chan.sf_due5 (c : Chan) (f : Fld) (v : Nat) : (c.sf f v).due5 = c.due5 := (rfl)
@[simp] theorem Chan.sf_ptrans (c : Chan) (f : Fld) (v : Nat) : (c.sf f v).ptrans = c.ptrans := (rfl)
@[simp] theorem Chan.sf_quietSince (c : Chan) (f : Fld) (v : Nat) : (c.sf f v).quietSince = c.quietSince := (rfl)
@[simp] theorem Chan.sf_noCompute (c : Chan) (f : Fld) (v : Nat) : (c.sf f v).noCompute = c.noCompute := (rfl)
@[simp] theorem Chan.sf_en (c : Chan) (f : Fld) (v : Nat) : (c.sf f v).en = c.en := (rfl)
@[simp] theorem Chan.sf_uc (c : Chan) (f : Fld) (v : Nat) : (c.sf f v).uc = c.uc := (rfl)
@[simp] theorem Chan.sf_bands (c : Chan) (f : Fld) (v : Nat) : (c.sf f v).bands = c.bands := (rfl)
@[simp] theorem Chan.sf_thermTick (c : Chan) (f : Fld) (v : Nat) : (c.sf f v).thermTick = c.thermTick := (rfl)
@[simp] theorem Chan.sf_envTick (c : Chan) (f : Fld) (v : Nat) : (c.sf f v).envTick = c.envTick := (rfl)
@[simp] theorem Chan.sf_sampTick (c : Chan) (f : Fld) (v : Nat) : (c.sf f v).sampTick = c.sampTick := (rfl)
@[simp] theorem Chan.sf_sensBad (c : Chan) (f : Fld) (v : Nat) : (c.sf f v).sensBad = c.sensBad := (rfl)
@[simp] theorem Chan.sf_refLost (c : Chan) (f : Fld) (v : Nat) : (c.sf f v).refLost = c.refLost := (rfl)
@[simp] theorem Chan.sf_hlogHeld (c : Chan) (f : Fld) (v : Nat) : (c.sf f v).hlogHeld = c.hlogHeld := (rfl)
@[simp] theorem Chan.sf_hpdGen (c : Chan) (f : Fld) (v : Nat) : (c.sf f v).hpdGen = c.hpdGen := (rfl)
@[simp] theorem Chan.sf_hostUp (c : Chan) (f : Fld) (v : Nat) : (c.sf f v).hostUp = c.hostUp := (rfl)
@[simp] theorem Chan.sf_hlogFull (c : Chan) (f : Fld) (v : Nat) : (c.sf f v).hlogFull = c.hlogFull := (rfl)
@[simp] theorem Chan.sf_irqWas (c : Chan) (f : Fld) (v : Nat) : (c.sf f v).irqWas = c.irqWas := (rfl)

@[simp] theorem Chan.poke_num (c : Chan) (a : Nat) (bs : List Byte) : (c.poke a bs).num = c.num := (rfl)
@[simp] theorem Chan.poke_now (c : Chan) (a : Nat) (bs : List Byte) : (c.poke a bs).now = c.now := (rfl)
@[simp] theorem Chan.poke_t0 (c : Chan) (a : Nat) (bs : List Byte) : (c.poke a bs).t0 = c.t0 := (rfl)
@[simp] theorem Chan.poke_hpdT0 (c : Chan) (a : Nat) (bs : List Byte) : (c.poke a bs).hpdT0 = c.hpdT0 := (rfl)
@[simp] theorem Chan.poke_fresh (c : Chan) (a : Nat) (bs : List Byte) : (c.poke a bs).fresh = c.fresh := (rfl)
@[simp] theorem Chan.poke_wrs (c : Chan) (a : Nat) (bs : List Byte) : (c.poke a bs).wrs = c.wrs := (rfl)
@[simp] theorem Chan.poke_retiring (c : Chan) (a : Nat) (bs : List Byte) : (c.poke a bs).retiring = c.retiring := (rfl)
@[simp] theorem Chan.poke_regs (c : Chan) (a : Nat) (bs : List Byte) : (c.poke a bs).regs = c.regs := (rfl)
@[simp] theorem Chan.poke_flaws (c : Chan) (a : Nat) (bs : List Byte) : (c.poke a bs).flaws = c.flaws := (rfl)
@[simp] theorem Chan.poke_erase (c : Chan) (a : Nat) (bs : List Byte) : (c.poke a bs).erase = c.erase := (rfl)
@[simp] theorem Chan.poke_log (c : Chan) (a : Nat) (bs : List Byte) : (c.poke a bs).log = c.log := (rfl)
@[simp] theorem Chan.poke_rate (c : Chan) (a : Nat) (bs : List Byte) : (c.poke a bs).rate = c.rate := (rfl)
@[simp] theorem Chan.poke_queues (c : Chan) (a : Nat) (bs : List Byte) : (c.poke a bs).queues = c.queues := (rfl)
@[simp] theorem Chan.poke_waiting (c : Chan) (a : Nat) (bs : List Byte) : (c.poke a bs).waiting = c.waiting := (rfl)
@[simp] theorem Chan.poke_ports (c : Chan) (a : Nat) (bs : List Byte) : (c.poke a bs).ports = c.ports := (rfl)
@[simp] theorem Chan.poke_loop (c : Chan) (a : Nat) (bs : List Byte) : (c.poke a bs).loop = c.loop := (rfl)
@[simp] theorem Chan.poke_ops (c : Chan) (a : Nat) (bs : List Byte) : (c.poke a bs).ops = c.ops := (rfl)
@[simp] theorem Chan.poke_opq (c : Chan) (a : Nat) (bs : List Byte) : (c.poke a bs).opq = c.opq := (rfl)
@[simp] theorem Chan.poke_nextTid (c : Chan) (a : Nat) (bs : List Byte) : (c.poke a bs).nextTid = c.nextTid := (rfl)
@[simp] theorem Chan.poke_breaks (c : Chan) (a : Nat) (bs : List Byte) : (c.poke a bs).breaks = c.breaks := (rfl)
@[simp] theorem Chan.poke_tc0 (c : Chan) (a : Nat) (bs : List Byte) : (c.poke a bs).tc0 = c.tc0 := (rfl)
@[simp] theorem Chan.poke_tc0Wait (c : Chan) (a : Nat) (bs : List Byte) : (c.poke a bs).tc0Wait = c.tc0Wait := (rfl)
@[simp] theorem Chan.poke_tc0Next (c : Chan) (a : Nat) (bs : List Byte) : (c.poke a bs).tc0Next = c.tc0Next := (rfl)
@[simp] theorem Chan.poke_fenceReq (c : Chan) (a : Nat) (bs : List Byte) : (c.poke a bs).fenceReq = c.fenceReq := (rfl)
@[simp] theorem Chan.poke_out (c : Chan) (a : Nat) (bs : List Byte) : (c.poke a bs).out = c.out := (rfl)
@[simp] theorem Chan.poke_cyc (c : Chan) (a : Nat) (bs : List Byte) : (c.poke a bs).cyc = c.cyc := (rfl)
@[simp] theorem Chan.poke_retakes (c : Chan) (a : Nat) (bs : List Byte) : (c.poke a bs).retakes = c.retakes := (rfl)
@[simp] theorem Chan.poke_calls (c : Chan) (a : Nat) (bs : List Byte) : (c.poke a bs).calls = c.calls := (rfl)
@[simp] theorem Chan.poke_mes (c : Chan) (a : Nat) (bs : List Byte) : (c.poke a bs).mes = c.mes := (rfl)
@[simp] theorem Chan.poke_phases (c : Chan) (a : Nat) (bs : List Byte) : (c.poke a bs).phases = c.phases := (rfl)
@[simp] theorem Chan.poke_ves (c : Chan) (a : Nat) (bs : List Byte) : (c.poke a bs).ves = c.ves := (rfl)
@[simp] theorem Chan.poke_fss (c : Chan) (a : Nat) (bs : List Byte) : (c.poke a bs).fss = c.fss := (rfl)
@[simp] theorem Chan.poke_gathered (c : Chan) (a : Nat) (bs : List Byte) : (c.poke a bs).gathered = c.gathered := (rfl)
@[simp] theorem Chan.poke_slots (c : Chan) (a : Nat) (bs : List Byte) : (c.poke a bs).slots = c.slots := (rfl)
@[simp] theorem Chan.poke_nextLaunch (c : Chan) (a : Nat) (bs : List Byte) : (c.poke a bs).nextLaunch = c.nextLaunch := (rfl)
@[simp] theorem Chan.poke_ttLast (c : Chan) (a : Nat) (bs : List Byte) : (c.poke a bs).ttLast = c.ttLast := (rfl)
@[simp] theorem Chan.poke_uu (c : Chan) (a : Nat) (bs : List Byte) : (c.poke a bs).uu = c.uu := (rfl)
@[simp] theorem Chan.poke_buddies (c : Chan) (a : Nat) (bs : List Byte) : (c.poke a bs).buddies = c.buddies := (rfl)
@[simp] theorem Chan.poke_bkts (c : Chan) (a : Nat) (bs : List Byte) : (c.poke a bs).bkts = c.bkts := (rfl)
@[simp] theorem Chan.poke_nextBkt (c : Chan) (a : Nat) (bs : List Byte) : (c.poke a bs).nextBkt = c.nextBkt := (rfl)
@[simp] theorem Chan.poke_cePass (c : Chan) (a : Nat) (bs : List Byte) : (c.poke a bs).cePass = c.cePass := (rfl)
@[simp] theorem Chan.poke_ceStage (c : Chan) (a : Nat) (bs : List Byte) : (c.poke a bs).ceStage = c.ceStage := (rfl)
@[simp] theorem Chan.poke_chart (c : Chan) (a : Nat) (bs : List Byte) : (c.poke a bs).chart = c.chart := (rfl)
@[simp] theorem Chan.poke_termSw (c : Chan) (a : Nat) (bs : List Byte) : (c.poke a bs).termSw = c.termSw := (rfl)
@[simp] theorem Chan.poke_sections (c : Chan) (a : Nat) (bs : List Byte) : (c.poke a bs).sections = c.sections := (rfl)
@[simp] theorem Chan.poke_boot (c : Chan) (a : Nat) (bs : List Byte) : (c.poke a bs).boot = c.boot := (rfl)
@[simp] theorem Chan.poke_hbs (c : Chan) (a : Nat) (bs : List Byte) : (c.poke a bs).hbs = c.hbs := (rfl)
@[simp] theorem Chan.poke_hbSeq (c : Chan) (a : Nat) (bs : List Byte) : (c.poke a bs).hbSeq = c.hbSeq := (rfl)
@[simp] theorem Chan.poke_hbSent (c : Chan) (a : Nat) (bs : List Byte) : (c.poke a bs).hbSent = c.hbSent := (rfl)
@[simp] theorem Chan.poke_hbTick (c : Chan) (a : Nat) (bs : List Byte) : (c.poke a bs).hbTick = c.hbTick := (rfl)
@[simp] theorem Chan.poke_acted (c : Chan) (a : Nat) (bs : List Byte) : (c.poke a bs).acted = c.acted := (rfl)
@[simp] theorem Chan.poke_searches (c : Chan) (a : Nat) (bs : List Byte) : (c.poke a bs).searches = c.searches := (rfl)
@[simp] theorem Chan.poke_altWaits (c : Chan) (a : Nat) (bs : List Byte) : (c.poke a bs).altWaits = c.altWaits := (rfl)
@[simp] theorem Chan.poke_altHeard (c : Chan) (a : Nat) (bs : List Byte) : (c.poke a bs).altHeard = c.altHeard := (rfl)
@[simp] theorem Chan.poke_spread (c : Chan) (a : Nat) (bs : List Byte) : (c.poke a bs).spread = c.spread := (rfl)
@[simp] theorem Chan.poke_claim (c : Chan) (a : Nat) (bs : List Byte) : (c.poke a bs).claim = c.claim := (rfl)
@[simp] theorem Chan.poke_recovers (c : Chan) (a : Nat) (bs : List Byte) : (c.poke a bs).recovers = c.recovers := (rfl)
@[simp] theorem Chan.poke_recSeen (c : Chan) (a : Nat) (bs : List Byte) : (c.poke a bs).recSeen = c.recSeen := (rfl)
@[simp] theorem Chan.poke_subRecover (c : Chan) (a : Nat) (bs : List Byte) : (c.poke a bs).subRecover = c.subRecover := (rfl)
@[simp] theorem Chan.poke_applying (c : Chan) (a : Nat) (bs : List Byte) : (c.poke a bs).applying = c.applying := (rfl)
@[simp] theorem Chan.poke_fencedAt (c : Chan) (a : Nat) (bs : List Byte) : (c.poke a bs).fencedAt = c.fencedAt := (rfl)
@[simp] theorem Chan.poke_bootstrap (c : Chan) (a : Nat) (bs : List Byte) : (c.poke a bs).bootstrap = c.bootstrap := (rfl)
@[simp] theorem Chan.poke_mbOut (c : Chan) (a : Nat) (bs : List Byte) : (c.poke a bs).mbOut = c.mbOut := (rfl)
@[simp] theorem Chan.poke_mbWait (c : Chan) (a : Nat) (bs : List Byte) : (c.poke a bs).mbWait = c.mbWait := (rfl)
@[simp] theorem Chan.poke_cores (c : Chan) (a : Nat) (bs : List Byte) : (c.poke a bs).cores = c.cores := (rfl)
@[simp] theorem Chan.poke_prios (c : Chan) (a : Nat) (bs : List Byte) : (c.poke a bs).prios = c.prios := (rfl)
@[simp] theorem Chan.poke_pres5 (c : Chan) (a : Nat) (bs : List Byte) : (c.poke a bs).pres5 = c.pres5 := (rfl)
@[simp] theorem Chan.poke_due5 (c : Chan) (a : Nat) (bs : List Byte) : (c.poke a bs).due5 = c.due5 := (rfl)
@[simp] theorem Chan.poke_ptrans (c : Chan) (a : Nat) (bs : List Byte) : (c.poke a bs).ptrans = c.ptrans := (rfl)
@[simp] theorem Chan.poke_quietSince (c : Chan) (a : Nat) (bs : List Byte) : (c.poke a bs).quietSince = c.quietSince := (rfl)
@[simp] theorem Chan.poke_noCompute (c : Chan) (a : Nat) (bs : List Byte) : (c.poke a bs).noCompute = c.noCompute := (rfl)
@[simp] theorem Chan.poke_en (c : Chan) (a : Nat) (bs : List Byte) : (c.poke a bs).en = c.en := (rfl)
@[simp] theorem Chan.poke_uc (c : Chan) (a : Nat) (bs : List Byte) : (c.poke a bs).uc = c.uc := (rfl)
@[simp] theorem Chan.poke_bands (c : Chan) (a : Nat) (bs : List Byte) : (c.poke a bs).bands = c.bands := (rfl)
@[simp] theorem Chan.poke_thermTick (c : Chan) (a : Nat) (bs : List Byte) : (c.poke a bs).thermTick = c.thermTick := (rfl)
@[simp] theorem Chan.poke_envTick (c : Chan) (a : Nat) (bs : List Byte) : (c.poke a bs).envTick = c.envTick := (rfl)
@[simp] theorem Chan.poke_sampTick (c : Chan) (a : Nat) (bs : List Byte) : (c.poke a bs).sampTick = c.sampTick := (rfl)
@[simp] theorem Chan.poke_sensBad (c : Chan) (a : Nat) (bs : List Byte) : (c.poke a bs).sensBad = c.sensBad := (rfl)
@[simp] theorem Chan.poke_refLost (c : Chan) (a : Nat) (bs : List Byte) : (c.poke a bs).refLost = c.refLost := (rfl)
@[simp] theorem Chan.poke_hlogHeld (c : Chan) (a : Nat) (bs : List Byte) : (c.poke a bs).hlogHeld = c.hlogHeld := (rfl)
@[simp] theorem Chan.poke_hpdGen (c : Chan) (a : Nat) (bs : List Byte) : (c.poke a bs).hpdGen = c.hpdGen := (rfl)
@[simp] theorem Chan.poke_hostUp (c : Chan) (a : Nat) (bs : List Byte) : (c.poke a bs).hostUp = c.hostUp := (rfl)
@[simp] theorem Chan.poke_hlogFull (c : Chan) (a : Nat) (bs : List Byte) : (c.poke a bs).hlogFull = c.hlogFull := (rfl)
@[simp] theorem Chan.poke_irqWas (c : Chan) (a : Nat) (bs : List Byte) : (c.poke a bs).irqWas = c.irqWas := (rfl)

@[simp] theorem Chan.setQueue_num (c : Chan) (q : Nat) (x : Queue) : (c.setQueue q x).num = c.num := (rfl)
@[simp] theorem Chan.setQueue_now (c : Chan) (q : Nat) (x : Queue) : (c.setQueue q x).now = c.now := (rfl)
@[simp] theorem Chan.setQueue_t0 (c : Chan) (q : Nat) (x : Queue) : (c.setQueue q x).t0 = c.t0 := (rfl)
@[simp] theorem Chan.setQueue_hpdT0 (c : Chan) (q : Nat) (x : Queue) : (c.setQueue q x).hpdT0 = c.hpdT0 := (rfl)
@[simp] theorem Chan.setQueue_fresh (c : Chan) (q : Nat) (x : Queue) : (c.setQueue q x).fresh = c.fresh := (rfl)
@[simp] theorem Chan.setQueue_wrs (c : Chan) (q : Nat) (x : Queue) : (c.setQueue q x).wrs = c.wrs := (rfl)
@[simp] theorem Chan.setQueue_retiring (c : Chan) (q : Nat) (x : Queue) : (c.setQueue q x).retiring = c.retiring := (rfl)
@[simp] theorem Chan.setQueue_mem (c : Chan) (q : Nat) (x : Queue) : (c.setQueue q x).mem = c.mem := (rfl)
@[simp] theorem Chan.setQueue_regs (c : Chan) (q : Nat) (x : Queue) : (c.setQueue q x).regs = c.regs := (rfl)
@[simp] theorem Chan.setQueue_flaws (c : Chan) (q : Nat) (x : Queue) : (c.setQueue q x).flaws = c.flaws := (rfl)
@[simp] theorem Chan.setQueue_erase (c : Chan) (q : Nat) (x : Queue) : (c.setQueue q x).erase = c.erase := (rfl)
@[simp] theorem Chan.setQueue_log (c : Chan) (q : Nat) (x : Queue) : (c.setQueue q x).log = c.log := (rfl)
@[simp] theorem Chan.setQueue_rate (c : Chan) (q : Nat) (x : Queue) : (c.setQueue q x).rate = c.rate := (rfl)
@[simp] theorem Chan.setQueue_waiting (c : Chan) (q : Nat) (x : Queue) : (c.setQueue q x).waiting = c.waiting := (rfl)
@[simp] theorem Chan.setQueue_ports (c : Chan) (q : Nat) (x : Queue) : (c.setQueue q x).ports = c.ports := (rfl)
@[simp] theorem Chan.setQueue_loop (c : Chan) (q : Nat) (x : Queue) : (c.setQueue q x).loop = c.loop := (rfl)
@[simp] theorem Chan.setQueue_ops (c : Chan) (q : Nat) (x : Queue) : (c.setQueue q x).ops = c.ops := (rfl)
@[simp] theorem Chan.setQueue_opq (c : Chan) (q : Nat) (x : Queue) : (c.setQueue q x).opq = c.opq := (rfl)
@[simp] theorem Chan.setQueue_nextTid (c : Chan) (q : Nat) (x : Queue) : (c.setQueue q x).nextTid = c.nextTid := (rfl)
@[simp] theorem Chan.setQueue_breaks (c : Chan) (q : Nat) (x : Queue) : (c.setQueue q x).breaks = c.breaks := (rfl)
@[simp] theorem Chan.setQueue_tc0 (c : Chan) (q : Nat) (x : Queue) : (c.setQueue q x).tc0 = c.tc0 := (rfl)
@[simp] theorem Chan.setQueue_tc0Wait (c : Chan) (q : Nat) (x : Queue) : (c.setQueue q x).tc0Wait = c.tc0Wait := (rfl)
@[simp] theorem Chan.setQueue_tc0Next (c : Chan) (q : Nat) (x : Queue) : (c.setQueue q x).tc0Next = c.tc0Next := (rfl)
@[simp] theorem Chan.setQueue_fenceReq (c : Chan) (q : Nat) (x : Queue) : (c.setQueue q x).fenceReq = c.fenceReq := (rfl)
@[simp] theorem Chan.setQueue_out (c : Chan) (q : Nat) (x : Queue) : (c.setQueue q x).out = c.out := (rfl)
@[simp] theorem Chan.setQueue_cyc (c : Chan) (q : Nat) (x : Queue) : (c.setQueue q x).cyc = c.cyc := (rfl)
@[simp] theorem Chan.setQueue_retakes (c : Chan) (q : Nat) (x : Queue) : (c.setQueue q x).retakes = c.retakes := (rfl)
@[simp] theorem Chan.setQueue_calls (c : Chan) (q : Nat) (x : Queue) : (c.setQueue q x).calls = c.calls := (rfl)
@[simp] theorem Chan.setQueue_mes (c : Chan) (q : Nat) (x : Queue) : (c.setQueue q x).mes = c.mes := (rfl)
@[simp] theorem Chan.setQueue_phases (c : Chan) (q : Nat) (x : Queue) : (c.setQueue q x).phases = c.phases := (rfl)
@[simp] theorem Chan.setQueue_ves (c : Chan) (q : Nat) (x : Queue) : (c.setQueue q x).ves = c.ves := (rfl)
@[simp] theorem Chan.setQueue_fss (c : Chan) (q : Nat) (x : Queue) : (c.setQueue q x).fss = c.fss := (rfl)
@[simp] theorem Chan.setQueue_gathered (c : Chan) (q : Nat) (x : Queue) : (c.setQueue q x).gathered = c.gathered := (rfl)
@[simp] theorem Chan.setQueue_slots (c : Chan) (q : Nat) (x : Queue) : (c.setQueue q x).slots = c.slots := (rfl)
@[simp] theorem Chan.setQueue_nextLaunch (c : Chan) (q : Nat) (x : Queue) : (c.setQueue q x).nextLaunch = c.nextLaunch := (rfl)
@[simp] theorem Chan.setQueue_ttLast (c : Chan) (q : Nat) (x : Queue) : (c.setQueue q x).ttLast = c.ttLast := (rfl)
@[simp] theorem Chan.setQueue_uu (c : Chan) (q : Nat) (x : Queue) : (c.setQueue q x).uu = c.uu := (rfl)
@[simp] theorem Chan.setQueue_buddies (c : Chan) (q : Nat) (x : Queue) : (c.setQueue q x).buddies = c.buddies := (rfl)
@[simp] theorem Chan.setQueue_bkts (c : Chan) (q : Nat) (x : Queue) : (c.setQueue q x).bkts = c.bkts := (rfl)
@[simp] theorem Chan.setQueue_nextBkt (c : Chan) (q : Nat) (x : Queue) : (c.setQueue q x).nextBkt = c.nextBkt := (rfl)
@[simp] theorem Chan.setQueue_cePass (c : Chan) (q : Nat) (x : Queue) : (c.setQueue q x).cePass = c.cePass := (rfl)
@[simp] theorem Chan.setQueue_ceStage (c : Chan) (q : Nat) (x : Queue) : (c.setQueue q x).ceStage = c.ceStage := (rfl)
@[simp] theorem Chan.setQueue_chart (c : Chan) (q : Nat) (x : Queue) : (c.setQueue q x).chart = c.chart := (rfl)
@[simp] theorem Chan.setQueue_termSw (c : Chan) (q : Nat) (x : Queue) : (c.setQueue q x).termSw = c.termSw := (rfl)
@[simp] theorem Chan.setQueue_sections (c : Chan) (q : Nat) (x : Queue) : (c.setQueue q x).sections = c.sections := (rfl)
@[simp] theorem Chan.setQueue_boot (c : Chan) (q : Nat) (x : Queue) : (c.setQueue q x).boot = c.boot := (rfl)
@[simp] theorem Chan.setQueue_hbs (c : Chan) (q : Nat) (x : Queue) : (c.setQueue q x).hbs = c.hbs := (rfl)
@[simp] theorem Chan.setQueue_hbSeq (c : Chan) (q : Nat) (x : Queue) : (c.setQueue q x).hbSeq = c.hbSeq := (rfl)
@[simp] theorem Chan.setQueue_hbSent (c : Chan) (q : Nat) (x : Queue) : (c.setQueue q x).hbSent = c.hbSent := (rfl)
@[simp] theorem Chan.setQueue_hbTick (c : Chan) (q : Nat) (x : Queue) : (c.setQueue q x).hbTick = c.hbTick := (rfl)
@[simp] theorem Chan.setQueue_acted (c : Chan) (q : Nat) (x : Queue) : (c.setQueue q x).acted = c.acted := (rfl)
@[simp] theorem Chan.setQueue_searches (c : Chan) (q : Nat) (x : Queue) : (c.setQueue q x).searches = c.searches := (rfl)
@[simp] theorem Chan.setQueue_altWaits (c : Chan) (q : Nat) (x : Queue) : (c.setQueue q x).altWaits = c.altWaits := (rfl)
@[simp] theorem Chan.setQueue_altHeard (c : Chan) (q : Nat) (x : Queue) : (c.setQueue q x).altHeard = c.altHeard := (rfl)
@[simp] theorem Chan.setQueue_spread (c : Chan) (q : Nat) (x : Queue) : (c.setQueue q x).spread = c.spread := (rfl)
@[simp] theorem Chan.setQueue_claim (c : Chan) (q : Nat) (x : Queue) : (c.setQueue q x).claim = c.claim := (rfl)
@[simp] theorem Chan.setQueue_recovers (c : Chan) (q : Nat) (x : Queue) : (c.setQueue q x).recovers = c.recovers := (rfl)
@[simp] theorem Chan.setQueue_recSeen (c : Chan) (q : Nat) (x : Queue) : (c.setQueue q x).recSeen = c.recSeen := (rfl)
@[simp] theorem Chan.setQueue_subRecover (c : Chan) (q : Nat) (x : Queue) : (c.setQueue q x).subRecover = c.subRecover := (rfl)
@[simp] theorem Chan.setQueue_applying (c : Chan) (q : Nat) (x : Queue) : (c.setQueue q x).applying = c.applying := (rfl)
@[simp] theorem Chan.setQueue_fencedAt (c : Chan) (q : Nat) (x : Queue) : (c.setQueue q x).fencedAt = c.fencedAt := (rfl)
@[simp] theorem Chan.setQueue_bootstrap (c : Chan) (q : Nat) (x : Queue) : (c.setQueue q x).bootstrap = c.bootstrap := (rfl)
@[simp] theorem Chan.setQueue_mbOut (c : Chan) (q : Nat) (x : Queue) : (c.setQueue q x).mbOut = c.mbOut := (rfl)
@[simp] theorem Chan.setQueue_mbWait (c : Chan) (q : Nat) (x : Queue) : (c.setQueue q x).mbWait = c.mbWait := (rfl)
@[simp] theorem Chan.setQueue_cores (c : Chan) (q : Nat) (x : Queue) : (c.setQueue q x).cores = c.cores := (rfl)
@[simp] theorem Chan.setQueue_prios (c : Chan) (q : Nat) (x : Queue) : (c.setQueue q x).prios = c.prios := (rfl)
@[simp] theorem Chan.setQueue_pres5 (c : Chan) (q : Nat) (x : Queue) : (c.setQueue q x).pres5 = c.pres5 := (rfl)
@[simp] theorem Chan.setQueue_due5 (c : Chan) (q : Nat) (x : Queue) : (c.setQueue q x).due5 = c.due5 := (rfl)
@[simp] theorem Chan.setQueue_ptrans (c : Chan) (q : Nat) (x : Queue) : (c.setQueue q x).ptrans = c.ptrans := (rfl)
@[simp] theorem Chan.setQueue_quietSince (c : Chan) (q : Nat) (x : Queue) : (c.setQueue q x).quietSince = c.quietSince := (rfl)
@[simp] theorem Chan.setQueue_noCompute (c : Chan) (q : Nat) (x : Queue) : (c.setQueue q x).noCompute = c.noCompute := (rfl)
@[simp] theorem Chan.setQueue_en (c : Chan) (q : Nat) (x : Queue) : (c.setQueue q x).en = c.en := (rfl)
@[simp] theorem Chan.setQueue_uc (c : Chan) (q : Nat) (x : Queue) : (c.setQueue q x).uc = c.uc := (rfl)
@[simp] theorem Chan.setQueue_bands (c : Chan) (q : Nat) (x : Queue) : (c.setQueue q x).bands = c.bands := (rfl)
@[simp] theorem Chan.setQueue_thermTick (c : Chan) (q : Nat) (x : Queue) : (c.setQueue q x).thermTick = c.thermTick := (rfl)
@[simp] theorem Chan.setQueue_envTick (c : Chan) (q : Nat) (x : Queue) : (c.setQueue q x).envTick = c.envTick := (rfl)
@[simp] theorem Chan.setQueue_sampTick (c : Chan) (q : Nat) (x : Queue) : (c.setQueue q x).sampTick = c.sampTick := (rfl)
@[simp] theorem Chan.setQueue_sensBad (c : Chan) (q : Nat) (x : Queue) : (c.setQueue q x).sensBad = c.sensBad := (rfl)
@[simp] theorem Chan.setQueue_refLost (c : Chan) (q : Nat) (x : Queue) : (c.setQueue q x).refLost = c.refLost := (rfl)
@[simp] theorem Chan.setQueue_hlogHeld (c : Chan) (q : Nat) (x : Queue) : (c.setQueue q x).hlogHeld = c.hlogHeld := (rfl)
@[simp] theorem Chan.setQueue_hpdGen (c : Chan) (q : Nat) (x : Queue) : (c.setQueue q x).hpdGen = c.hpdGen := (rfl)
@[simp] theorem Chan.setQueue_hostUp (c : Chan) (q : Nat) (x : Queue) : (c.setQueue q x).hostUp = c.hostUp := (rfl)
@[simp] theorem Chan.setQueue_hlogFull (c : Chan) (q : Nat) (x : Queue) : (c.setQueue q x).hlogFull = c.hlogFull := (rfl)
@[simp] theorem Chan.setQueue_irqWas (c : Chan) (q : Nat) (x : Queue) : (c.setQueue q x).irqWas = c.irqWas := (rfl)

@[simp] theorem Chan.rateBump_num (c : Chan) (k n : Nat) : (c.rateBump k n).num = c.num := (rfl)
@[simp] theorem Chan.rateBump_now (c : Chan) (k n : Nat) : (c.rateBump k n).now = c.now := (rfl)
@[simp] theorem Chan.rateBump_t0 (c : Chan) (k n : Nat) : (c.rateBump k n).t0 = c.t0 := (rfl)
@[simp] theorem Chan.rateBump_hpdT0 (c : Chan) (k n : Nat) : (c.rateBump k n).hpdT0 = c.hpdT0 := (rfl)
@[simp] theorem Chan.rateBump_fresh (c : Chan) (k n : Nat) : (c.rateBump k n).fresh = c.fresh := (rfl)
@[simp] theorem Chan.rateBump_wrs (c : Chan) (k n : Nat) : (c.rateBump k n).wrs = c.wrs := (rfl)
@[simp] theorem Chan.rateBump_retiring (c : Chan) (k n : Nat) : (c.rateBump k n).retiring = c.retiring := (rfl)
@[simp] theorem Chan.rateBump_mem (c : Chan) (k n : Nat) : (c.rateBump k n).mem = c.mem := (rfl)
@[simp] theorem Chan.rateBump_regs (c : Chan) (k n : Nat) : (c.rateBump k n).regs = c.regs := (rfl)
@[simp] theorem Chan.rateBump_flaws (c : Chan) (k n : Nat) : (c.rateBump k n).flaws = c.flaws := (rfl)
@[simp] theorem Chan.rateBump_erase (c : Chan) (k n : Nat) : (c.rateBump k n).erase = c.erase := (rfl)
@[simp] theorem Chan.rateBump_log (c : Chan) (k n : Nat) : (c.rateBump k n).log = c.log := (rfl)
@[simp] theorem Chan.rateBump_queues (c : Chan) (k n : Nat) : (c.rateBump k n).queues = c.queues := (rfl)
@[simp] theorem Chan.rateBump_waiting (c : Chan) (k n : Nat) : (c.rateBump k n).waiting = c.waiting := (rfl)
@[simp] theorem Chan.rateBump_ports (c : Chan) (k n : Nat) : (c.rateBump k n).ports = c.ports := (rfl)
@[simp] theorem Chan.rateBump_loop (c : Chan) (k n : Nat) : (c.rateBump k n).loop = c.loop := (rfl)
@[simp] theorem Chan.rateBump_ops (c : Chan) (k n : Nat) : (c.rateBump k n).ops = c.ops := (rfl)
@[simp] theorem Chan.rateBump_opq (c : Chan) (k n : Nat) : (c.rateBump k n).opq = c.opq := (rfl)
@[simp] theorem Chan.rateBump_nextTid (c : Chan) (k n : Nat) : (c.rateBump k n).nextTid = c.nextTid := (rfl)
@[simp] theorem Chan.rateBump_breaks (c : Chan) (k n : Nat) : (c.rateBump k n).breaks = c.breaks := (rfl)
@[simp] theorem Chan.rateBump_tc0 (c : Chan) (k n : Nat) : (c.rateBump k n).tc0 = c.tc0 := (rfl)
@[simp] theorem Chan.rateBump_tc0Wait (c : Chan) (k n : Nat) : (c.rateBump k n).tc0Wait = c.tc0Wait := (rfl)
@[simp] theorem Chan.rateBump_tc0Next (c : Chan) (k n : Nat) : (c.rateBump k n).tc0Next = c.tc0Next := (rfl)
@[simp] theorem Chan.rateBump_fenceReq (c : Chan) (k n : Nat) : (c.rateBump k n).fenceReq = c.fenceReq := (rfl)
@[simp] theorem Chan.rateBump_out (c : Chan) (k n : Nat) : (c.rateBump k n).out = c.out := (rfl)
@[simp] theorem Chan.rateBump_cyc (c : Chan) (k n : Nat) : (c.rateBump k n).cyc = c.cyc := (rfl)
@[simp] theorem Chan.rateBump_retakes (c : Chan) (k n : Nat) : (c.rateBump k n).retakes = c.retakes := (rfl)
@[simp] theorem Chan.rateBump_calls (c : Chan) (k n : Nat) : (c.rateBump k n).calls = c.calls := (rfl)
@[simp] theorem Chan.rateBump_mes (c : Chan) (k n : Nat) : (c.rateBump k n).mes = c.mes := (rfl)
@[simp] theorem Chan.rateBump_phases (c : Chan) (k n : Nat) : (c.rateBump k n).phases = c.phases := (rfl)
@[simp] theorem Chan.rateBump_ves (c : Chan) (k n : Nat) : (c.rateBump k n).ves = c.ves := (rfl)
@[simp] theorem Chan.rateBump_fss (c : Chan) (k n : Nat) : (c.rateBump k n).fss = c.fss := (rfl)
@[simp] theorem Chan.rateBump_gathered (c : Chan) (k n : Nat) : (c.rateBump k n).gathered = c.gathered := (rfl)
@[simp] theorem Chan.rateBump_slots (c : Chan) (k n : Nat) : (c.rateBump k n).slots = c.slots := (rfl)
@[simp] theorem Chan.rateBump_nextLaunch (c : Chan) (k n : Nat) : (c.rateBump k n).nextLaunch = c.nextLaunch := (rfl)
@[simp] theorem Chan.rateBump_ttLast (c : Chan) (k n : Nat) : (c.rateBump k n).ttLast = c.ttLast := (rfl)
@[simp] theorem Chan.rateBump_uu (c : Chan) (k n : Nat) : (c.rateBump k n).uu = c.uu := (rfl)
@[simp] theorem Chan.rateBump_buddies (c : Chan) (k n : Nat) : (c.rateBump k n).buddies = c.buddies := (rfl)
@[simp] theorem Chan.rateBump_bkts (c : Chan) (k n : Nat) : (c.rateBump k n).bkts = c.bkts := (rfl)
@[simp] theorem Chan.rateBump_nextBkt (c : Chan) (k n : Nat) : (c.rateBump k n).nextBkt = c.nextBkt := (rfl)
@[simp] theorem Chan.rateBump_cePass (c : Chan) (k n : Nat) : (c.rateBump k n).cePass = c.cePass := (rfl)
@[simp] theorem Chan.rateBump_ceStage (c : Chan) (k n : Nat) : (c.rateBump k n).ceStage = c.ceStage := (rfl)
@[simp] theorem Chan.rateBump_chart (c : Chan) (k n : Nat) : (c.rateBump k n).chart = c.chart := (rfl)
@[simp] theorem Chan.rateBump_termSw (c : Chan) (k n : Nat) : (c.rateBump k n).termSw = c.termSw := (rfl)
@[simp] theorem Chan.rateBump_sections (c : Chan) (k n : Nat) : (c.rateBump k n).sections = c.sections := (rfl)
@[simp] theorem Chan.rateBump_boot (c : Chan) (k n : Nat) : (c.rateBump k n).boot = c.boot := (rfl)
@[simp] theorem Chan.rateBump_hbs (c : Chan) (k n : Nat) : (c.rateBump k n).hbs = c.hbs := (rfl)
@[simp] theorem Chan.rateBump_hbSeq (c : Chan) (k n : Nat) : (c.rateBump k n).hbSeq = c.hbSeq := (rfl)
@[simp] theorem Chan.rateBump_hbSent (c : Chan) (k n : Nat) : (c.rateBump k n).hbSent = c.hbSent := (rfl)
@[simp] theorem Chan.rateBump_hbTick (c : Chan) (k n : Nat) : (c.rateBump k n).hbTick = c.hbTick := (rfl)
@[simp] theorem Chan.rateBump_acted (c : Chan) (k n : Nat) : (c.rateBump k n).acted = c.acted := (rfl)
@[simp] theorem Chan.rateBump_searches (c : Chan) (k n : Nat) : (c.rateBump k n).searches = c.searches := (rfl)
@[simp] theorem Chan.rateBump_altWaits (c : Chan) (k n : Nat) : (c.rateBump k n).altWaits = c.altWaits := (rfl)
@[simp] theorem Chan.rateBump_altHeard (c : Chan) (k n : Nat) : (c.rateBump k n).altHeard = c.altHeard := (rfl)
@[simp] theorem Chan.rateBump_spread (c : Chan) (k n : Nat) : (c.rateBump k n).spread = c.spread := (rfl)
@[simp] theorem Chan.rateBump_claim (c : Chan) (k n : Nat) : (c.rateBump k n).claim = c.claim := (rfl)
@[simp] theorem Chan.rateBump_recovers (c : Chan) (k n : Nat) : (c.rateBump k n).recovers = c.recovers := (rfl)
@[simp] theorem Chan.rateBump_recSeen (c : Chan) (k n : Nat) : (c.rateBump k n).recSeen = c.recSeen := (rfl)
@[simp] theorem Chan.rateBump_subRecover (c : Chan) (k n : Nat) : (c.rateBump k n).subRecover = c.subRecover := (rfl)
@[simp] theorem Chan.rateBump_applying (c : Chan) (k n : Nat) : (c.rateBump k n).applying = c.applying := (rfl)
@[simp] theorem Chan.rateBump_fencedAt (c : Chan) (k n : Nat) : (c.rateBump k n).fencedAt = c.fencedAt := (rfl)
@[simp] theorem Chan.rateBump_bootstrap (c : Chan) (k n : Nat) : (c.rateBump k n).bootstrap = c.bootstrap := (rfl)
@[simp] theorem Chan.rateBump_mbOut (c : Chan) (k n : Nat) : (c.rateBump k n).mbOut = c.mbOut := (rfl)
@[simp] theorem Chan.rateBump_mbWait (c : Chan) (k n : Nat) : (c.rateBump k n).mbWait = c.mbWait := (rfl)
@[simp] theorem Chan.rateBump_cores (c : Chan) (k n : Nat) : (c.rateBump k n).cores = c.cores := (rfl)
@[simp] theorem Chan.rateBump_prios (c : Chan) (k n : Nat) : (c.rateBump k n).prios = c.prios := (rfl)
@[simp] theorem Chan.rateBump_pres5 (c : Chan) (k n : Nat) : (c.rateBump k n).pres5 = c.pres5 := (rfl)
@[simp] theorem Chan.rateBump_due5 (c : Chan) (k n : Nat) : (c.rateBump k n).due5 = c.due5 := (rfl)
@[simp] theorem Chan.rateBump_ptrans (c : Chan) (k n : Nat) : (c.rateBump k n).ptrans = c.ptrans := (rfl)
@[simp] theorem Chan.rateBump_quietSince (c : Chan) (k n : Nat) : (c.rateBump k n).quietSince = c.quietSince := (rfl)
@[simp] theorem Chan.rateBump_noCompute (c : Chan) (k n : Nat) : (c.rateBump k n).noCompute = c.noCompute := (rfl)
@[simp] theorem Chan.rateBump_en (c : Chan) (k n : Nat) : (c.rateBump k n).en = c.en := (rfl)
@[simp] theorem Chan.rateBump_uc (c : Chan) (k n : Nat) : (c.rateBump k n).uc = c.uc := (rfl)
@[simp] theorem Chan.rateBump_bands (c : Chan) (k n : Nat) : (c.rateBump k n).bands = c.bands := (rfl)
@[simp] theorem Chan.rateBump_thermTick (c : Chan) (k n : Nat) : (c.rateBump k n).thermTick = c.thermTick := (rfl)
@[simp] theorem Chan.rateBump_envTick (c : Chan) (k n : Nat) : (c.rateBump k n).envTick = c.envTick := (rfl)
@[simp] theorem Chan.rateBump_sampTick (c : Chan) (k n : Nat) : (c.rateBump k n).sampTick = c.sampTick := (rfl)
@[simp] theorem Chan.rateBump_sensBad (c : Chan) (k n : Nat) : (c.rateBump k n).sensBad = c.sensBad := (rfl)
@[simp] theorem Chan.rateBump_refLost (c : Chan) (k n : Nat) : (c.rateBump k n).refLost = c.refLost := (rfl)
@[simp] theorem Chan.rateBump_hlogHeld (c : Chan) (k n : Nat) : (c.rateBump k n).hlogHeld = c.hlogHeld := (rfl)
@[simp] theorem Chan.rateBump_hpdGen (c : Chan) (k n : Nat) : (c.rateBump k n).hpdGen = c.hpdGen := (rfl)
@[simp] theorem Chan.rateBump_hostUp (c : Chan) (k n : Nat) : (c.rateBump k n).hostUp = c.hostUp := (rfl)
@[simp] theorem Chan.rateBump_hlogFull (c : Chan) (k n : Nat) : (c.rateBump k n).hlogFull = c.hlogFull := (rfl)
@[simp] theorem Chan.rateBump_irqWas (c : Chan) (k n : Nat) : (c.rateBump k n).irqWas = c.irqWas := (rfl)

@[simp] theorem Chan.noteCyc_num (c : Chan) (o a b : Nat) : (c.noteCyc o a b).num = c.num := (rfl)
@[simp] theorem Chan.noteCyc_now (c : Chan) (o a b : Nat) : (c.noteCyc o a b).now = c.now := (rfl)
@[simp] theorem Chan.noteCyc_t0 (c : Chan) (o a b : Nat) : (c.noteCyc o a b).t0 = c.t0 := (rfl)
@[simp] theorem Chan.noteCyc_hpdT0 (c : Chan) (o a b : Nat) : (c.noteCyc o a b).hpdT0 = c.hpdT0 := (rfl)
@[simp] theorem Chan.noteCyc_fresh (c : Chan) (o a b : Nat) : (c.noteCyc o a b).fresh = c.fresh := (rfl)
@[simp] theorem Chan.noteCyc_wrs (c : Chan) (o a b : Nat) : (c.noteCyc o a b).wrs = c.wrs := (rfl)
@[simp] theorem Chan.noteCyc_retiring (c : Chan) (o a b : Nat) : (c.noteCyc o a b).retiring = c.retiring := (rfl)
@[simp] theorem Chan.noteCyc_mem (c : Chan) (o a b : Nat) : (c.noteCyc o a b).mem = c.mem := (rfl)
@[simp] theorem Chan.noteCyc_regs (c : Chan) (o a b : Nat) : (c.noteCyc o a b).regs = c.regs := (rfl)
@[simp] theorem Chan.noteCyc_flaws (c : Chan) (o a b : Nat) : (c.noteCyc o a b).flaws = c.flaws := (rfl)
@[simp] theorem Chan.noteCyc_erase (c : Chan) (o a b : Nat) : (c.noteCyc o a b).erase = c.erase := (rfl)
@[simp] theorem Chan.noteCyc_log (c : Chan) (o a b : Nat) : (c.noteCyc o a b).log = c.log := (rfl)
@[simp] theorem Chan.noteCyc_rate (c : Chan) (o a b : Nat) : (c.noteCyc o a b).rate = c.rate := (rfl)
@[simp] theorem Chan.noteCyc_queues (c : Chan) (o a b : Nat) : (c.noteCyc o a b).queues = c.queues := (rfl)
@[simp] theorem Chan.noteCyc_waiting (c : Chan) (o a b : Nat) : (c.noteCyc o a b).waiting = c.waiting := (rfl)
@[simp] theorem Chan.noteCyc_ports (c : Chan) (o a b : Nat) : (c.noteCyc o a b).ports = c.ports := (rfl)
@[simp] theorem Chan.noteCyc_loop (c : Chan) (o a b : Nat) : (c.noteCyc o a b).loop = c.loop := (rfl)
@[simp] theorem Chan.noteCyc_ops (c : Chan) (o a b : Nat) : (c.noteCyc o a b).ops = c.ops := (rfl)
@[simp] theorem Chan.noteCyc_opq (c : Chan) (o a b : Nat) : (c.noteCyc o a b).opq = c.opq := (rfl)
@[simp] theorem Chan.noteCyc_nextTid (c : Chan) (o a b : Nat) : (c.noteCyc o a b).nextTid = c.nextTid := (rfl)
@[simp] theorem Chan.noteCyc_breaks (c : Chan) (o a b : Nat) : (c.noteCyc o a b).breaks = c.breaks := (rfl)
@[simp] theorem Chan.noteCyc_tc0 (c : Chan) (o a b : Nat) : (c.noteCyc o a b).tc0 = c.tc0 := (rfl)
@[simp] theorem Chan.noteCyc_tc0Wait (c : Chan) (o a b : Nat) : (c.noteCyc o a b).tc0Wait = c.tc0Wait := (rfl)
@[simp] theorem Chan.noteCyc_tc0Next (c : Chan) (o a b : Nat) : (c.noteCyc o a b).tc0Next = c.tc0Next := (rfl)
@[simp] theorem Chan.noteCyc_fenceReq (c : Chan) (o a b : Nat) : (c.noteCyc o a b).fenceReq = c.fenceReq := (rfl)
@[simp] theorem Chan.noteCyc_out (c : Chan) (o a b : Nat) : (c.noteCyc o a b).out = c.out := (rfl)
@[simp] theorem Chan.noteCyc_retakes (c : Chan) (o a b : Nat) : (c.noteCyc o a b).retakes = c.retakes := (rfl)
@[simp] theorem Chan.noteCyc_calls (c : Chan) (o a b : Nat) : (c.noteCyc o a b).calls = c.calls := (rfl)
@[simp] theorem Chan.noteCyc_mes (c : Chan) (o a b : Nat) : (c.noteCyc o a b).mes = c.mes := (rfl)
@[simp] theorem Chan.noteCyc_phases (c : Chan) (o a b : Nat) : (c.noteCyc o a b).phases = c.phases := (rfl)
@[simp] theorem Chan.noteCyc_ves (c : Chan) (o a b : Nat) : (c.noteCyc o a b).ves = c.ves := (rfl)
@[simp] theorem Chan.noteCyc_fss (c : Chan) (o a b : Nat) : (c.noteCyc o a b).fss = c.fss := (rfl)
@[simp] theorem Chan.noteCyc_gathered (c : Chan) (o a b : Nat) : (c.noteCyc o a b).gathered = c.gathered := (rfl)
@[simp] theorem Chan.noteCyc_slots (c : Chan) (o a b : Nat) : (c.noteCyc o a b).slots = c.slots := (rfl)
@[simp] theorem Chan.noteCyc_nextLaunch (c : Chan) (o a b : Nat) : (c.noteCyc o a b).nextLaunch = c.nextLaunch := (rfl)
@[simp] theorem Chan.noteCyc_ttLast (c : Chan) (o a b : Nat) : (c.noteCyc o a b).ttLast = c.ttLast := (rfl)
@[simp] theorem Chan.noteCyc_uu (c : Chan) (o a b : Nat) : (c.noteCyc o a b).uu = c.uu := (rfl)
@[simp] theorem Chan.noteCyc_buddies (c : Chan) (o a b : Nat) : (c.noteCyc o a b).buddies = c.buddies := (rfl)
@[simp] theorem Chan.noteCyc_bkts (c : Chan) (o a b : Nat) : (c.noteCyc o a b).bkts = c.bkts := (rfl)
@[simp] theorem Chan.noteCyc_nextBkt (c : Chan) (o a b : Nat) : (c.noteCyc o a b).nextBkt = c.nextBkt := (rfl)
@[simp] theorem Chan.noteCyc_cePass (c : Chan) (o a b : Nat) : (c.noteCyc o a b).cePass = c.cePass := (rfl)
@[simp] theorem Chan.noteCyc_ceStage (c : Chan) (o a b : Nat) : (c.noteCyc o a b).ceStage = c.ceStage := (rfl)
@[simp] theorem Chan.noteCyc_chart (c : Chan) (o a b : Nat) : (c.noteCyc o a b).chart = c.chart := (rfl)
@[simp] theorem Chan.noteCyc_termSw (c : Chan) (o a b : Nat) : (c.noteCyc o a b).termSw = c.termSw := (rfl)
@[simp] theorem Chan.noteCyc_sections (c : Chan) (o a b : Nat) : (c.noteCyc o a b).sections = c.sections := (rfl)
@[simp] theorem Chan.noteCyc_boot (c : Chan) (o a b : Nat) : (c.noteCyc o a b).boot = c.boot := (rfl)
@[simp] theorem Chan.noteCyc_hbs (c : Chan) (o a b : Nat) : (c.noteCyc o a b).hbs = c.hbs := (rfl)
@[simp] theorem Chan.noteCyc_hbSeq (c : Chan) (o a b : Nat) : (c.noteCyc o a b).hbSeq = c.hbSeq := (rfl)
@[simp] theorem Chan.noteCyc_hbSent (c : Chan) (o a b : Nat) : (c.noteCyc o a b).hbSent = c.hbSent := (rfl)
@[simp] theorem Chan.noteCyc_hbTick (c : Chan) (o a b : Nat) : (c.noteCyc o a b).hbTick = c.hbTick := (rfl)
@[simp] theorem Chan.noteCyc_acted (c : Chan) (o a b : Nat) : (c.noteCyc o a b).acted = c.acted := (rfl)
@[simp] theorem Chan.noteCyc_searches (c : Chan) (o a b : Nat) : (c.noteCyc o a b).searches = c.searches := (rfl)
@[simp] theorem Chan.noteCyc_altWaits (c : Chan) (o a b : Nat) : (c.noteCyc o a b).altWaits = c.altWaits := (rfl)
@[simp] theorem Chan.noteCyc_altHeard (c : Chan) (o a b : Nat) : (c.noteCyc o a b).altHeard = c.altHeard := (rfl)
@[simp] theorem Chan.noteCyc_spread (c : Chan) (o a b : Nat) : (c.noteCyc o a b).spread = c.spread := (rfl)
@[simp] theorem Chan.noteCyc_claim (c : Chan) (o a b : Nat) : (c.noteCyc o a b).claim = c.claim := (rfl)
@[simp] theorem Chan.noteCyc_recovers (c : Chan) (o a b : Nat) : (c.noteCyc o a b).recovers = c.recovers := (rfl)
@[simp] theorem Chan.noteCyc_recSeen (c : Chan) (o a b : Nat) : (c.noteCyc o a b).recSeen = c.recSeen := (rfl)
@[simp] theorem Chan.noteCyc_subRecover (c : Chan) (o a b : Nat) : (c.noteCyc o a b).subRecover = c.subRecover := (rfl)
@[simp] theorem Chan.noteCyc_applying (c : Chan) (o a b : Nat) : (c.noteCyc o a b).applying = c.applying := (rfl)
@[simp] theorem Chan.noteCyc_fencedAt (c : Chan) (o a b : Nat) : (c.noteCyc o a b).fencedAt = c.fencedAt := (rfl)
@[simp] theorem Chan.noteCyc_bootstrap (c : Chan) (o a b : Nat) : (c.noteCyc o a b).bootstrap = c.bootstrap := (rfl)
@[simp] theorem Chan.noteCyc_mbOut (c : Chan) (o a b : Nat) : (c.noteCyc o a b).mbOut = c.mbOut := (rfl)
@[simp] theorem Chan.noteCyc_mbWait (c : Chan) (o a b : Nat) : (c.noteCyc o a b).mbWait = c.mbWait := (rfl)
@[simp] theorem Chan.noteCyc_cores (c : Chan) (o a b : Nat) : (c.noteCyc o a b).cores = c.cores := (rfl)
@[simp] theorem Chan.noteCyc_prios (c : Chan) (o a b : Nat) : (c.noteCyc o a b).prios = c.prios := (rfl)
@[simp] theorem Chan.noteCyc_pres5 (c : Chan) (o a b : Nat) : (c.noteCyc o a b).pres5 = c.pres5 := (rfl)
@[simp] theorem Chan.noteCyc_due5 (c : Chan) (o a b : Nat) : (c.noteCyc o a b).due5 = c.due5 := (rfl)
@[simp] theorem Chan.noteCyc_ptrans (c : Chan) (o a b : Nat) : (c.noteCyc o a b).ptrans = c.ptrans := (rfl)
@[simp] theorem Chan.noteCyc_quietSince (c : Chan) (o a b : Nat) : (c.noteCyc o a b).quietSince = c.quietSince := (rfl)
@[simp] theorem Chan.noteCyc_noCompute (c : Chan) (o a b : Nat) : (c.noteCyc o a b).noCompute = c.noCompute := (rfl)
@[simp] theorem Chan.noteCyc_en (c : Chan) (o a b : Nat) : (c.noteCyc o a b).en = c.en := (rfl)
@[simp] theorem Chan.noteCyc_uc (c : Chan) (o a b : Nat) : (c.noteCyc o a b).uc = c.uc := (rfl)
@[simp] theorem Chan.noteCyc_bands (c : Chan) (o a b : Nat) : (c.noteCyc o a b).bands = c.bands := (rfl)
@[simp] theorem Chan.noteCyc_thermTick (c : Chan) (o a b : Nat) : (c.noteCyc o a b).thermTick = c.thermTick := (rfl)
@[simp] theorem Chan.noteCyc_envTick (c : Chan) (o a b : Nat) : (c.noteCyc o a b).envTick = c.envTick := (rfl)
@[simp] theorem Chan.noteCyc_sampTick (c : Chan) (o a b : Nat) : (c.noteCyc o a b).sampTick = c.sampTick := (rfl)
@[simp] theorem Chan.noteCyc_sensBad (c : Chan) (o a b : Nat) : (c.noteCyc o a b).sensBad = c.sensBad := (rfl)
@[simp] theorem Chan.noteCyc_refLost (c : Chan) (o a b : Nat) : (c.noteCyc o a b).refLost = c.refLost := (rfl)
@[simp] theorem Chan.noteCyc_hlogHeld (c : Chan) (o a b : Nat) : (c.noteCyc o a b).hlogHeld = c.hlogHeld := (rfl)
@[simp] theorem Chan.noteCyc_hpdGen (c : Chan) (o a b : Nat) : (c.noteCyc o a b).hpdGen = c.hpdGen := (rfl)
@[simp] theorem Chan.noteCyc_hostUp (c : Chan) (o a b : Nat) : (c.noteCyc o a b).hostUp = c.hostUp := (rfl)
@[simp] theorem Chan.noteCyc_hlogFull (c : Chan) (o a b : Nat) : (c.noteCyc o a b).hlogFull = c.hlogFull := (rfl)
@[simp] theorem Chan.noteCyc_irqWas (c : Chan) (o a b : Nat) : (c.noteCyc o a b).irqWas = c.irqWas := (rfl)

@[simp] theorem Hpd.wr_now (h : Hpd) (o v : Nat) : (h.wr o v).now = h.now := (rfl)
@[simp] theorem Hpd.wr_t0 (h : Hpd) (o v : Nat) : (h.wr o v).t0 = h.t0 := (rfl)
@[simp] theorem Hpd.wr_fresh (h : Hpd) (o v : Nat) : (h.wr o v).fresh = h.fresh := (rfl)
@[simp] theorem Hpd.wr_log (h : Hpd) (o v : Nat) : (h.wr o v).log = h.log := (rfl)
@[simp] theorem Hpd.wr_nv (h : Hpd) (o v : Nat) : (h.wr o v).nv = h.nv := (rfl)
@[simp] theorem Hpd.wr_nvCount (h : Hpd) (o v : Nat) : (h.wr o v).nvCount = h.nvCount := (rfl)
@[simp] theorem Hpd.wr_rate (h : Hpd) (o v : Nat) : (h.wr o v).rate = h.rate := (rfl)
@[simp] theorem Hpd.wr_flash (h : Hpd) (o v : Nat) : (h.wr o v).flash = h.flash := (rfl)
@[simp] theorem Hpd.wr_secBuf (h : Hpd) (o v : Nat) : (h.wr o v).secBuf = h.secBuf := (rfl)
@[simp] theorem Hpd.wr_sylBuf (h : Hpd) (o v : Nat) : (h.wr o v).sylBuf = h.sylBuf := (rfl)
@[simp] theorem Hpd.wr_header (h : Hpd) (o v : Nat) : (h.wr o v).header = h.header := (rfl)
@[simp] theorem Hpd.wr_p0 (h : Hpd) (o v : Nat) : (h.wr o v).p0 = h.p0 := (rfl)
@[simp] theorem Hpd.wr_keys (h : Hpd) (o v : Nat) : (h.wr o v).keys = h.keys := (rfl)
@[simp] theorem Hpd.wr_keyFuses (h : Hpd) (o v : Nat) : (h.wr o v).keyFuses = h.keyFuses := (rfl)
@[simp] theorem Hpd.wr_idFuse (h : Hpd) (o v : Nat) : (h.wr o v).idFuse = h.idFuse := (rfl)
@[simp] theorem Hpd.wr_seeds (h : Hpd) (o v : Nat) : (h.wr o v).seeds = h.seeds := (rfl)
@[simp] theorem Hpd.wr_secFailed (h : Hpd) (o v : Nat) : (h.wr o v).secFailed = h.secFailed := (rfl)
@[simp] theorem Hpd.wr_nonce (h : Hpd) (o v : Nat) : (h.wr o v).nonce = h.nonce := (rfl)
@[simp] theorem Hpd.wr_secOp (h : Hpd) (o v : Nat) : (h.wr o v).secOp = h.secOp := (rfl)
@[simp] theorem Hpd.wr_sylOp (h : Hpd) (o v : Nat) : (h.wr o v).sylOp = h.sylOp := (rfl)
@[simp] theorem Hpd.wr_good (h : Hpd) (o v : Nat) : (h.wr o v).good = h.good := (rfl)
@[simp] theorem Hpd.wr_conv (h : Hpd) (o v : Nat) : (h.wr o v).conv = h.conv := (rfl)
@[simp] theorem Hpd.wr_inq (h : Hpd) (o v : Nat) : (h.wr o v).inq = h.inq := (rfl)
@[simp] theorem Hpd.wr_lastIn (h : Hpd) (o v : Nat) : (h.wr o v).lastIn = h.lastIn := (rfl)
@[simp] theorem Hpd.wr_outb (h : Hpd) (o v : Nat) : (h.wr o v).outb = h.outb := (rfl)
@[simp] theorem Hpd.wr_reads (h : Hpd) (o v : Nat) : (h.wr o v).reads = h.reads := (rfl)
@[simp] theorem Hpd.wr_winRd (h : Hpd) (o v : Nat) : (h.wr o v).winRd = h.winRd := (rfl)
@[simp] theorem Hpd.wr_perm (h : Hpd) (o v : Nat) : (h.wr o v).perm = h.perm := (rfl)
@[simp] theorem Hpd.wr_mps (h : Hpd) (o v : Nat) : (h.wr o v).mps = h.mps := (rfl)
@[simp] theorem Hpd.wr_h2d (h : Hpd) (o v : Nat) : (h.wr o v).h2d = h.h2d := (rfl)
@[simp] theorem Hpd.wr_d2h (h : Hpd) (o v : Nat) : (h.wr o v).d2h = h.d2h := (rfl)
@[simp] theorem Hpd.wr_h2dMsg (h : Hpd) (o v : Nat) : (h.wr o v).h2dMsg = h.h2dMsg := (rfl)
@[simp] theorem Hpd.wr_hdm (h : Hpd) (o v : Nat) : (h.wr o v).hdm = h.hdm := (rfl)
@[simp] theorem Hpd.wr_cxlMem (h : Hpd) (o v : Nat) : (h.wr o v).cxlMem = h.cxlMem := (rfl)
@[simp] theorem Hpd.wr_mrrs (h : Hpd) (o v : Nat) : (h.wr o v).mrrs = h.mrrs := (rfl)
@[simp] theorem Hpd.wr_d3 (h : Hpd) (o v : Nat) : (h.wr o v).d3 = h.d3 := (rfl)
@[simp] theorem Hpd.wr_aer (h : Hpd) (o v : Nat) : (h.wr o v).aer = h.aer := (rfl)
@[simp] theorem Hpd.wr_hostAns (h : Hpd) (o v : Nat) : (h.wr o v).hostAns = h.hostAns := (rfl)
@[simp] theorem Hpd.wr_msix (h : Hpd) (o v : Nat) : (h.wr o v).msix = h.msix := (rfl)
@[simp] theorem Hpd.wr_mask (h : Hpd) (o v : Nat) : (h.wr o v).mask = h.mask := (rfl)
@[simp] theorem Hpd.wr_pba (h : Hpd) (o v : Nat) : (h.wr o v).pba = h.pba := (rfl)
@[simp] theorem Hpd.wr_sent (h : Hpd) (o v : Nat) : (h.wr o v).sent = h.sent := (rfl)
@[simp] theorem Hpd.wr_uart (h : Hpd) (o v : Nat) : (h.wr o v).uart = h.uart := (rfl)
@[simp] theorem Hpd.wr_eid (h : Hpd) (o v : Nat) : (h.wr o v).eid = h.eid := (rfl)
@[simp] theorem Hpd.wr_mctp (h : Hpd) (o v : Nat) : (h.wr o v).mctp = h.mctp := (rfl)
@[simp] theorem Hpd.wr_sens (h : Hpd) (o v : Nat) : (h.wr o v).sens = h.sens := (rfl)
@[simp] theorem Hpd.wr_bad (h : Hpd) (o v : Nat) : (h.wr o v).bad = h.bad := (rfl)

@[simp] theorem Hpd.sf_now (h : Hpd) (f : Fld) (v : Nat) : (h.sf f v).now = h.now := (rfl)
@[simp] theorem Hpd.sf_t0 (h : Hpd) (f : Fld) (v : Nat) : (h.sf f v).t0 = h.t0 := (rfl)
@[simp] theorem Hpd.sf_fresh (h : Hpd) (f : Fld) (v : Nat) : (h.sf f v).fresh = h.fresh := (rfl)
@[simp] theorem Hpd.sf_log (h : Hpd) (f : Fld) (v : Nat) : (h.sf f v).log = h.log := (rfl)
@[simp] theorem Hpd.sf_nv (h : Hpd) (f : Fld) (v : Nat) : (h.sf f v).nv = h.nv := (rfl)
@[simp] theorem Hpd.sf_nvCount (h : Hpd) (f : Fld) (v : Nat) : (h.sf f v).nvCount = h.nvCount := (rfl)
@[simp] theorem Hpd.sf_rate (h : Hpd) (f : Fld) (v : Nat) : (h.sf f v).rate = h.rate := (rfl)
@[simp] theorem Hpd.sf_flash (h : Hpd) (f : Fld) (v : Nat) : (h.sf f v).flash = h.flash := (rfl)
@[simp] theorem Hpd.sf_secBuf (h : Hpd) (f : Fld) (v : Nat) : (h.sf f v).secBuf = h.secBuf := (rfl)
@[simp] theorem Hpd.sf_sylBuf (h : Hpd) (f : Fld) (v : Nat) : (h.sf f v).sylBuf = h.sylBuf := (rfl)
@[simp] theorem Hpd.sf_header (h : Hpd) (f : Fld) (v : Nat) : (h.sf f v).header = h.header := (rfl)
@[simp] theorem Hpd.sf_p0 (h : Hpd) (f : Fld) (v : Nat) : (h.sf f v).p0 = h.p0 := (rfl)
@[simp] theorem Hpd.sf_keys (h : Hpd) (f : Fld) (v : Nat) : (h.sf f v).keys = h.keys := (rfl)
@[simp] theorem Hpd.sf_keyFuses (h : Hpd) (f : Fld) (v : Nat) : (h.sf f v).keyFuses = h.keyFuses := (rfl)
@[simp] theorem Hpd.sf_idFuse (h : Hpd) (f : Fld) (v : Nat) : (h.sf f v).idFuse = h.idFuse := (rfl)
@[simp] theorem Hpd.sf_seeds (h : Hpd) (f : Fld) (v : Nat) : (h.sf f v).seeds = h.seeds := (rfl)
@[simp] theorem Hpd.sf_secFailed (h : Hpd) (f : Fld) (v : Nat) : (h.sf f v).secFailed = h.secFailed := (rfl)
@[simp] theorem Hpd.sf_nonce (h : Hpd) (f : Fld) (v : Nat) : (h.sf f v).nonce = h.nonce := (rfl)
@[simp] theorem Hpd.sf_secOp (h : Hpd) (f : Fld) (v : Nat) : (h.sf f v).secOp = h.secOp := (rfl)
@[simp] theorem Hpd.sf_sylOp (h : Hpd) (f : Fld) (v : Nat) : (h.sf f v).sylOp = h.sylOp := (rfl)
@[simp] theorem Hpd.sf_good (h : Hpd) (f : Fld) (v : Nat) : (h.sf f v).good = h.good := (rfl)
@[simp] theorem Hpd.sf_conv (h : Hpd) (f : Fld) (v : Nat) : (h.sf f v).conv = h.conv := (rfl)
@[simp] theorem Hpd.sf_inq (h : Hpd) (f : Fld) (v : Nat) : (h.sf f v).inq = h.inq := (rfl)
@[simp] theorem Hpd.sf_lastIn (h : Hpd) (f : Fld) (v : Nat) : (h.sf f v).lastIn = h.lastIn := (rfl)
@[simp] theorem Hpd.sf_outb (h : Hpd) (f : Fld) (v : Nat) : (h.sf f v).outb = h.outb := (rfl)
@[simp] theorem Hpd.sf_reads (h : Hpd) (f : Fld) (v : Nat) : (h.sf f v).reads = h.reads := (rfl)
@[simp] theorem Hpd.sf_winRd (h : Hpd) (f : Fld) (v : Nat) : (h.sf f v).winRd = h.winRd := (rfl)
@[simp] theorem Hpd.sf_perm (h : Hpd) (f : Fld) (v : Nat) : (h.sf f v).perm = h.perm := (rfl)
@[simp] theorem Hpd.sf_mps (h : Hpd) (f : Fld) (v : Nat) : (h.sf f v).mps = h.mps := (rfl)
@[simp] theorem Hpd.sf_h2d (h : Hpd) (f : Fld) (v : Nat) : (h.sf f v).h2d = h.h2d := (rfl)
@[simp] theorem Hpd.sf_d2h (h : Hpd) (f : Fld) (v : Nat) : (h.sf f v).d2h = h.d2h := (rfl)
@[simp] theorem Hpd.sf_h2dMsg (h : Hpd) (f : Fld) (v : Nat) : (h.sf f v).h2dMsg = h.h2dMsg := (rfl)
@[simp] theorem Hpd.sf_hdm (h : Hpd) (f : Fld) (v : Nat) : (h.sf f v).hdm = h.hdm := (rfl)
@[simp] theorem Hpd.sf_cxlMem (h : Hpd) (f : Fld) (v : Nat) : (h.sf f v).cxlMem = h.cxlMem := (rfl)
@[simp] theorem Hpd.sf_mrrs (h : Hpd) (f : Fld) (v : Nat) : (h.sf f v).mrrs = h.mrrs := (rfl)
@[simp] theorem Hpd.sf_d3 (h : Hpd) (f : Fld) (v : Nat) : (h.sf f v).d3 = h.d3 := (rfl)
@[simp] theorem Hpd.sf_aer (h : Hpd) (f : Fld) (v : Nat) : (h.sf f v).aer = h.aer := (rfl)
@[simp] theorem Hpd.sf_hostAns (h : Hpd) (f : Fld) (v : Nat) : (h.sf f v).hostAns = h.hostAns := (rfl)
@[simp] theorem Hpd.sf_msix (h : Hpd) (f : Fld) (v : Nat) : (h.sf f v).msix = h.msix := (rfl)
@[simp] theorem Hpd.sf_mask (h : Hpd) (f : Fld) (v : Nat) : (h.sf f v).mask = h.mask := (rfl)
@[simp] theorem Hpd.sf_pba (h : Hpd) (f : Fld) (v : Nat) : (h.sf f v).pba = h.pba := (rfl)
@[simp] theorem Hpd.sf_sent (h : Hpd) (f : Fld) (v : Nat) : (h.sf f v).sent = h.sent := (rfl)
@[simp] theorem Hpd.sf_uart (h : Hpd) (f : Fld) (v : Nat) : (h.sf f v).uart = h.uart := (rfl)
@[simp] theorem Hpd.sf_eid (h : Hpd) (f : Fld) (v : Nat) : (h.sf f v).eid = h.eid := (rfl)
@[simp] theorem Hpd.sf_mctp (h : Hpd) (f : Fld) (v : Nat) : (h.sf f v).mctp = h.mctp := (rfl)
@[simp] theorem Hpd.sf_sens (h : Hpd) (f : Fld) (v : Nat) : (h.sf f v).sens = h.sens := (rfl)
@[simp] theorem Hpd.sf_bad (h : Hpd) (f : Fld) (v : Nat) : (h.sf f v).bad = h.bad := (rfl)

@[simp] theorem Chan.withNow_now (c : Chan) (x : Nat) : (c.withNow x).now = x := (rfl)
@[simp] theorem Chan.withNow_num (c : Chan) (x : Nat) : (c.withNow x).num = c.num := (rfl)
@[simp] theorem Chan.withNow_t0 (c : Chan) (x : Nat) : (c.withNow x).t0 = c.t0 := (rfl)
@[simp] theorem Chan.withNow_mem (c : Chan) (x : Nat) : (c.withNow x).mem = c.mem := (rfl)
@[simp] theorem Chan.withNow_regs (c : Chan) (x : Nat) : (c.withNow x).regs = c.regs := (rfl)
@[simp] theorem Chan.withNow_flaws (c : Chan) (x : Nat) : (c.withNow x).flaws = c.flaws := (rfl)
@[simp] theorem Chan.withNow_queues (c : Chan) (x : Nat) : (c.withNow x).queues = c.queues := (rfl)

@[simp] theorem Chan.withFresh_fresh (c : Chan) (x : Nat) : (c.withFresh x).fresh = x := (rfl)
@[simp] theorem Chan.withFresh_num (c : Chan) (x : Nat) : (c.withFresh x).num = c.num := (rfl)
@[simp] theorem Chan.withFresh_now (c : Chan) (x : Nat) : (c.withFresh x).now = c.now := (rfl)
@[simp] theorem Chan.withFresh_t0 (c : Chan) (x : Nat) : (c.withFresh x).t0 = c.t0 := (rfl)
@[simp] theorem Chan.withFresh_mem (c : Chan) (x : Nat) : (c.withFresh x).mem = c.mem := (rfl)
@[simp] theorem Chan.withFresh_regs (c : Chan) (x : Nat) : (c.withFresh x).regs = c.regs := (rfl)
@[simp] theorem Chan.withFresh_flaws (c : Chan) (x : Nat) : (c.withFresh x).flaws = c.flaws := (rfl)
@[simp] theorem Chan.withFresh_queues (c : Chan) (x : Nat) : (c.withFresh x).queues = c.queues := (rfl)

@[simp] theorem Chan.withHpdT0_hpdT0 (c : Chan) (x : Nat) : (c.withHpdT0 x).hpdT0 = x := (rfl)
@[simp] theorem Chan.withHpdT0_num (c : Chan) (x : Nat) : (c.withHpdT0 x).num = c.num := (rfl)
@[simp] theorem Chan.withHpdT0_now (c : Chan) (x : Nat) : (c.withHpdT0 x).now = c.now := (rfl)
@[simp] theorem Chan.withHpdT0_t0 (c : Chan) (x : Nat) : (c.withHpdT0 x).t0 = c.t0 := (rfl)
@[simp] theorem Chan.withHpdT0_mem (c : Chan) (x : Nat) : (c.withHpdT0 x).mem = c.mem := (rfl)
@[simp] theorem Chan.withHpdT0_regs (c : Chan) (x : Nat) : (c.withHpdT0 x).regs = c.regs := (rfl)
@[simp] theorem Chan.withHpdT0_flaws (c : Chan) (x : Nat) : (c.withHpdT0 x).flaws = c.flaws := (rfl)
@[simp] theorem Chan.withHpdT0_queues (c : Chan) (x : Nat) : (c.withHpdT0 x).queues = c.queues := (rfl)

@[simp] theorem Chan.withWrs_wrs (c : Chan) (x : Tbl (Nat × Nat)) : (c.withWrs x).wrs = x := (rfl)
@[simp] theorem Chan.withWrs_num (c : Chan) (x : Tbl (Nat × Nat)) : (c.withWrs x).num = c.num := (rfl)
@[simp] theorem Chan.withWrs_now (c : Chan) (x : Tbl (Nat × Nat)) : (c.withWrs x).now = c.now := (rfl)
@[simp] theorem Chan.withWrs_t0 (c : Chan) (x : Tbl (Nat × Nat)) : (c.withWrs x).t0 = c.t0 := (rfl)
@[simp] theorem Chan.withWrs_mem (c : Chan) (x : Tbl (Nat × Nat)) : (c.withWrs x).mem = c.mem := (rfl)
@[simp] theorem Chan.withWrs_regs (c : Chan) (x : Tbl (Nat × Nat)) : (c.withWrs x).regs = c.regs := (rfl)
@[simp] theorem Chan.withWrs_flaws (c : Chan) (x : Tbl (Nat × Nat)) : (c.withWrs x).flaws = c.flaws := (rfl)
@[simp] theorem Chan.withWrs_queues (c : Chan) (x : Tbl (Nat × Nat)) : (c.withWrs x).queues = c.queues := (rfl)

@[simp] theorem Chan.withRetiring_retiring (c : Chan) (x : List (Nat × Nat)) : (c.withRetiring x).retiring = x := (rfl)
@[simp] theorem Chan.withRetiring_num (c : Chan) (x : List (Nat × Nat)) : (c.withRetiring x).num = c.num := (rfl)
@[simp] theorem Chan.withRetiring_now (c : Chan) (x : List (Nat × Nat)) : (c.withRetiring x).now = c.now := (rfl)
@[simp] theorem Chan.withRetiring_t0 (c : Chan) (x : List (Nat × Nat)) : (c.withRetiring x).t0 = c.t0 := (rfl)
@[simp] theorem Chan.withRetiring_mem (c : Chan) (x : List (Nat × Nat)) : (c.withRetiring x).mem = c.mem := (rfl)
@[simp] theorem Chan.withRetiring_regs (c : Chan) (x : List (Nat × Nat)) : (c.withRetiring x).regs = c.regs := (rfl)
@[simp] theorem Chan.withRetiring_flaws (c : Chan) (x : List (Nat × Nat)) : (c.withRetiring x).flaws = c.flaws := (rfl)
@[simp] theorem Chan.withRetiring_queues (c : Chan) (x : List (Nat × Nat)) : (c.withRetiring x).queues = c.queues := (rfl)

@[simp] theorem Chan.withMem_mem (c : Chan) (x : Tbl Byte) : (c.withMem x).mem = x := (rfl)
@[simp] theorem Chan.withMem_num (c : Chan) (x : Tbl Byte) : (c.withMem x).num = c.num := (rfl)
@[simp] theorem Chan.withMem_now (c : Chan) (x : Tbl Byte) : (c.withMem x).now = c.now := (rfl)
@[simp] theorem Chan.withMem_t0 (c : Chan) (x : Tbl Byte) : (c.withMem x).t0 = c.t0 := (rfl)
@[simp] theorem Chan.withMem_regs (c : Chan) (x : Tbl Byte) : (c.withMem x).regs = c.regs := (rfl)
@[simp] theorem Chan.withMem_flaws (c : Chan) (x : Tbl Byte) : (c.withMem x).flaws = c.flaws := (rfl)
@[simp] theorem Chan.withMem_queues (c : Chan) (x : Tbl Byte) : (c.withMem x).queues = c.queues := (rfl)

@[simp] theorem Chan.withRegs_regs (c : Chan) (x : Tbl Reg) : (c.withRegs x).regs = x := (rfl)
@[simp] theorem Chan.withRegs_num (c : Chan) (x : Tbl Reg) : (c.withRegs x).num = c.num := (rfl)
@[simp] theorem Chan.withRegs_now (c : Chan) (x : Tbl Reg) : (c.withRegs x).now = c.now := (rfl)
@[simp] theorem Chan.withRegs_t0 (c : Chan) (x : Tbl Reg) : (c.withRegs x).t0 = c.t0 := (rfl)
@[simp] theorem Chan.withRegs_mem (c : Chan) (x : Tbl Reg) : (c.withRegs x).mem = c.mem := (rfl)
@[simp] theorem Chan.withRegs_flaws (c : Chan) (x : Tbl Reg) : (c.withRegs x).flaws = c.flaws := (rfl)
@[simp] theorem Chan.withRegs_queues (c : Chan) (x : Tbl Reg) : (c.withRegs x).queues = c.queues := (rfl)

@[simp] theorem Chan.withFlaws_flaws (c : Chan) (x : Tbl (List (Nat × Byte))) : (c.withFlaws x).flaws = x := (rfl)
@[simp] theorem Chan.withFlaws_num (c : Chan) (x : Tbl (List (Nat × Byte))) : (c.withFlaws x).num = c.num := (rfl)
@[simp] theorem Chan.withFlaws_now (c : Chan) (x : Tbl (List (Nat × Byte))) : (c.withFlaws x).now = c.now := (rfl)
@[simp] theorem Chan.withFlaws_t0 (c : Chan) (x : Tbl (List (Nat × Byte))) : (c.withFlaws x).t0 = c.t0 := (rfl)
@[simp] theorem Chan.withFlaws_mem (c : Chan) (x : Tbl (List (Nat × Byte))) : (c.withFlaws x).mem = c.mem := (rfl)
@[simp] theorem Chan.withFlaws_regs (c : Chan) (x : Tbl (List (Nat × Byte))) : (c.withFlaws x).regs = c.regs := (rfl)
@[simp] theorem Chan.withFlaws_queues (c : Chan) (x : Tbl (List (Nat × Byte))) : (c.withFlaws x).queues = c.queues := (rfl)

@[simp] theorem Chan.withErase_erase (c : Chan) (x : Nat × Nat) : (c.withErase x).erase = x := (rfl)
@[simp] theorem Chan.withErase_num (c : Chan) (x : Nat × Nat) : (c.withErase x).num = c.num := (rfl)
@[simp] theorem Chan.withErase_now (c : Chan) (x : Nat × Nat) : (c.withErase x).now = c.now := (rfl)
@[simp] theorem Chan.withErase_t0 (c : Chan) (x : Nat × Nat) : (c.withErase x).t0 = c.t0 := (rfl)
@[simp] theorem Chan.withErase_mem (c : Chan) (x : Nat × Nat) : (c.withErase x).mem = c.mem := (rfl)
@[simp] theorem Chan.withErase_regs (c : Chan) (x : Nat × Nat) : (c.withErase x).regs = c.regs := (rfl)
@[simp] theorem Chan.withErase_flaws (c : Chan) (x : Nat × Nat) : (c.withErase x).flaws = c.flaws := (rfl)
@[simp] theorem Chan.withErase_queues (c : Chan) (x : Nat × Nat) : (c.withErase x).queues = c.queues := (rfl)

@[simp] theorem Chan.withLog_log (c : Chan) (x : Tbl EvRec) : (c.withLog x).log = x := (rfl)
@[simp] theorem Chan.withLog_num (c : Chan) (x : Tbl EvRec) : (c.withLog x).num = c.num := (rfl)
@[simp] theorem Chan.withLog_now (c : Chan) (x : Tbl EvRec) : (c.withLog x).now = c.now := (rfl)
@[simp] theorem Chan.withLog_t0 (c : Chan) (x : Tbl EvRec) : (c.withLog x).t0 = c.t0 := (rfl)
@[simp] theorem Chan.withLog_mem (c : Chan) (x : Tbl EvRec) : (c.withLog x).mem = c.mem := (rfl)
@[simp] theorem Chan.withLog_regs (c : Chan) (x : Tbl EvRec) : (c.withLog x).regs = c.regs := (rfl)
@[simp] theorem Chan.withLog_flaws (c : Chan) (x : Tbl EvRec) : (c.withLog x).flaws = c.flaws := (rfl)
@[simp] theorem Chan.withLog_queues (c : Chan) (x : Tbl EvRec) : (c.withLog x).queues = c.queues := (rfl)

@[simp] theorem Chan.withRate_rate (c : Chan) (x : Tbl (Nat × Nat)) : (c.withRate x).rate = x := (rfl)
@[simp] theorem Chan.withRate_num (c : Chan) (x : Tbl (Nat × Nat)) : (c.withRate x).num = c.num := (rfl)
@[simp] theorem Chan.withRate_now (c : Chan) (x : Tbl (Nat × Nat)) : (c.withRate x).now = c.now := (rfl)
@[simp] theorem Chan.withRate_t0 (c : Chan) (x : Tbl (Nat × Nat)) : (c.withRate x).t0 = c.t0 := (rfl)
@[simp] theorem Chan.withRate_mem (c : Chan) (x : Tbl (Nat × Nat)) : (c.withRate x).mem = c.mem := (rfl)
@[simp] theorem Chan.withRate_regs (c : Chan) (x : Tbl (Nat × Nat)) : (c.withRate x).regs = c.regs := (rfl)
@[simp] theorem Chan.withRate_flaws (c : Chan) (x : Tbl (Nat × Nat)) : (c.withRate x).flaws = c.flaws := (rfl)
@[simp] theorem Chan.withRate_queues (c : Chan) (x : Tbl (Nat × Nat)) : (c.withRate x).queues = c.queues := (rfl)

@[simp] theorem Chan.withQueues_queues (c : Chan) (x : Tbl Queue) : (c.withQueues x).queues = x := (rfl)
@[simp] theorem Chan.withQueues_num (c : Chan) (x : Tbl Queue) : (c.withQueues x).num = c.num := (rfl)
@[simp] theorem Chan.withQueues_now (c : Chan) (x : Tbl Queue) : (c.withQueues x).now = c.now := (rfl)
@[simp] theorem Chan.withQueues_t0 (c : Chan) (x : Tbl Queue) : (c.withQueues x).t0 = c.t0 := (rfl)
@[simp] theorem Chan.withQueues_mem (c : Chan) (x : Tbl Queue) : (c.withQueues x).mem = c.mem := (rfl)
@[simp] theorem Chan.withQueues_regs (c : Chan) (x : Tbl Queue) : (c.withQueues x).regs = c.regs := (rfl)
@[simp] theorem Chan.withQueues_flaws (c : Chan) (x : Tbl Queue) : (c.withQueues x).flaws = c.flaws := (rfl)

@[simp] theorem Chan.withWaiting_waiting (c : Chan) (x : List Waiting) : (c.withWaiting x).waiting = x := (rfl)
@[simp] theorem Chan.withWaiting_num (c : Chan) (x : List Waiting) : (c.withWaiting x).num = c.num := (rfl)
@[simp] theorem Chan.withWaiting_now (c : Chan) (x : List Waiting) : (c.withWaiting x).now = c.now := (rfl)
@[simp] theorem Chan.withWaiting_t0 (c : Chan) (x : List Waiting) : (c.withWaiting x).t0 = c.t0 := (rfl)
@[simp] theorem Chan.withWaiting_mem (c : Chan) (x : List Waiting) : (c.withWaiting x).mem = c.mem := (rfl)
@[simp] theorem Chan.withWaiting_regs (c : Chan) (x : List Waiting) : (c.withWaiting x).regs = c.regs := (rfl)
@[simp] theorem Chan.withWaiting_flaws (c : Chan) (x : List Waiting) : (c.withWaiting x).flaws = c.flaws := (rfl)
@[simp] theorem Chan.withWaiting_queues (c : Chan) (x : List Waiting) : (c.withWaiting x).queues = c.queues := (rfl)

@[simp] theorem Chan.withPorts_ports (c : Chan) (x : Tbl Port) : (c.withPorts x).ports = x := (rfl)
@[simp] theorem Chan.withPorts_num (c : Chan) (x : Tbl Port) : (c.withPorts x).num = c.num := (rfl)
@[simp] theorem Chan.withPorts_now (c : Chan) (x : Tbl Port) : (c.withPorts x).now = c.now := (rfl)
@[simp] theorem Chan.withPorts_t0 (c : Chan) (x : Tbl Port) : (c.withPorts x).t0 = c.t0 := (rfl)
@[simp] theorem Chan.withPorts_mem (c : Chan) (x : Tbl Port) : (c.withPorts x).mem = c.mem := (rfl)
@[simp] theorem Chan.withPorts_regs (c : Chan) (x : Tbl Port) : (c.withPorts x).regs = c.regs := (rfl)
@[simp] theorem Chan.withPorts_flaws (c : Chan) (x : Tbl Port) : (c.withPorts x).flaws = c.flaws := (rfl)
@[simp] theorem Chan.withPorts_queues (c : Chan) (x : Tbl Port) : (c.withPorts x).queues = c.queues := (rfl)

@[simp] theorem Chan.withLoop_loop (c : Chan) (x : List (Nat × List Byte)) : (c.withLoop x).loop = x := (rfl)
@[simp] theorem Chan.withLoop_num (c : Chan) (x : List (Nat × List Byte)) : (c.withLoop x).num = c.num := (rfl)
@[simp] theorem Chan.withLoop_now (c : Chan) (x : List (Nat × List Byte)) : (c.withLoop x).now = c.now := (rfl)
@[simp] theorem Chan.withLoop_t0 (c : Chan) (x : List (Nat × List Byte)) : (c.withLoop x).t0 = c.t0 := (rfl)
@[simp] theorem Chan.withLoop_mem (c : Chan) (x : List (Nat × List Byte)) : (c.withLoop x).mem = c.mem := (rfl)
@[simp] theorem Chan.withLoop_regs (c : Chan) (x : List (Nat × List Byte)) : (c.withLoop x).regs = c.regs := (rfl)
@[simp] theorem Chan.withLoop_flaws (c : Chan) (x : List (Nat × List Byte)) : (c.withLoop x).flaws = c.flaws := (rfl)
@[simp] theorem Chan.withLoop_queues (c : Chan) (x : List (Nat × List Byte)) : (c.withLoop x).queues = c.queues := (rfl)

@[simp] theorem Chan.withOps_ops (c : Chan) (x : List Op) : (c.withOps x).ops = x := (rfl)
@[simp] theorem Chan.withOps_num (c : Chan) (x : List Op) : (c.withOps x).num = c.num := (rfl)
@[simp] theorem Chan.withOps_now (c : Chan) (x : List Op) : (c.withOps x).now = c.now := (rfl)
@[simp] theorem Chan.withOps_t0 (c : Chan) (x : List Op) : (c.withOps x).t0 = c.t0 := (rfl)
@[simp] theorem Chan.withOps_mem (c : Chan) (x : List Op) : (c.withOps x).mem = c.mem := (rfl)
@[simp] theorem Chan.withOps_regs (c : Chan) (x : List Op) : (c.withOps x).regs = c.regs := (rfl)
@[simp] theorem Chan.withOps_flaws (c : Chan) (x : List Op) : (c.withOps x).flaws = c.flaws := (rfl)
@[simp] theorem Chan.withOps_queues (c : Chan) (x : List Op) : (c.withOps x).queues = c.queues := (rfl)

@[simp] theorem Chan.withOpq_opq (c : Chan) (x : List Op) : (c.withOpq x).opq = x := (rfl)
@[simp] theorem Chan.withOpq_num (c : Chan) (x : List Op) : (c.withOpq x).num = c.num := (rfl)
@[simp] theorem Chan.withOpq_now (c : Chan) (x : List Op) : (c.withOpq x).now = c.now := (rfl)
@[simp] theorem Chan.withOpq_t0 (c : Chan) (x : List Op) : (c.withOpq x).t0 = c.t0 := (rfl)
@[simp] theorem Chan.withOpq_mem (c : Chan) (x : List Op) : (c.withOpq x).mem = c.mem := (rfl)
@[simp] theorem Chan.withOpq_regs (c : Chan) (x : List Op) : (c.withOpq x).regs = c.regs := (rfl)
@[simp] theorem Chan.withOpq_flaws (c : Chan) (x : List Op) : (c.withOpq x).flaws = c.flaws := (rfl)
@[simp] theorem Chan.withOpq_queues (c : Chan) (x : List Op) : (c.withOpq x).queues = c.queues := (rfl)

@[simp] theorem Chan.withNextTid_nextTid (c : Chan) (x : Nat) : (c.withNextTid x).nextTid = x := (rfl)
@[simp] theorem Chan.withNextTid_num (c : Chan) (x : Nat) : (c.withNextTid x).num = c.num := (rfl)
@[simp] theorem Chan.withNextTid_now (c : Chan) (x : Nat) : (c.withNextTid x).now = c.now := (rfl)
@[simp] theorem Chan.withNextTid_t0 (c : Chan) (x : Nat) : (c.withNextTid x).t0 = c.t0 := (rfl)
@[simp] theorem Chan.withNextTid_mem (c : Chan) (x : Nat) : (c.withNextTid x).mem = c.mem := (rfl)
@[simp] theorem Chan.withNextTid_regs (c : Chan) (x : Nat) : (c.withNextTid x).regs = c.regs := (rfl)
@[simp] theorem Chan.withNextTid_flaws (c : Chan) (x : Nat) : (c.withNextTid x).flaws = c.flaws := (rfl)
@[simp] theorem Chan.withNextTid_queues (c : Chan) (x : Nat) : (c.withNextTid x).queues = c.queues := (rfl)

@[simp] theorem Chan.withBreaks_breaks (c : Chan) (x : Tbl (List Nat)) : (c.withBreaks x).breaks = x := (rfl)
@[simp] theorem Chan.withBreaks_num (c : Chan) (x : Tbl (List Nat)) : (c.withBreaks x).num = c.num := (rfl)
@[simp] theorem Chan.withBreaks_now (c : Chan) (x : Tbl (List Nat)) : (c.withBreaks x).now = c.now := (rfl)
@[simp] theorem Chan.withBreaks_t0 (c : Chan) (x : Tbl (List Nat)) : (c.withBreaks x).t0 = c.t0 := (rfl)
@[simp] theorem Chan.withBreaks_mem (c : Chan) (x : Tbl (List Nat)) : (c.withBreaks x).mem = c.mem := (rfl)
@[simp] theorem Chan.withBreaks_regs (c : Chan) (x : Tbl (List Nat)) : (c.withBreaks x).regs = c.regs := (rfl)
@[simp] theorem Chan.withBreaks_flaws (c : Chan) (x : Tbl (List Nat)) : (c.withBreaks x).flaws = c.flaws := (rfl)
@[simp] theorem Chan.withBreaks_queues (c : Chan) (x : Tbl (List Nat)) : (c.withBreaks x).queues = c.queues := (rfl)

@[simp] theorem Chan.withTc0_tc0 (c : Chan) (x : List (List Byte)) : (c.withTc0 x).tc0 = x := (rfl)
@[simp] theorem Chan.withTc0_num (c : Chan) (x : List (List Byte)) : (c.withTc0 x).num = c.num := (rfl)
@[simp] theorem Chan.withTc0_now (c : Chan) (x : List (List Byte)) : (c.withTc0 x).now = c.now := (rfl)
@[simp] theorem Chan.withTc0_t0 (c : Chan) (x : List (List Byte)) : (c.withTc0 x).t0 = c.t0 := (rfl)
@[simp] theorem Chan.withTc0_mem (c : Chan) (x : List (List Byte)) : (c.withTc0 x).mem = c.mem := (rfl)
@[simp] theorem Chan.withTc0_regs (c : Chan) (x : List (List Byte)) : (c.withTc0 x).regs = c.regs := (rfl)
@[simp] theorem Chan.withTc0_flaws (c : Chan) (x : List (List Byte)) : (c.withTc0 x).flaws = c.flaws := (rfl)
@[simp] theorem Chan.withTc0_queues (c : Chan) (x : List (List Byte)) : (c.withTc0 x).queues = c.queues := (rfl)

@[simp] theorem Chan.withTc0Wait_tc0Wait (c : Chan) (x : List (List Byte)) : (c.withTc0Wait x).tc0Wait = x := (rfl)
@[simp] theorem Chan.withTc0Wait_num (c : Chan) (x : List (List Byte)) : (c.withTc0Wait x).num = c.num := (rfl)
@[simp] theorem Chan.withTc0Wait_now (c : Chan) (x : List (List Byte)) : (c.withTc0Wait x).now = c.now := (rfl)
@[simp] theorem Chan.withTc0Wait_t0 (c : Chan) (x : List (List Byte)) : (c.withTc0Wait x).t0 = c.t0 := (rfl)
@[simp] theorem Chan.withTc0Wait_mem (c : Chan) (x : List (List Byte)) : (c.withTc0Wait x).mem = c.mem := (rfl)
@[simp] theorem Chan.withTc0Wait_regs (c : Chan) (x : List (List Byte)) : (c.withTc0Wait x).regs = c.regs := (rfl)
@[simp] theorem Chan.withTc0Wait_flaws (c : Chan) (x : List (List Byte)) : (c.withTc0Wait x).flaws = c.flaws := (rfl)
@[simp] theorem Chan.withTc0Wait_queues (c : Chan) (x : List (List Byte)) : (c.withTc0Wait x).queues = c.queues := (rfl)

@[simp] theorem Chan.withTc0Next_tc0Next (c : Chan) (x : Nat) : (c.withTc0Next x).tc0Next = x := (rfl)
@[simp] theorem Chan.withTc0Next_num (c : Chan) (x : Nat) : (c.withTc0Next x).num = c.num := (rfl)
@[simp] theorem Chan.withTc0Next_now (c : Chan) (x : Nat) : (c.withTc0Next x).now = c.now := (rfl)
@[simp] theorem Chan.withTc0Next_t0 (c : Chan) (x : Nat) : (c.withTc0Next x).t0 = c.t0 := (rfl)
@[simp] theorem Chan.withTc0Next_mem (c : Chan) (x : Nat) : (c.withTc0Next x).mem = c.mem := (rfl)
@[simp] theorem Chan.withTc0Next_regs (c : Chan) (x : Nat) : (c.withTc0Next x).regs = c.regs := (rfl)
@[simp] theorem Chan.withTc0Next_flaws (c : Chan) (x : Nat) : (c.withTc0Next x).flaws = c.flaws := (rfl)
@[simp] theorem Chan.withTc0Next_queues (c : Chan) (x : Nat) : (c.withTc0Next x).queues = c.queues := (rfl)

@[simp] theorem Chan.withFenceReq_fenceReq (c : Chan) (x : Option Nat) : (c.withFenceReq x).fenceReq = x := (rfl)
@[simp] theorem Chan.withFenceReq_num (c : Chan) (x : Option Nat) : (c.withFenceReq x).num = c.num := (rfl)
@[simp] theorem Chan.withFenceReq_now (c : Chan) (x : Option Nat) : (c.withFenceReq x).now = c.now := (rfl)
@[simp] theorem Chan.withFenceReq_t0 (c : Chan) (x : Option Nat) : (c.withFenceReq x).t0 = c.t0 := (rfl)
@[simp] theorem Chan.withFenceReq_mem (c : Chan) (x : Option Nat) : (c.withFenceReq x).mem = c.mem := (rfl)
@[simp] theorem Chan.withFenceReq_regs (c : Chan) (x : Option Nat) : (c.withFenceReq x).regs = c.regs := (rfl)
@[simp] theorem Chan.withFenceReq_flaws (c : Chan) (x : Option Nat) : (c.withFenceReq x).flaws = c.flaws := (rfl)
@[simp] theorem Chan.withFenceReq_queues (c : Chan) (x : Option Nat) : (c.withFenceReq x).queues = c.queues := (rfl)

@[simp] theorem Chan.withOut_out (c : Chan) (x : List HpdMsg) : (c.withOut x).out = x := (rfl)
@[simp] theorem Chan.withOut_num (c : Chan) (x : List HpdMsg) : (c.withOut x).num = c.num := (rfl)
@[simp] theorem Chan.withOut_now (c : Chan) (x : List HpdMsg) : (c.withOut x).now = c.now := (rfl)
@[simp] theorem Chan.withOut_t0 (c : Chan) (x : List HpdMsg) : (c.withOut x).t0 = c.t0 := (rfl)
@[simp] theorem Chan.withOut_mem (c : Chan) (x : List HpdMsg) : (c.withOut x).mem = c.mem := (rfl)
@[simp] theorem Chan.withOut_regs (c : Chan) (x : List HpdMsg) : (c.withOut x).regs = c.regs := (rfl)
@[simp] theorem Chan.withOut_flaws (c : Chan) (x : List HpdMsg) : (c.withOut x).flaws = c.flaws := (rfl)
@[simp] theorem Chan.withOut_queues (c : Chan) (x : List HpdMsg) : (c.withOut x).queues = c.queues := (rfl)

@[simp] theorem Chan.withCyc_cyc (c : Chan) (x : Tbl (Nat × Nat × Nat)) : (c.withCyc x).cyc = x := (rfl)
@[simp] theorem Chan.withCyc_num (c : Chan) (x : Tbl (Nat × Nat × Nat)) : (c.withCyc x).num = c.num := (rfl)
@[simp] theorem Chan.withCyc_now (c : Chan) (x : Tbl (Nat × Nat × Nat)) : (c.withCyc x).now = c.now := (rfl)
@[simp] theorem Chan.withCyc_t0 (c : Chan) (x : Tbl (Nat × Nat × Nat)) : (c.withCyc x).t0 = c.t0 := (rfl)
@[simp] theorem Chan.withCyc_mem (c : Chan) (x : Tbl (Nat × Nat × Nat)) : (c.withCyc x).mem = c.mem := (rfl)
@[simp] theorem Chan.withCyc_regs (c : Chan) (x : Tbl (Nat × Nat × Nat)) : (c.withCyc x).regs = c.regs := (rfl)
@[simp] theorem Chan.withCyc_flaws (c : Chan) (x : Tbl (Nat × Nat × Nat)) : (c.withCyc x).flaws = c.flaws := (rfl)
@[simp] theorem Chan.withCyc_queues (c : Chan) (x : Tbl (Nat × Nat × Nat)) : (c.withCyc x).queues = c.queues := (rfl)

@[simp] theorem Chan.withRetakes_retakes (c : Chan) (x : Tbl Retake) : (c.withRetakes x).retakes = x := (rfl)
@[simp] theorem Chan.withRetakes_num (c : Chan) (x : Tbl Retake) : (c.withRetakes x).num = c.num := (rfl)
@[simp] theorem Chan.withRetakes_now (c : Chan) (x : Tbl Retake) : (c.withRetakes x).now = c.now := (rfl)
@[simp] theorem Chan.withRetakes_t0 (c : Chan) (x : Tbl Retake) : (c.withRetakes x).t0 = c.t0 := (rfl)
@[simp] theorem Chan.withRetakes_mem (c : Chan) (x : Tbl Retake) : (c.withRetakes x).mem = c.mem := (rfl)
@[simp] theorem Chan.withRetakes_regs (c : Chan) (x : Tbl Retake) : (c.withRetakes x).regs = c.regs := (rfl)
@[simp] theorem Chan.withRetakes_flaws (c : Chan) (x : Tbl Retake) : (c.withRetakes x).flaws = c.flaws := (rfl)
@[simp] theorem Chan.withRetakes_queues (c : Chan) (x : Tbl Retake) : (c.withRetakes x).queues = c.queues := (rfl)

@[simp] theorem Chan.withCalls_calls (c : Chan) (x : Tbl Calls) : (c.withCalls x).calls = x := (rfl)
@[simp] theorem Chan.withCalls_num (c : Chan) (x : Tbl Calls) : (c.withCalls x).num = c.num := (rfl)
@[simp] theorem Chan.withCalls_now (c : Chan) (x : Tbl Calls) : (c.withCalls x).now = c.now := (rfl)
@[simp] theorem Chan.withCalls_t0 (c : Chan) (x : Tbl Calls) : (c.withCalls x).t0 = c.t0 := (rfl)
@[simp] theorem Chan.withCalls_mem (c : Chan) (x : Tbl Calls) : (c.withCalls x).mem = c.mem := (rfl)
@[simp] theorem Chan.withCalls_regs (c : Chan) (x : Tbl Calls) : (c.withCalls x).regs = c.regs := (rfl)
@[simp] theorem Chan.withCalls_flaws (c : Chan) (x : Tbl Calls) : (c.withCalls x).flaws = c.flaws := (rfl)
@[simp] theorem Chan.withCalls_queues (c : Chan) (x : Tbl Calls) : (c.withCalls x).queues = c.queues := (rfl)

@[simp] theorem Chan.withMes_mes (c : Chan) (x : Tbl Me) : (c.withMes x).mes = x := (rfl)
@[simp] theorem Chan.withMes_num (c : Chan) (x : Tbl Me) : (c.withMes x).num = c.num := (rfl)
@[simp] theorem Chan.withMes_now (c : Chan) (x : Tbl Me) : (c.withMes x).now = c.now := (rfl)
@[simp] theorem Chan.withMes_t0 (c : Chan) (x : Tbl Me) : (c.withMes x).t0 = c.t0 := (rfl)
@[simp] theorem Chan.withMes_mem (c : Chan) (x : Tbl Me) : (c.withMes x).mem = c.mem := (rfl)
@[simp] theorem Chan.withMes_regs (c : Chan) (x : Tbl Me) : (c.withMes x).regs = c.regs := (rfl)
@[simp] theorem Chan.withMes_flaws (c : Chan) (x : Tbl Me) : (c.withMes x).flaws = c.flaws := (rfl)
@[simp] theorem Chan.withMes_queues (c : Chan) (x : Tbl Me) : (c.withMes x).queues = c.queues := (rfl)

@[simp] theorem Chan.withPhases_phases (c : Chan) (x : Tbl (List Phase)) : (c.withPhases x).phases = x := (rfl)
@[simp] theorem Chan.withPhases_num (c : Chan) (x : Tbl (List Phase)) : (c.withPhases x).num = c.num := (rfl)
@[simp] theorem Chan.withPhases_now (c : Chan) (x : Tbl (List Phase)) : (c.withPhases x).now = c.now := (rfl)
@[simp] theorem Chan.withPhases_t0 (c : Chan) (x : Tbl (List Phase)) : (c.withPhases x).t0 = c.t0 := (rfl)
@[simp] theorem Chan.withPhases_mem (c : Chan) (x : Tbl (List Phase)) : (c.withPhases x).mem = c.mem := (rfl)
@[simp] theorem Chan.withPhases_regs (c : Chan) (x : Tbl (List Phase)) : (c.withPhases x).regs = c.regs := (rfl)
@[simp] theorem Chan.withPhases_flaws (c : Chan) (x : Tbl (List Phase)) : (c.withPhases x).flaws = c.flaws := (rfl)
@[simp] theorem Chan.withPhases_queues (c : Chan) (x : Tbl (List Phase)) : (c.withPhases x).queues = c.queues := (rfl)

@[simp] theorem Chan.withVes_ves (c : Chan) (x : Tbl Ve) : (c.withVes x).ves = x := (rfl)
@[simp] theorem Chan.withVes_num (c : Chan) (x : Tbl Ve) : (c.withVes x).num = c.num := (rfl)
@[simp] theorem Chan.withVes_now (c : Chan) (x : Tbl Ve) : (c.withVes x).now = c.now := (rfl)
@[simp] theorem Chan.withVes_t0 (c : Chan) (x : Tbl Ve) : (c.withVes x).t0 = c.t0 := (rfl)
@[simp] theorem Chan.withVes_mem (c : Chan) (x : Tbl Ve) : (c.withVes x).mem = c.mem := (rfl)
@[simp] theorem Chan.withVes_regs (c : Chan) (x : Tbl Ve) : (c.withVes x).regs = c.regs := (rfl)
@[simp] theorem Chan.withVes_flaws (c : Chan) (x : Tbl Ve) : (c.withVes x).flaws = c.flaws := (rfl)
@[simp] theorem Chan.withVes_queues (c : Chan) (x : Tbl Ve) : (c.withVes x).queues = c.queues := (rfl)

@[simp] theorem Chan.withFss_fss (c : Chan) (x : Tbl Fs) : (c.withFss x).fss = x := (rfl)
@[simp] theorem Chan.withFss_num (c : Chan) (x : Tbl Fs) : (c.withFss x).num = c.num := (rfl)
@[simp] theorem Chan.withFss_now (c : Chan) (x : Tbl Fs) : (c.withFss x).now = c.now := (rfl)
@[simp] theorem Chan.withFss_t0 (c : Chan) (x : Tbl Fs) : (c.withFss x).t0 = c.t0 := (rfl)
@[simp] theorem Chan.withFss_mem (c : Chan) (x : Tbl Fs) : (c.withFss x).mem = c.mem := (rfl)
@[simp] theorem Chan.withFss_regs (c : Chan) (x : Tbl Fs) : (c.withFss x).regs = c.regs := (rfl)
@[simp] theorem Chan.withFss_flaws (c : Chan) (x : Tbl Fs) : (c.withFss x).flaws = c.flaws := (rfl)
@[simp] theorem Chan.withFss_queues (c : Chan) (x : Tbl Fs) : (c.withFss x).queues = c.queues := (rfl)

@[simp] theorem Chan.withGathered_gathered (c : Chan) (x : List (Nat × Nat × Nat × List Byte)) : (c.withGathered x).gathered = x := (rfl)
@[simp] theorem Chan.withGathered_num (c : Chan) (x : List (Nat × Nat × Nat × List Byte)) : (c.withGathered x).num = c.num := (rfl)
@[simp] theorem Chan.withGathered_now (c : Chan) (x : List (Nat × Nat × Nat × List Byte)) : (c.withGathered x).now = c.now := (rfl)
@[simp] theorem Chan.withGathered_t0 (c : Chan) (x : List (Nat × Nat × Nat × List Byte)) : (c.withGathered x).t0 = c.t0 := (rfl)
@[simp] theorem Chan.withGathered_mem (c : Chan) (x : List (Nat × Nat × Nat × List Byte)) : (c.withGathered x).mem = c.mem := (rfl)
@[simp] theorem Chan.withGathered_regs (c : Chan) (x : List (Nat × Nat × Nat × List Byte)) : (c.withGathered x).regs = c.regs := (rfl)
@[simp] theorem Chan.withGathered_flaws (c : Chan) (x : List (Nat × Nat × Nat × List Byte)) : (c.withGathered x).flaws = c.flaws := (rfl)
@[simp] theorem Chan.withGathered_queues (c : Chan) (x : List (Nat × Nat × Nat × List Byte)) : (c.withGathered x).queues = c.queues := (rfl)

@[simp] theorem Chan.withSlots_slots (c : Chan) (x : Tbl Slot) : (c.withSlots x).slots = x := (rfl)
@[simp] theorem Chan.withSlots_num (c : Chan) (x : Tbl Slot) : (c.withSlots x).num = c.num := (rfl)
@[simp] theorem Chan.withSlots_now (c : Chan) (x : Tbl Slot) : (c.withSlots x).now = c.now := (rfl)
@[simp] theorem Chan.withSlots_t0 (c : Chan) (x : Tbl Slot) : (c.withSlots x).t0 = c.t0 := (rfl)
@[simp] theorem Chan.withSlots_mem (c : Chan) (x : Tbl Slot) : (c.withSlots x).mem = c.mem := (rfl)
@[simp] theorem Chan.withSlots_regs (c : Chan) (x : Tbl Slot) : (c.withSlots x).regs = c.regs := (rfl)
@[simp] theorem Chan.withSlots_flaws (c : Chan) (x : Tbl Slot) : (c.withSlots x).flaws = c.flaws := (rfl)
@[simp] theorem Chan.withSlots_queues (c : Chan) (x : Tbl Slot) : (c.withSlots x).queues = c.queues := (rfl)

@[simp] theorem Chan.withNextLaunch_nextLaunch (c : Chan) (x : Nat) : (c.withNextLaunch x).nextLaunch = x := (rfl)
@[simp] theorem Chan.withNextLaunch_num (c : Chan) (x : Nat) : (c.withNextLaunch x).num = c.num := (rfl)
@[simp] theorem Chan.withNextLaunch_now (c : Chan) (x : Nat) : (c.withNextLaunch x).now = c.now := (rfl)
@[simp] theorem Chan.withNextLaunch_t0 (c : Chan) (x : Nat) : (c.withNextLaunch x).t0 = c.t0 := (rfl)
@[simp] theorem Chan.withNextLaunch_mem (c : Chan) (x : Nat) : (c.withNextLaunch x).mem = c.mem := (rfl)
@[simp] theorem Chan.withNextLaunch_regs (c : Chan) (x : Nat) : (c.withNextLaunch x).regs = c.regs := (rfl)
@[simp] theorem Chan.withNextLaunch_flaws (c : Chan) (x : Nat) : (c.withNextLaunch x).flaws = c.flaws := (rfl)
@[simp] theorem Chan.withNextLaunch_queues (c : Chan) (x : Nat) : (c.withNextLaunch x).queues = c.queues := (rfl)

@[simp] theorem Chan.withTtLast_ttLast (c : Chan) (x : Nat) : (c.withTtLast x).ttLast = x := (rfl)
@[simp] theorem Chan.withTtLast_num (c : Chan) (x : Nat) : (c.withTtLast x).num = c.num := (rfl)
@[simp] theorem Chan.withTtLast_now (c : Chan) (x : Nat) : (c.withTtLast x).now = c.now := (rfl)
@[simp] theorem Chan.withTtLast_t0 (c : Chan) (x : Nat) : (c.withTtLast x).t0 = c.t0 := (rfl)
@[simp] theorem Chan.withTtLast_mem (c : Chan) (x : Nat) : (c.withTtLast x).mem = c.mem := (rfl)
@[simp] theorem Chan.withTtLast_regs (c : Chan) (x : Nat) : (c.withTtLast x).regs = c.regs := (rfl)
@[simp] theorem Chan.withTtLast_flaws (c : Chan) (x : Nat) : (c.withTtLast x).flaws = c.flaws := (rfl)
@[simp] theorem Chan.withTtLast_queues (c : Chan) (x : Nat) : (c.withTtLast x).queues = c.queues := (rfl)

@[simp] theorem Chan.withUu_uu (c : Chan) (x : Option UuRun) : (c.withUu x).uu = x := (rfl)
@[simp] theorem Chan.withUu_num (c : Chan) (x : Option UuRun) : (c.withUu x).num = c.num := (rfl)
@[simp] theorem Chan.withUu_now (c : Chan) (x : Option UuRun) : (c.withUu x).now = c.now := (rfl)
@[simp] theorem Chan.withUu_t0 (c : Chan) (x : Option UuRun) : (c.withUu x).t0 = c.t0 := (rfl)
@[simp] theorem Chan.withUu_mem (c : Chan) (x : Option UuRun) : (c.withUu x).mem = c.mem := (rfl)
@[simp] theorem Chan.withUu_regs (c : Chan) (x : Option UuRun) : (c.withUu x).regs = c.regs := (rfl)
@[simp] theorem Chan.withUu_flaws (c : Chan) (x : Option UuRun) : (c.withUu x).flaws = c.flaws := (rfl)
@[simp] theorem Chan.withUu_queues (c : Chan) (x : Option UuRun) : (c.withUu x).queues = c.queues := (rfl)

@[simp] theorem Chan.withBuddies_buddies (c : Chan) (x : List Buddy) : (c.withBuddies x).buddies = x := (rfl)
@[simp] theorem Chan.withBuddies_num (c : Chan) (x : List Buddy) : (c.withBuddies x).num = c.num := (rfl)
@[simp] theorem Chan.withBuddies_now (c : Chan) (x : List Buddy) : (c.withBuddies x).now = c.now := (rfl)
@[simp] theorem Chan.withBuddies_t0 (c : Chan) (x : List Buddy) : (c.withBuddies x).t0 = c.t0 := (rfl)
@[simp] theorem Chan.withBuddies_mem (c : Chan) (x : List Buddy) : (c.withBuddies x).mem = c.mem := (rfl)
@[simp] theorem Chan.withBuddies_regs (c : Chan) (x : List Buddy) : (c.withBuddies x).regs = c.regs := (rfl)
@[simp] theorem Chan.withBuddies_flaws (c : Chan) (x : List Buddy) : (c.withBuddies x).flaws = c.flaws := (rfl)
@[simp] theorem Chan.withBuddies_queues (c : Chan) (x : List Buddy) : (c.withBuddies x).queues = c.queues := (rfl)

@[simp] theorem Chan.withBkts_bkts (c : Chan) (x : List Bkt) : (c.withBkts x).bkts = x := (rfl)
@[simp] theorem Chan.withBkts_num (c : Chan) (x : List Bkt) : (c.withBkts x).num = c.num := (rfl)
@[simp] theorem Chan.withBkts_now (c : Chan) (x : List Bkt) : (c.withBkts x).now = c.now := (rfl)
@[simp] theorem Chan.withBkts_t0 (c : Chan) (x : List Bkt) : (c.withBkts x).t0 = c.t0 := (rfl)
@[simp] theorem Chan.withBkts_mem (c : Chan) (x : List Bkt) : (c.withBkts x).mem = c.mem := (rfl)
@[simp] theorem Chan.withBkts_regs (c : Chan) (x : List Bkt) : (c.withBkts x).regs = c.regs := (rfl)
@[simp] theorem Chan.withBkts_flaws (c : Chan) (x : List Bkt) : (c.withBkts x).flaws = c.flaws := (rfl)
@[simp] theorem Chan.withBkts_queues (c : Chan) (x : List Bkt) : (c.withBkts x).queues = c.queues := (rfl)

@[simp] theorem Chan.withNextBkt_nextBkt (c : Chan) (x : Nat) : (c.withNextBkt x).nextBkt = x := (rfl)
@[simp] theorem Chan.withNextBkt_num (c : Chan) (x : Nat) : (c.withNextBkt x).num = c.num := (rfl)
@[simp] theorem Chan.withNextBkt_now (c : Chan) (x : Nat) : (c.withNextBkt x).now = c.now := (rfl)
@[simp] theorem Chan.withNextBkt_t0 (c : Chan) (x : Nat) : (c.withNextBkt x).t0 = c.t0 := (rfl)
@[simp] theorem Chan.withNextBkt_mem (c : Chan) (x : Nat) : (c.withNextBkt x).mem = c.mem := (rfl)
@[simp] theorem Chan.withNextBkt_regs (c : Chan) (x : Nat) : (c.withNextBkt x).regs = c.regs := (rfl)
@[simp] theorem Chan.withNextBkt_flaws (c : Chan) (x : Nat) : (c.withNextBkt x).flaws = c.flaws := (rfl)
@[simp] theorem Chan.withNextBkt_queues (c : Chan) (x : Nat) : (c.withNextBkt x).queues = c.queues := (rfl)

@[simp] theorem Chan.withCePass_cePass (c : Chan) (x : Tbl Nat) : (c.withCePass x).cePass = x := (rfl)
@[simp] theorem Chan.withCePass_num (c : Chan) (x : Tbl Nat) : (c.withCePass x).num = c.num := (rfl)
@[simp] theorem Chan.withCePass_now (c : Chan) (x : Tbl Nat) : (c.withCePass x).now = c.now := (rfl)
@[simp] theorem Chan.withCePass_t0 (c : Chan) (x : Tbl Nat) : (c.withCePass x).t0 = c.t0 := (rfl)
@[simp] theorem Chan.withCePass_mem (c : Chan) (x : Tbl Nat) : (c.withCePass x).mem = c.mem := (rfl)
@[simp] theorem Chan.withCePass_regs (c : Chan) (x : Tbl Nat) : (c.withCePass x).regs = c.regs := (rfl)
@[simp] theorem Chan.withCePass_flaws (c : Chan) (x : Tbl Nat) : (c.withCePass x).flaws = c.flaws := (rfl)
@[simp] theorem Chan.withCePass_queues (c : Chan) (x : Tbl Nat) : (c.withCePass x).queues = c.queues := (rfl)

@[simp] theorem Chan.withCeStage_ceStage (c : Chan) (x : List CeUnit) : (c.withCeStage x).ceStage = x := (rfl)
@[simp] theorem Chan.withCeStage_num (c : Chan) (x : List CeUnit) : (c.withCeStage x).num = c.num := (rfl)
@[simp] theorem Chan.withCeStage_now (c : Chan) (x : List CeUnit) : (c.withCeStage x).now = c.now := (rfl)
@[simp] theorem Chan.withCeStage_t0 (c : Chan) (x : List CeUnit) : (c.withCeStage x).t0 = c.t0 := (rfl)
@[simp] theorem Chan.withCeStage_mem (c : Chan) (x : List CeUnit) : (c.withCeStage x).mem = c.mem := (rfl)
@[simp] theorem Chan.withCeStage_regs (c : Chan) (x : List CeUnit) : (c.withCeStage x).regs = c.regs := (rfl)
@[simp] theorem Chan.withCeStage_flaws (c : Chan) (x : List CeUnit) : (c.withCeStage x).flaws = c.flaws := (rfl)
@[simp] theorem Chan.withCeStage_queues (c : Chan) (x : List CeUnit) : (c.withCeStage x).queues = c.queues := (rfl)

@[simp] theorem Chan.withChart_chart (c : Chan) (x : List Byte) : (c.withChart x).chart = x := (rfl)
@[simp] theorem Chan.withChart_num (c : Chan) (x : List Byte) : (c.withChart x).num = c.num := (rfl)
@[simp] theorem Chan.withChart_now (c : Chan) (x : List Byte) : (c.withChart x).now = c.now := (rfl)
@[simp] theorem Chan.withChart_t0 (c : Chan) (x : List Byte) : (c.withChart x).t0 = c.t0 := (rfl)
@[simp] theorem Chan.withChart_mem (c : Chan) (x : List Byte) : (c.withChart x).mem = c.mem := (rfl)
@[simp] theorem Chan.withChart_regs (c : Chan) (x : List Byte) : (c.withChart x).regs = c.regs := (rfl)
@[simp] theorem Chan.withChart_flaws (c : Chan) (x : List Byte) : (c.withChart x).flaws = c.flaws := (rfl)
@[simp] theorem Chan.withChart_queues (c : Chan) (x : List Byte) : (c.withChart x).queues = c.queues := (rfl)

@[simp] theorem Chan.withTermSw_termSw (c : Chan) (x : Option TermSw) : (c.withTermSw x).termSw = x := (rfl)
@[simp] theorem Chan.withTermSw_num (c : Chan) (x : Option TermSw) : (c.withTermSw x).num = c.num := (rfl)
@[simp] theorem Chan.withTermSw_now (c : Chan) (x : Option TermSw) : (c.withTermSw x).now = c.now := (rfl)
@[simp] theorem Chan.withTermSw_t0 (c : Chan) (x : Option TermSw) : (c.withTermSw x).t0 = c.t0 := (rfl)
@[simp] theorem Chan.withTermSw_mem (c : Chan) (x : Option TermSw) : (c.withTermSw x).mem = c.mem := (rfl)
@[simp] theorem Chan.withTermSw_regs (c : Chan) (x : Option TermSw) : (c.withTermSw x).regs = c.regs := (rfl)
@[simp] theorem Chan.withTermSw_flaws (c : Chan) (x : Option TermSw) : (c.withTermSw x).flaws = c.flaws := (rfl)
@[simp] theorem Chan.withTermSw_queues (c : Chan) (x : Option TermSw) : (c.withTermSw x).queues = c.queues := (rfl)

@[simp] theorem Chan.withSections_sections (c : Chan) (x : List (Nat × Nat × List Byte)) : (c.withSections x).sections = x := (rfl)
@[simp] theorem Chan.withSections_num (c : Chan) (x : List (Nat × Nat × List Byte)) : (c.withSections x).num = c.num := (rfl)
@[simp] theorem Chan.withSections_now (c : Chan) (x : List (Nat × Nat × List Byte)) : (c.withSections x).now = c.now := (rfl)
@[simp] theorem Chan.withSections_t0 (c : Chan) (x : List (Nat × Nat × List Byte)) : (c.withSections x).t0 = c.t0 := (rfl)
@[simp] theorem Chan.withSections_mem (c : Chan) (x : List (Nat × Nat × List Byte)) : (c.withSections x).mem = c.mem := (rfl)
@[simp] theorem Chan.withSections_regs (c : Chan) (x : List (Nat × Nat × List Byte)) : (c.withSections x).regs = c.regs := (rfl)
@[simp] theorem Chan.withSections_flaws (c : Chan) (x : List (Nat × Nat × List Byte)) : (c.withSections x).flaws = c.flaws := (rfl)
@[simp] theorem Chan.withSections_queues (c : Chan) (x : List (Nat × Nat × List Byte)) : (c.withSections x).queues = c.queues := (rfl)

@[simp] theorem Chan.withBoot_boot (c : Chan) (x : Boot) : (c.withBoot x).boot = x := (rfl)
@[simp] theorem Chan.withBoot_num (c : Chan) (x : Boot) : (c.withBoot x).num = c.num := (rfl)
@[simp] theorem Chan.withBoot_now (c : Chan) (x : Boot) : (c.withBoot x).now = c.now := (rfl)
@[simp] theorem Chan.withBoot_t0 (c : Chan) (x : Boot) : (c.withBoot x).t0 = c.t0 := (rfl)
@[simp] theorem Chan.withBoot_mem (c : Chan) (x : Boot) : (c.withBoot x).mem = c.mem := (rfl)
@[simp] theorem Chan.withBoot_regs (c : Chan) (x : Boot) : (c.withBoot x).regs = c.regs := (rfl)
@[simp] theorem Chan.withBoot_flaws (c : Chan) (x : Boot) : (c.withBoot x).flaws = c.flaws := (rfl)
@[simp] theorem Chan.withBoot_queues (c : Chan) (x : Boot) : (c.withBoot x).queues = c.queues := (rfl)

@[simp] theorem Chan.withHbs_hbs (c : Chan) (x : Tbl Hb) : (c.withHbs x).hbs = x := (rfl)
@[simp] theorem Chan.withHbs_num (c : Chan) (x : Tbl Hb) : (c.withHbs x).num = c.num := (rfl)
@[simp] theorem Chan.withHbs_now (c : Chan) (x : Tbl Hb) : (c.withHbs x).now = c.now := (rfl)
@[simp] theorem Chan.withHbs_t0 (c : Chan) (x : Tbl Hb) : (c.withHbs x).t0 = c.t0 := (rfl)
@[simp] theorem Chan.withHbs_mem (c : Chan) (x : Tbl Hb) : (c.withHbs x).mem = c.mem := (rfl)
@[simp] theorem Chan.withHbs_regs (c : Chan) (x : Tbl Hb) : (c.withHbs x).regs = c.regs := (rfl)
@[simp] theorem Chan.withHbs_flaws (c : Chan) (x : Tbl Hb) : (c.withHbs x).flaws = c.flaws := (rfl)
@[simp] theorem Chan.withHbs_queues (c : Chan) (x : Tbl Hb) : (c.withHbs x).queues = c.queues := (rfl)

@[simp] theorem Chan.withHbSeq_hbSeq (c : Chan) (x : Nat) : (c.withHbSeq x).hbSeq = x := (rfl)
@[simp] theorem Chan.withHbSeq_num (c : Chan) (x : Nat) : (c.withHbSeq x).num = c.num := (rfl)
@[simp] theorem Chan.withHbSeq_now (c : Chan) (x : Nat) : (c.withHbSeq x).now = c.now := (rfl)
@[simp] theorem Chan.withHbSeq_t0 (c : Chan) (x : Nat) : (c.withHbSeq x).t0 = c.t0 := (rfl)
@[simp] theorem Chan.withHbSeq_mem (c : Chan) (x : Nat) : (c.withHbSeq x).mem = c.mem := (rfl)
@[simp] theorem Chan.withHbSeq_regs (c : Chan) (x : Nat) : (c.withHbSeq x).regs = c.regs := (rfl)
@[simp] theorem Chan.withHbSeq_flaws (c : Chan) (x : Nat) : (c.withHbSeq x).flaws = c.flaws := (rfl)
@[simp] theorem Chan.withHbSeq_queues (c : Chan) (x : Nat) : (c.withHbSeq x).queues = c.queues := (rfl)

@[simp] theorem Chan.withHbSent_hbSent (c : Chan) (x : Nat) : (c.withHbSent x).hbSent = x := (rfl)
@[simp] theorem Chan.withHbSent_num (c : Chan) (x : Nat) : (c.withHbSent x).num = c.num := (rfl)
@[simp] theorem Chan.withHbSent_now (c : Chan) (x : Nat) : (c.withHbSent x).now = c.now := (rfl)
@[simp] theorem Chan.withHbSent_t0 (c : Chan) (x : Nat) : (c.withHbSent x).t0 = c.t0 := (rfl)
@[simp] theorem Chan.withHbSent_mem (c : Chan) (x : Nat) : (c.withHbSent x).mem = c.mem := (rfl)
@[simp] theorem Chan.withHbSent_regs (c : Chan) (x : Nat) : (c.withHbSent x).regs = c.regs := (rfl)
@[simp] theorem Chan.withHbSent_flaws (c : Chan) (x : Nat) : (c.withHbSent x).flaws = c.flaws := (rfl)
@[simp] theorem Chan.withHbSent_queues (c : Chan) (x : Nat) : (c.withHbSent x).queues = c.queues := (rfl)

@[simp] theorem Chan.withHbTick_hbTick (c : Chan) (x : Nat) : (c.withHbTick x).hbTick = x := (rfl)
@[simp] theorem Chan.withHbTick_num (c : Chan) (x : Nat) : (c.withHbTick x).num = c.num := (rfl)
@[simp] theorem Chan.withHbTick_now (c : Chan) (x : Nat) : (c.withHbTick x).now = c.now := (rfl)
@[simp] theorem Chan.withHbTick_t0 (c : Chan) (x : Nat) : (c.withHbTick x).t0 = c.t0 := (rfl)
@[simp] theorem Chan.withHbTick_mem (c : Chan) (x : Nat) : (c.withHbTick x).mem = c.mem := (rfl)
@[simp] theorem Chan.withHbTick_regs (c : Chan) (x : Nat) : (c.withHbTick x).regs = c.regs := (rfl)
@[simp] theorem Chan.withHbTick_flaws (c : Chan) (x : Nat) : (c.withHbTick x).flaws = c.flaws := (rfl)
@[simp] theorem Chan.withHbTick_queues (c : Chan) (x : Nat) : (c.withHbTick x).queues = c.queues := (rfl)

@[simp] theorem Chan.withActed_acted (c : Chan) (x : List (Nat × Nat × Nat)) : (c.withActed x).acted = x := (rfl)
@[simp] theorem Chan.withActed_num (c : Chan) (x : List (Nat × Nat × Nat)) : (c.withActed x).num = c.num := (rfl)
@[simp] theorem Chan.withActed_now (c : Chan) (x : List (Nat × Nat × Nat)) : (c.withActed x).now = c.now := (rfl)
@[simp] theorem Chan.withActed_t0 (c : Chan) (x : List (Nat × Nat × Nat)) : (c.withActed x).t0 = c.t0 := (rfl)
@[simp] theorem Chan.withActed_mem (c : Chan) (x : List (Nat × Nat × Nat)) : (c.withActed x).mem = c.mem := (rfl)
@[simp] theorem Chan.withActed_regs (c : Chan) (x : List (Nat × Nat × Nat)) : (c.withActed x).regs = c.regs := (rfl)
@[simp] theorem Chan.withActed_flaws (c : Chan) (x : List (Nat × Nat × Nat)) : (c.withActed x).flaws = c.flaws := (rfl)
@[simp] theorem Chan.withActed_queues (c : Chan) (x : List (Nat × Nat × Nat)) : (c.withActed x).queues = c.queues := (rfl)

@[simp] theorem Chan.withSearches_searches (c : Chan) (x : List Search) : (c.withSearches x).searches = x := (rfl)
@[simp] theorem Chan.withSearches_num (c : Chan) (x : List Search) : (c.withSearches x).num = c.num := (rfl)
@[simp] theorem Chan.withSearches_now (c : Chan) (x : List Search) : (c.withSearches x).now = c.now := (rfl)
@[simp] theorem Chan.withSearches_t0 (c : Chan) (x : List Search) : (c.withSearches x).t0 = c.t0 := (rfl)
@[simp] theorem Chan.withSearches_mem (c : Chan) (x : List Search) : (c.withSearches x).mem = c.mem := (rfl)
@[simp] theorem Chan.withSearches_regs (c : Chan) (x : List Search) : (c.withSearches x).regs = c.regs := (rfl)
@[simp] theorem Chan.withSearches_flaws (c : Chan) (x : List Search) : (c.withSearches x).flaws = c.flaws := (rfl)
@[simp] theorem Chan.withSearches_queues (c : Chan) (x : List Search) : (c.withSearches x).queues = c.queues := (rfl)

@[simp] theorem Chan.withAltWaits_altWaits (c : Chan) (x : List AltWait) : (c.withAltWaits x).altWaits = x := (rfl)
@[simp] theorem Chan.withAltWaits_num (c : Chan) (x : List AltWait) : (c.withAltWaits x).num = c.num := (rfl)
@[simp] theorem Chan.withAltWaits_now (c : Chan) (x : List AltWait) : (c.withAltWaits x).now = c.now := (rfl)
@[simp] theorem Chan.withAltWaits_t0 (c : Chan) (x : List AltWait) : (c.withAltWaits x).t0 = c.t0 := (rfl)
@[simp] theorem Chan.withAltWaits_mem (c : Chan) (x : List AltWait) : (c.withAltWaits x).mem = c.mem := (rfl)
@[simp] theorem Chan.withAltWaits_regs (c : Chan) (x : List AltWait) : (c.withAltWaits x).regs = c.regs := (rfl)
@[simp] theorem Chan.withAltWaits_flaws (c : Chan) (x : List AltWait) : (c.withAltWaits x).flaws = c.flaws := (rfl)
@[simp] theorem Chan.withAltWaits_queues (c : Chan) (x : List AltWait) : (c.withAltWaits x).queues = c.queues := (rfl)

@[simp] theorem Chan.withAltHeard_altHeard (c : Chan) (x : List (Nat × Nat × Nat)) : (c.withAltHeard x).altHeard = x := (rfl)
@[simp] theorem Chan.withAltHeard_num (c : Chan) (x : List (Nat × Nat × Nat)) : (c.withAltHeard x).num = c.num := (rfl)
@[simp] theorem Chan.withAltHeard_now (c : Chan) (x : List (Nat × Nat × Nat)) : (c.withAltHeard x).now = c.now := (rfl)
@[simp] theorem Chan.withAltHeard_t0 (c : Chan) (x : List (Nat × Nat × Nat)) : (c.withAltHeard x).t0 = c.t0 := (rfl)
@[simp] theorem Chan.withAltHeard_mem (c : Chan) (x : List (Nat × Nat × Nat)) : (c.withAltHeard x).mem = c.mem := (rfl)
@[simp] theorem Chan.withAltHeard_regs (c : Chan) (x : List (Nat × Nat × Nat)) : (c.withAltHeard x).regs = c.regs := (rfl)
@[simp] theorem Chan.withAltHeard_flaws (c : Chan) (x : List (Nat × Nat × Nat)) : (c.withAltHeard x).flaws = c.flaws := (rfl)
@[simp] theorem Chan.withAltHeard_queues (c : Chan) (x : List (Nat × Nat × Nat)) : (c.withAltHeard x).queues = c.queues := (rfl)

@[simp] theorem Chan.withSpread_spread (c : Chan) (x : List (List SpreadCopy)) : (c.withSpread x).spread = x := (rfl)
@[simp] theorem Chan.withSpread_num (c : Chan) (x : List (List SpreadCopy)) : (c.withSpread x).num = c.num := (rfl)
@[simp] theorem Chan.withSpread_now (c : Chan) (x : List (List SpreadCopy)) : (c.withSpread x).now = c.now := (rfl)
@[simp] theorem Chan.withSpread_t0 (c : Chan) (x : List (List SpreadCopy)) : (c.withSpread x).t0 = c.t0 := (rfl)
@[simp] theorem Chan.withSpread_mem (c : Chan) (x : List (List SpreadCopy)) : (c.withSpread x).mem = c.mem := (rfl)
@[simp] theorem Chan.withSpread_regs (c : Chan) (x : List (List SpreadCopy)) : (c.withSpread x).regs = c.regs := (rfl)
@[simp] theorem Chan.withSpread_flaws (c : Chan) (x : List (List SpreadCopy)) : (c.withSpread x).flaws = c.flaws := (rfl)
@[simp] theorem Chan.withSpread_queues (c : Chan) (x : List (List SpreadCopy)) : (c.withSpread x).queues = c.queues := (rfl)

@[simp] theorem Chan.withClaim_claim (c : Chan) (x : Option Claim) : (c.withClaim x).claim = x := (rfl)
@[simp] theorem Chan.withClaim_num (c : Chan) (x : Option Claim) : (c.withClaim x).num = c.num := (rfl)
@[simp] theorem Chan.withClaim_now (c : Chan) (x : Option Claim) : (c.withClaim x).now = c.now := (rfl)
@[simp] theorem Chan.withClaim_t0 (c : Chan) (x : Option Claim) : (c.withClaim x).t0 = c.t0 := (rfl)
@[simp] theorem Chan.withClaim_mem (c : Chan) (x : Option Claim) : (c.withClaim x).mem = c.mem := (rfl)
@[simp] theorem Chan.withClaim_regs (c : Chan) (x : Option Claim) : (c.withClaim x).regs = c.regs := (rfl)
@[simp] theorem Chan.withClaim_flaws (c : Chan) (x : Option Claim) : (c.withClaim x).flaws = c.flaws := (rfl)
@[simp] theorem Chan.withClaim_queues (c : Chan) (x : Option Claim) : (c.withClaim x).queues = c.queues := (rfl)

@[simp] theorem Chan.withRecovers_recovers (c : Chan) (x : List (List Byte × Nat)) : (c.withRecovers x).recovers = x := (rfl)
@[simp] theorem Chan.withRecovers_num (c : Chan) (x : List (List Byte × Nat)) : (c.withRecovers x).num = c.num := (rfl)
@[simp] theorem Chan.withRecovers_now (c : Chan) (x : List (List Byte × Nat)) : (c.withRecovers x).now = c.now := (rfl)
@[simp] theorem Chan.withRecovers_t0 (c : Chan) (x : List (List Byte × Nat)) : (c.withRecovers x).t0 = c.t0 := (rfl)
@[simp] theorem Chan.withRecovers_mem (c : Chan) (x : List (List Byte × Nat)) : (c.withRecovers x).mem = c.mem := (rfl)
@[simp] theorem Chan.withRecovers_regs (c : Chan) (x : List (List Byte × Nat)) : (c.withRecovers x).regs = c.regs := (rfl)
@[simp] theorem Chan.withRecovers_flaws (c : Chan) (x : List (List Byte × Nat)) : (c.withRecovers x).flaws = c.flaws := (rfl)
@[simp] theorem Chan.withRecovers_queues (c : Chan) (x : List (List Byte × Nat)) : (c.withRecovers x).queues = c.queues := (rfl)

@[simp] theorem Chan.withRecSeen_recSeen (c : Chan) (x : List (Nat × Nat × Nat)) : (c.withRecSeen x).recSeen = x := (rfl)
@[simp] theorem Chan.withRecSeen_num (c : Chan) (x : List (Nat × Nat × Nat)) : (c.withRecSeen x).num = c.num := (rfl)
@[simp] theorem Chan.withRecSeen_now (c : Chan) (x : List (Nat × Nat × Nat)) : (c.withRecSeen x).now = c.now := (rfl)
@[simp] theorem Chan.withRecSeen_t0 (c : Chan) (x : List (Nat × Nat × Nat)) : (c.withRecSeen x).t0 = c.t0 := (rfl)
@[simp] theorem Chan.withRecSeen_mem (c : Chan) (x : List (Nat × Nat × Nat)) : (c.withRecSeen x).mem = c.mem := (rfl)
@[simp] theorem Chan.withRecSeen_regs (c : Chan) (x : List (Nat × Nat × Nat)) : (c.withRecSeen x).regs = c.regs := (rfl)
@[simp] theorem Chan.withRecSeen_flaws (c : Chan) (x : List (Nat × Nat × Nat)) : (c.withRecSeen x).flaws = c.flaws := (rfl)
@[simp] theorem Chan.withRecSeen_queues (c : Chan) (x : List (Nat × Nat × Nat)) : (c.withRecSeen x).queues = c.queues := (rfl)

@[simp] theorem Chan.withSubRecover_subRecover (c : Chan) (x : Option (List Byte)) : (c.withSubRecover x).subRecover = x := (rfl)
@[simp] theorem Chan.withSubRecover_num (c : Chan) (x : Option (List Byte)) : (c.withSubRecover x).num = c.num := (rfl)
@[simp] theorem Chan.withSubRecover_now (c : Chan) (x : Option (List Byte)) : (c.withSubRecover x).now = c.now := (rfl)
@[simp] theorem Chan.withSubRecover_t0 (c : Chan) (x : Option (List Byte)) : (c.withSubRecover x).t0 = c.t0 := (rfl)
@[simp] theorem Chan.withSubRecover_mem (c : Chan) (x : Option (List Byte)) : (c.withSubRecover x).mem = c.mem := (rfl)
@[simp] theorem Chan.withSubRecover_regs (c : Chan) (x : Option (List Byte)) : (c.withSubRecover x).regs = c.regs := (rfl)
@[simp] theorem Chan.withSubRecover_flaws (c : Chan) (x : Option (List Byte)) : (c.withSubRecover x).flaws = c.flaws := (rfl)
@[simp] theorem Chan.withSubRecover_queues (c : Chan) (x : Option (List Byte)) : (c.withSubRecover x).queues = c.queues := (rfl)

@[simp] theorem Chan.withApplying_applying (c : Chan) (x : Option (List Byte)) : (c.withApplying x).applying = x := (rfl)
@[simp] theorem Chan.withApplying_num (c : Chan) (x : Option (List Byte)) : (c.withApplying x).num = c.num := (rfl)
@[simp] theorem Chan.withApplying_now (c : Chan) (x : Option (List Byte)) : (c.withApplying x).now = c.now := (rfl)
@[simp] theorem Chan.withApplying_t0 (c : Chan) (x : Option (List Byte)) : (c.withApplying x).t0 = c.t0 := (rfl)
@[simp] theorem Chan.withApplying_mem (c : Chan) (x : Option (List Byte)) : (c.withApplying x).mem = c.mem := (rfl)
@[simp] theorem Chan.withApplying_regs (c : Chan) (x : Option (List Byte)) : (c.withApplying x).regs = c.regs := (rfl)
@[simp] theorem Chan.withApplying_flaws (c : Chan) (x : Option (List Byte)) : (c.withApplying x).flaws = c.flaws := (rfl)
@[simp] theorem Chan.withApplying_queues (c : Chan) (x : Option (List Byte)) : (c.withApplying x).queues = c.queues := (rfl)

@[simp] theorem Chan.withFencedAt_fencedAt (c : Chan) (x : Option Nat) : (c.withFencedAt x).fencedAt = x := (rfl)
@[simp] theorem Chan.withFencedAt_num (c : Chan) (x : Option Nat) : (c.withFencedAt x).num = c.num := (rfl)
@[simp] theorem Chan.withFencedAt_now (c : Chan) (x : Option Nat) : (c.withFencedAt x).now = c.now := (rfl)
@[simp] theorem Chan.withFencedAt_t0 (c : Chan) (x : Option Nat) : (c.withFencedAt x).t0 = c.t0 := (rfl)
@[simp] theorem Chan.withFencedAt_mem (c : Chan) (x : Option Nat) : (c.withFencedAt x).mem = c.mem := (rfl)
@[simp] theorem Chan.withFencedAt_regs (c : Chan) (x : Option Nat) : (c.withFencedAt x).regs = c.regs := (rfl)
@[simp] theorem Chan.withFencedAt_flaws (c : Chan) (x : Option Nat) : (c.withFencedAt x).flaws = c.flaws := (rfl)
@[simp] theorem Chan.withFencedAt_queues (c : Chan) (x : Option Nat) : (c.withFencedAt x).queues = c.queues := (rfl)

@[simp] theorem Chan.withBootstrap_bootstrap (c : Chan) (x : Option Bootstrap) : (c.withBootstrap x).bootstrap = x := (rfl)
@[simp] theorem Chan.withBootstrap_num (c : Chan) (x : Option Bootstrap) : (c.withBootstrap x).num = c.num := (rfl)
@[simp] theorem Chan.withBootstrap_now (c : Chan) (x : Option Bootstrap) : (c.withBootstrap x).now = c.now := (rfl)
@[simp] theorem Chan.withBootstrap_t0 (c : Chan) (x : Option Bootstrap) : (c.withBootstrap x).t0 = c.t0 := (rfl)
@[simp] theorem Chan.withBootstrap_mem (c : Chan) (x : Option Bootstrap) : (c.withBootstrap x).mem = c.mem := (rfl)
@[simp] theorem Chan.withBootstrap_regs (c : Chan) (x : Option Bootstrap) : (c.withBootstrap x).regs = c.regs := (rfl)
@[simp] theorem Chan.withBootstrap_flaws (c : Chan) (x : Option Bootstrap) : (c.withBootstrap x).flaws = c.flaws := (rfl)
@[simp] theorem Chan.withBootstrap_queues (c : Chan) (x : Option Bootstrap) : (c.withBootstrap x).queues = c.queues := (rfl)

@[simp] theorem Chan.withMbOut_mbOut (c : Chan) (x : List (List Byte)) : (c.withMbOut x).mbOut = x := (rfl)
@[simp] theorem Chan.withMbOut_num (c : Chan) (x : List (List Byte)) : (c.withMbOut x).num = c.num := (rfl)
@[simp] theorem Chan.withMbOut_now (c : Chan) (x : List (List Byte)) : (c.withMbOut x).now = c.now := (rfl)
@[simp] theorem Chan.withMbOut_t0 (c : Chan) (x : List (List Byte)) : (c.withMbOut x).t0 = c.t0 := (rfl)
@[simp] theorem Chan.withMbOut_mem (c : Chan) (x : List (List Byte)) : (c.withMbOut x).mem = c.mem := (rfl)
@[simp] theorem Chan.withMbOut_regs (c : Chan) (x : List (List Byte)) : (c.withMbOut x).regs = c.regs := (rfl)
@[simp] theorem Chan.withMbOut_flaws (c : Chan) (x : List (List Byte)) : (c.withMbOut x).flaws = c.flaws := (rfl)
@[simp] theorem Chan.withMbOut_queues (c : Chan) (x : List (List Byte)) : (c.withMbOut x).queues = c.queues := (rfl)

@[simp] theorem Chan.withMbWait_mbWait (c : Chan) (x : Bool) : (c.withMbWait x).mbWait = x := (rfl)
@[simp] theorem Chan.withMbWait_num (c : Chan) (x : Bool) : (c.withMbWait x).num = c.num := (rfl)
@[simp] theorem Chan.withMbWait_now (c : Chan) (x : Bool) : (c.withMbWait x).now = c.now := (rfl)
@[simp] theorem Chan.withMbWait_t0 (c : Chan) (x : Bool) : (c.withMbWait x).t0 = c.t0 := (rfl)
@[simp] theorem Chan.withMbWait_mem (c : Chan) (x : Bool) : (c.withMbWait x).mem = c.mem := (rfl)
@[simp] theorem Chan.withMbWait_regs (c : Chan) (x : Bool) : (c.withMbWait x).regs = c.regs := (rfl)
@[simp] theorem Chan.withMbWait_flaws (c : Chan) (x : Bool) : (c.withMbWait x).flaws = c.flaws := (rfl)
@[simp] theorem Chan.withMbWait_queues (c : Chan) (x : Bool) : (c.withMbWait x).queues = c.queues := (rfl)

@[simp] theorem Chan.withCores_cores (c : Chan) (x : Tbl Core) : (c.withCores x).cores = x := (rfl)
@[simp] theorem Chan.withCores_num (c : Chan) (x : Tbl Core) : (c.withCores x).num = c.num := (rfl)
@[simp] theorem Chan.withCores_now (c : Chan) (x : Tbl Core) : (c.withCores x).now = c.now := (rfl)
@[simp] theorem Chan.withCores_t0 (c : Chan) (x : Tbl Core) : (c.withCores x).t0 = c.t0 := (rfl)
@[simp] theorem Chan.withCores_mem (c : Chan) (x : Tbl Core) : (c.withCores x).mem = c.mem := (rfl)
@[simp] theorem Chan.withCores_regs (c : Chan) (x : Tbl Core) : (c.withCores x).regs = c.regs := (rfl)
@[simp] theorem Chan.withCores_flaws (c : Chan) (x : Tbl Core) : (c.withCores x).flaws = c.flaws := (rfl)
@[simp] theorem Chan.withCores_queues (c : Chan) (x : Tbl Core) : (c.withCores x).queues = c.queues := (rfl)

@[simp] theorem Chan.withPrios_prios (c : Chan) (x : Tbl (List (Nat × Nat))) : (c.withPrios x).prios = x := (rfl)
@[simp] theorem Chan.withPrios_num (c : Chan) (x : Tbl (List (Nat × Nat))) : (c.withPrios x).num = c.num := (rfl)
@[simp] theorem Chan.withPrios_now (c : Chan) (x : Tbl (List (Nat × Nat))) : (c.withPrios x).now = c.now := (rfl)
@[simp] theorem Chan.withPrios_t0 (c : Chan) (x : Tbl (List (Nat × Nat))) : (c.withPrios x).t0 = c.t0 := (rfl)
@[simp] theorem Chan.withPrios_mem (c : Chan) (x : Tbl (List (Nat × Nat))) : (c.withPrios x).mem = c.mem := (rfl)
@[simp] theorem Chan.withPrios_regs (c : Chan) (x : Tbl (List (Nat × Nat))) : (c.withPrios x).regs = c.regs := (rfl)
@[simp] theorem Chan.withPrios_flaws (c : Chan) (x : Tbl (List (Nat × Nat))) : (c.withPrios x).flaws = c.flaws := (rfl)
@[simp] theorem Chan.withPrios_queues (c : Chan) (x : Tbl (List (Nat × Nat))) : (c.withPrios x).queues = c.queues := (rfl)

@[simp] theorem Chan.withPres5_pres5 (c : Chan) (x : Option Nat) : (c.withPres5 x).pres5 = x := (rfl)
@[simp] theorem Chan.withPres5_num (c : Chan) (x : Option Nat) : (c.withPres5 x).num = c.num := (rfl)
@[simp] theorem Chan.withPres5_now (c : Chan) (x : Option Nat) : (c.withPres5 x).now = c.now := (rfl)
@[simp] theorem Chan.withPres5_t0 (c : Chan) (x : Option Nat) : (c.withPres5 x).t0 = c.t0 := (rfl)
@[simp] theorem Chan.withPres5_mem (c : Chan) (x : Option Nat) : (c.withPres5 x).mem = c.mem := (rfl)
@[simp] theorem Chan.withPres5_regs (c : Chan) (x : Option Nat) : (c.withPres5 x).regs = c.regs := (rfl)
@[simp] theorem Chan.withPres5_flaws (c : Chan) (x : Option Nat) : (c.withPres5 x).flaws = c.flaws := (rfl)
@[simp] theorem Chan.withPres5_queues (c : Chan) (x : Option Nat) : (c.withPres5 x).queues = c.queues := (rfl)

@[simp] theorem Chan.withDue5_due5 (c : Chan) (x : Bool) : (c.withDue5 x).due5 = x := (rfl)
@[simp] theorem Chan.withDue5_num (c : Chan) (x : Bool) : (c.withDue5 x).num = c.num := (rfl)
@[simp] theorem Chan.withDue5_now (c : Chan) (x : Bool) : (c.withDue5 x).now = c.now := (rfl)
@[simp] theorem Chan.withDue5_t0 (c : Chan) (x : Bool) : (c.withDue5 x).t0 = c.t0 := (rfl)
@[simp] theorem Chan.withDue5_mem (c : Chan) (x : Bool) : (c.withDue5 x).mem = c.mem := (rfl)
@[simp] theorem Chan.withDue5_regs (c : Chan) (x : Bool) : (c.withDue5 x).regs = c.regs := (rfl)
@[simp] theorem Chan.withDue5_flaws (c : Chan) (x : Bool) : (c.withDue5 x).flaws = c.flaws := (rfl)
@[simp] theorem Chan.withDue5_queues (c : Chan) (x : Bool) : (c.withDue5 x).queues = c.queues := (rfl)

@[simp] theorem Chan.withPtrans_ptrans (c : Chan) (x : Option PTrans) : (c.withPtrans x).ptrans = x := (rfl)
@[simp] theorem Chan.withPtrans_num (c : Chan) (x : Option PTrans) : (c.withPtrans x).num = c.num := (rfl)
@[simp] theorem Chan.withPtrans_now (c : Chan) (x : Option PTrans) : (c.withPtrans x).now = c.now := (rfl)
@[simp] theorem Chan.withPtrans_t0 (c : Chan) (x : Option PTrans) : (c.withPtrans x).t0 = c.t0 := (rfl)
@[simp] theorem Chan.withPtrans_mem (c : Chan) (x : Option PTrans) : (c.withPtrans x).mem = c.mem := (rfl)
@[simp] theorem Chan.withPtrans_regs (c : Chan) (x : Option PTrans) : (c.withPtrans x).regs = c.regs := (rfl)
@[simp] theorem Chan.withPtrans_flaws (c : Chan) (x : Option PTrans) : (c.withPtrans x).flaws = c.flaws := (rfl)
@[simp] theorem Chan.withPtrans_queues (c : Chan) (x : Option PTrans) : (c.withPtrans x).queues = c.queues := (rfl)

@[simp] theorem Chan.withQuietSince_quietSince (c : Chan) (x : Option Nat) : (c.withQuietSince x).quietSince = x := (rfl)
@[simp] theorem Chan.withQuietSince_num (c : Chan) (x : Option Nat) : (c.withQuietSince x).num = c.num := (rfl)
@[simp] theorem Chan.withQuietSince_now (c : Chan) (x : Option Nat) : (c.withQuietSince x).now = c.now := (rfl)
@[simp] theorem Chan.withQuietSince_t0 (c : Chan) (x : Option Nat) : (c.withQuietSince x).t0 = c.t0 := (rfl)
@[simp] theorem Chan.withQuietSince_mem (c : Chan) (x : Option Nat) : (c.withQuietSince x).mem = c.mem := (rfl)
@[simp] theorem Chan.withQuietSince_regs (c : Chan) (x : Option Nat) : (c.withQuietSince x).regs = c.regs := (rfl)
@[simp] theorem Chan.withQuietSince_flaws (c : Chan) (x : Option Nat) : (c.withQuietSince x).flaws = c.flaws := (rfl)
@[simp] theorem Chan.withQuietSince_queues (c : Chan) (x : Option Nat) : (c.withQuietSince x).queues = c.queues := (rfl)

@[simp] theorem Chan.withNoCompute_noCompute (c : Chan) (x : Bool) : (c.withNoCompute x).noCompute = x := (rfl)
@[simp] theorem Chan.withNoCompute_num (c : Chan) (x : Bool) : (c.withNoCompute x).num = c.num := (rfl)
@[simp] theorem Chan.withNoCompute_now (c : Chan) (x : Bool) : (c.withNoCompute x).now = c.now := (rfl)
@[simp] theorem Chan.withNoCompute_t0 (c : Chan) (x : Bool) : (c.withNoCompute x).t0 = c.t0 := (rfl)
@[simp] theorem Chan.withNoCompute_mem (c : Chan) (x : Bool) : (c.withNoCompute x).mem = c.mem := (rfl)
@[simp] theorem Chan.withNoCompute_regs (c : Chan) (x : Bool) : (c.withNoCompute x).regs = c.regs := (rfl)
@[simp] theorem Chan.withNoCompute_flaws (c : Chan) (x : Bool) : (c.withNoCompute x).flaws = c.flaws := (rfl)
@[simp] theorem Chan.withNoCompute_queues (c : Chan) (x : Bool) : (c.withNoCompute x).queues = c.queues := (rfl)

@[simp] theorem Chan.withEn_en (c : Chan) (x : En) : (c.withEn x).en = x := (rfl)
@[simp] theorem Chan.withEn_num (c : Chan) (x : En) : (c.withEn x).num = c.num := (rfl)
@[simp] theorem Chan.withEn_now (c : Chan) (x : En) : (c.withEn x).now = c.now := (rfl)
@[simp] theorem Chan.withEn_t0 (c : Chan) (x : En) : (c.withEn x).t0 = c.t0 := (rfl)
@[simp] theorem Chan.withEn_mem (c : Chan) (x : En) : (c.withEn x).mem = c.mem := (rfl)
@[simp] theorem Chan.withEn_regs (c : Chan) (x : En) : (c.withEn x).regs = c.regs := (rfl)
@[simp] theorem Chan.withEn_flaws (c : Chan) (x : En) : (c.withEn x).flaws = c.flaws := (rfl)
@[simp] theorem Chan.withEn_queues (c : Chan) (x : En) : (c.withEn x).queues = c.queues := (rfl)

@[simp] theorem Chan.withUc_uc (c : Chan) (x : Uc) : (c.withUc x).uc = x := (rfl)
@[simp] theorem Chan.withUc_num (c : Chan) (x : Uc) : (c.withUc x).num = c.num := (rfl)
@[simp] theorem Chan.withUc_now (c : Chan) (x : Uc) : (c.withUc x).now = c.now := (rfl)
@[simp] theorem Chan.withUc_t0 (c : Chan) (x : Uc) : (c.withUc x).t0 = c.t0 := (rfl)
@[simp] theorem Chan.withUc_mem (c : Chan) (x : Uc) : (c.withUc x).mem = c.mem := (rfl)
@[simp] theorem Chan.withUc_regs (c : Chan) (x : Uc) : (c.withUc x).regs = c.regs := (rfl)
@[simp] theorem Chan.withUc_flaws (c : Chan) (x : Uc) : (c.withUc x).flaws = c.flaws := (rfl)
@[simp] theorem Chan.withUc_queues (c : Chan) (x : Uc) : (c.withUc x).queues = c.queues := (rfl)

@[simp] theorem Chan.withBands_bands (c : Chan) (x : Tbl Band) : (c.withBands x).bands = x := (rfl)
@[simp] theorem Chan.withBands_num (c : Chan) (x : Tbl Band) : (c.withBands x).num = c.num := (rfl)
@[simp] theorem Chan.withBands_now (c : Chan) (x : Tbl Band) : (c.withBands x).now = c.now := (rfl)
@[simp] theorem Chan.withBands_t0 (c : Chan) (x : Tbl Band) : (c.withBands x).t0 = c.t0 := (rfl)
@[simp] theorem Chan.withBands_mem (c : Chan) (x : Tbl Band) : (c.withBands x).mem = c.mem := (rfl)
@[simp] theorem Chan.withBands_regs (c : Chan) (x : Tbl Band) : (c.withBands x).regs = c.regs := (rfl)
@[simp] theorem Chan.withBands_flaws (c : Chan) (x : Tbl Band) : (c.withBands x).flaws = c.flaws := (rfl)
@[simp] theorem Chan.withBands_queues (c : Chan) (x : Tbl Band) : (c.withBands x).queues = c.queues := (rfl)

@[simp] theorem Chan.withThermTick_thermTick (c : Chan) (x : Nat) : (c.withThermTick x).thermTick = x := (rfl)
@[simp] theorem Chan.withThermTick_num (c : Chan) (x : Nat) : (c.withThermTick x).num = c.num := (rfl)
@[simp] theorem Chan.withThermTick_now (c : Chan) (x : Nat) : (c.withThermTick x).now = c.now := (rfl)
@[simp] theorem Chan.withThermTick_t0 (c : Chan) (x : Nat) : (c.withThermTick x).t0 = c.t0 := (rfl)
@[simp] theorem Chan.withThermTick_mem (c : Chan) (x : Nat) : (c.withThermTick x).mem = c.mem := (rfl)
@[simp] theorem Chan.withThermTick_regs (c : Chan) (x : Nat) : (c.withThermTick x).regs = c.regs := (rfl)
@[simp] theorem Chan.withThermTick_flaws (c : Chan) (x : Nat) : (c.withThermTick x).flaws = c.flaws := (rfl)
@[simp] theorem Chan.withThermTick_queues (c : Chan) (x : Nat) : (c.withThermTick x).queues = c.queues := (rfl)

@[simp] theorem Chan.withEnvTick_envTick (c : Chan) (x : Nat) : (c.withEnvTick x).envTick = x := (rfl)
@[simp] theorem Chan.withEnvTick_num (c : Chan) (x : Nat) : (c.withEnvTick x).num = c.num := (rfl)
@[simp] theorem Chan.withEnvTick_now (c : Chan) (x : Nat) : (c.withEnvTick x).now = c.now := (rfl)
@[simp] theorem Chan.withEnvTick_t0 (c : Chan) (x : Nat) : (c.withEnvTick x).t0 = c.t0 := (rfl)
@[simp] theorem Chan.withEnvTick_mem (c : Chan) (x : Nat) : (c.withEnvTick x).mem = c.mem := (rfl)
@[simp] theorem Chan.withEnvTick_regs (c : Chan) (x : Nat) : (c.withEnvTick x).regs = c.regs := (rfl)
@[simp] theorem Chan.withEnvTick_flaws (c : Chan) (x : Nat) : (c.withEnvTick x).flaws = c.flaws := (rfl)
@[simp] theorem Chan.withEnvTick_queues (c : Chan) (x : Nat) : (c.withEnvTick x).queues = c.queues := (rfl)

@[simp] theorem Chan.withSampTick_sampTick (c : Chan) (x : Nat) : (c.withSampTick x).sampTick = x := (rfl)
@[simp] theorem Chan.withSampTick_num (c : Chan) (x : Nat) : (c.withSampTick x).num = c.num := (rfl)
@[simp] theorem Chan.withSampTick_now (c : Chan) (x : Nat) : (c.withSampTick x).now = c.now := (rfl)
@[simp] theorem Chan.withSampTick_t0 (c : Chan) (x : Nat) : (c.withSampTick x).t0 = c.t0 := (rfl)
@[simp] theorem Chan.withSampTick_mem (c : Chan) (x : Nat) : (c.withSampTick x).mem = c.mem := (rfl)
@[simp] theorem Chan.withSampTick_regs (c : Chan) (x : Nat) : (c.withSampTick x).regs = c.regs := (rfl)
@[simp] theorem Chan.withSampTick_flaws (c : Chan) (x : Nat) : (c.withSampTick x).flaws = c.flaws := (rfl)
@[simp] theorem Chan.withSampTick_queues (c : Chan) (x : Nat) : (c.withSampTick x).queues = c.queues := (rfl)

@[simp] theorem Chan.withSensBad_sensBad (c : Chan) (x : Nat) : (c.withSensBad x).sensBad = x := (rfl)
@[simp] theorem Chan.withSensBad_num (c : Chan) (x : Nat) : (c.withSensBad x).num = c.num := (rfl)
@[simp] theorem Chan.withSensBad_now (c : Chan) (x : Nat) : (c.withSensBad x).now = c.now := (rfl)
@[simp] theorem Chan.withSensBad_t0 (c : Chan) (x : Nat) : (c.withSensBad x).t0 = c.t0 := (rfl)
@[simp] theorem Chan.withSensBad_mem (c : Chan) (x : Nat) : (c.withSensBad x).mem = c.mem := (rfl)
@[simp] theorem Chan.withSensBad_regs (c : Chan) (x : Nat) : (c.withSensBad x).regs = c.regs := (rfl)
@[simp] theorem Chan.withSensBad_flaws (c : Chan) (x : Nat) : (c.withSensBad x).flaws = c.flaws := (rfl)
@[simp] theorem Chan.withSensBad_queues (c : Chan) (x : Nat) : (c.withSensBad x).queues = c.queues := (rfl)

@[simp] theorem Chan.withHpdGen_hpdGen (c : Chan) (x : Nat) : (c.withHpdGen x).hpdGen = x := (rfl)
@[simp] theorem Chan.withHpdGen_num (c : Chan) (x : Nat) : (c.withHpdGen x).num = c.num := (rfl)
@[simp] theorem Chan.withHpdGen_now (c : Chan) (x : Nat) : (c.withHpdGen x).now = c.now := (rfl)
@[simp] theorem Chan.withHpdGen_t0 (c : Chan) (x : Nat) : (c.withHpdGen x).t0 = c.t0 := (rfl)
@[simp] theorem Chan.withHpdGen_mem (c : Chan) (x : Nat) : (c.withHpdGen x).mem = c.mem := (rfl)
@[simp] theorem Chan.withHpdGen_regs (c : Chan) (x : Nat) : (c.withHpdGen x).regs = c.regs := (rfl)
@[simp] theorem Chan.withHpdGen_flaws (c : Chan) (x : Nat) : (c.withHpdGen x).flaws = c.flaws := (rfl)
@[simp] theorem Chan.withHpdGen_queues (c : Chan) (x : Nat) : (c.withHpdGen x).queues = c.queues := (rfl)

@[simp] theorem Chan.withRefLost_refLost (c : Chan) (x : Bool) : (c.withRefLost x).refLost = x := (rfl)
@[simp] theorem Chan.withRefLost_num (c : Chan) (x : Bool) : (c.withRefLost x).num = c.num := (rfl)
@[simp] theorem Chan.withRefLost_now (c : Chan) (x : Bool) : (c.withRefLost x).now = c.now := (rfl)
@[simp] theorem Chan.withRefLost_t0 (c : Chan) (x : Bool) : (c.withRefLost x).t0 = c.t0 := (rfl)
@[simp] theorem Chan.withRefLost_mem (c : Chan) (x : Bool) : (c.withRefLost x).mem = c.mem := (rfl)
@[simp] theorem Chan.withRefLost_regs (c : Chan) (x : Bool) : (c.withRefLost x).regs = c.regs := (rfl)
@[simp] theorem Chan.withRefLost_flaws (c : Chan) (x : Bool) : (c.withRefLost x).flaws = c.flaws := (rfl)
@[simp] theorem Chan.withRefLost_queues (c : Chan) (x : Bool) : (c.withRefLost x).queues = c.queues := (rfl)

@[simp] theorem Chan.withHlogHeld_hlogHeld (c : Chan) (x : List (List Byte)) : (c.withHlogHeld x).hlogHeld = x := (rfl)
@[simp] theorem Chan.withHlogHeld_num (c : Chan) (x : List (List Byte)) : (c.withHlogHeld x).num = c.num := (rfl)
@[simp] theorem Chan.withHlogHeld_now (c : Chan) (x : List (List Byte)) : (c.withHlogHeld x).now = c.now := (rfl)
@[simp] theorem Chan.withHlogHeld_t0 (c : Chan) (x : List (List Byte)) : (c.withHlogHeld x).t0 = c.t0 := (rfl)
@[simp] theorem Chan.withHlogHeld_mem (c : Chan) (x : List (List Byte)) : (c.withHlogHeld x).mem = c.mem := (rfl)
@[simp] theorem Chan.withHlogHeld_regs (c : Chan) (x : List (List Byte)) : (c.withHlogHeld x).regs = c.regs := (rfl)
@[simp] theorem Chan.withHlogHeld_flaws (c : Chan) (x : List (List Byte)) : (c.withHlogHeld x).flaws = c.flaws := (rfl)
@[simp] theorem Chan.withHlogHeld_queues (c : Chan) (x : List (List Byte)) : (c.withHlogHeld x).queues = c.queues := (rfl)

@[simp] theorem Chan.withHostUp_hostUp (c : Chan) (x : Bool) : (c.withHostUp x).hostUp = x := (rfl)
@[simp] theorem Chan.withHostUp_num (c : Chan) (x : Bool) : (c.withHostUp x).num = c.num := (rfl)
@[simp] theorem Chan.withHostUp_now (c : Chan) (x : Bool) : (c.withHostUp x).now = c.now := (rfl)
@[simp] theorem Chan.withHostUp_t0 (c : Chan) (x : Bool) : (c.withHostUp x).t0 = c.t0 := (rfl)
@[simp] theorem Chan.withHostUp_mem (c : Chan) (x : Bool) : (c.withHostUp x).mem = c.mem := (rfl)
@[simp] theorem Chan.withHostUp_regs (c : Chan) (x : Bool) : (c.withHostUp x).regs = c.regs := (rfl)
@[simp] theorem Chan.withHostUp_flaws (c : Chan) (x : Bool) : (c.withHostUp x).flaws = c.flaws := (rfl)
@[simp] theorem Chan.withHostUp_queues (c : Chan) (x : Bool) : (c.withHostUp x).queues = c.queues := (rfl)

@[simp] theorem Chan.withHlogFull_hlogFull (c : Chan) (x : Bool) : (c.withHlogFull x).hlogFull = x := (rfl)
@[simp] theorem Chan.withHlogFull_num (c : Chan) (x : Bool) : (c.withHlogFull x).num = c.num := (rfl)
@[simp] theorem Chan.withHlogFull_now (c : Chan) (x : Bool) : (c.withHlogFull x).now = c.now := (rfl)
@[simp] theorem Chan.withHlogFull_t0 (c : Chan) (x : Bool) : (c.withHlogFull x).t0 = c.t0 := (rfl)
@[simp] theorem Chan.withHlogFull_mem (c : Chan) (x : Bool) : (c.withHlogFull x).mem = c.mem := (rfl)
@[simp] theorem Chan.withHlogFull_regs (c : Chan) (x : Bool) : (c.withHlogFull x).regs = c.regs := (rfl)
@[simp] theorem Chan.withHlogFull_flaws (c : Chan) (x : Bool) : (c.withHlogFull x).flaws = c.flaws := (rfl)
@[simp] theorem Chan.withHlogFull_queues (c : Chan) (x : Bool) : (c.withHlogFull x).queues = c.queues := (rfl)

@[simp] theorem Chan.withIrqWas_irqWas (c : Chan) (x : Bool) : (c.withIrqWas x).irqWas = x := (rfl)
@[simp] theorem Chan.withIrqWas_num (c : Chan) (x : Bool) : (c.withIrqWas x).num = c.num := (rfl)
@[simp] theorem Chan.withIrqWas_now (c : Chan) (x : Bool) : (c.withIrqWas x).now = c.now := (rfl)
@[simp] theorem Chan.withIrqWas_t0 (c : Chan) (x : Bool) : (c.withIrqWas x).t0 = c.t0 := (rfl)
@[simp] theorem Chan.withIrqWas_mem (c : Chan) (x : Bool) : (c.withIrqWas x).mem = c.mem := (rfl)
@[simp] theorem Chan.withIrqWas_regs (c : Chan) (x : Bool) : (c.withIrqWas x).regs = c.regs := (rfl)
@[simp] theorem Chan.withIrqWas_flaws (c : Chan) (x : Bool) : (c.withIrqWas x).flaws = c.flaws := (rfl)
@[simp] theorem Chan.withIrqWas_queues (c : Chan) (x : Bool) : (c.withIrqWas x).queues = c.queues := (rfl)

@[simp] theorem Hpd.withNow_now (h : Hpd) (x : Nat) : (h.withNow x).now = x := (rfl)
@[simp] theorem Hpd.withNow_regs (h : Hpd) (x : Nat) : (h.withNow x).regs = h.regs := (rfl)
@[simp] theorem Hpd.withNow_flash (h : Hpd) (x : Nat) : (h.withNow x).flash = h.flash := (rfl)
@[simp] theorem Hpd.withNow_keys (h : Hpd) (x : Nat) : (h.withNow x).keys = h.keys := (rfl)
@[simp] theorem Hpd.withNow_good (h : Hpd) (x : Nat) : (h.withNow x).good = h.good := (rfl)
@[simp] theorem Hpd.withNow_log (h : Hpd) (x : Nat) : (h.withNow x).log = h.log := (rfl)
@[simp] theorem Hpd.withNow_nv (h : Hpd) (x : Nat) : (h.withNow x).nv = h.nv := (rfl)

@[simp] theorem Hpd.withFresh_fresh (h : Hpd) (x : Nat) : (h.withFresh x).fresh = x := (rfl)
@[simp] theorem Hpd.withFresh_now (h : Hpd) (x : Nat) : (h.withFresh x).now = h.now := (rfl)
@[simp] theorem Hpd.withFresh_regs (h : Hpd) (x : Nat) : (h.withFresh x).regs = h.regs := (rfl)
@[simp] theorem Hpd.withFresh_flash (h : Hpd) (x : Nat) : (h.withFresh x).flash = h.flash := (rfl)
@[simp] theorem Hpd.withFresh_keys (h : Hpd) (x : Nat) : (h.withFresh x).keys = h.keys := (rfl)
@[simp] theorem Hpd.withFresh_good (h : Hpd) (x : Nat) : (h.withFresh x).good = h.good := (rfl)
@[simp] theorem Hpd.withFresh_log (h : Hpd) (x : Nat) : (h.withFresh x).log = h.log := (rfl)
@[simp] theorem Hpd.withFresh_nv (h : Hpd) (x : Nat) : (h.withFresh x).nv = h.nv := (rfl)

@[simp] theorem Hpd.withRegs_regs (h : Hpd) (x : Tbl Reg) : (h.withRegs x).regs = x := (rfl)
@[simp] theorem Hpd.withRegs_now (h : Hpd) (x : Tbl Reg) : (h.withRegs x).now = h.now := (rfl)
@[simp] theorem Hpd.withRegs_flash (h : Hpd) (x : Tbl Reg) : (h.withRegs x).flash = h.flash := (rfl)
@[simp] theorem Hpd.withRegs_keys (h : Hpd) (x : Tbl Reg) : (h.withRegs x).keys = h.keys := (rfl)
@[simp] theorem Hpd.withRegs_good (h : Hpd) (x : Tbl Reg) : (h.withRegs x).good = h.good := (rfl)
@[simp] theorem Hpd.withRegs_log (h : Hpd) (x : Tbl Reg) : (h.withRegs x).log = h.log := (rfl)
@[simp] theorem Hpd.withRegs_nv (h : Hpd) (x : Tbl Reg) : (h.withRegs x).nv = h.nv := (rfl)

@[simp] theorem Hpd.withLog_log (h : Hpd) (x : Tbl EvRec) : (h.withLog x).log = x := (rfl)
@[simp] theorem Hpd.withLog_now (h : Hpd) (x : Tbl EvRec) : (h.withLog x).now = h.now := (rfl)
@[simp] theorem Hpd.withLog_regs (h : Hpd) (x : Tbl EvRec) : (h.withLog x).regs = h.regs := (rfl)
@[simp] theorem Hpd.withLog_flash (h : Hpd) (x : Tbl EvRec) : (h.withLog x).flash = h.flash := (rfl)
@[simp] theorem Hpd.withLog_keys (h : Hpd) (x : Tbl EvRec) : (h.withLog x).keys = h.keys := (rfl)
@[simp] theorem Hpd.withLog_good (h : Hpd) (x : Tbl EvRec) : (h.withLog x).good = h.good := (rfl)
@[simp] theorem Hpd.withLog_nv (h : Hpd) (x : Tbl EvRec) : (h.withLog x).nv = h.nv := (rfl)

@[simp] theorem Hpd.withNv_nv (h : Hpd) (x : Tbl EvRec) : (h.withNv x).nv = x := (rfl)
@[simp] theorem Hpd.withNv_now (h : Hpd) (x : Tbl EvRec) : (h.withNv x).now = h.now := (rfl)
@[simp] theorem Hpd.withNv_regs (h : Hpd) (x : Tbl EvRec) : (h.withNv x).regs = h.regs := (rfl)
@[simp] theorem Hpd.withNv_flash (h : Hpd) (x : Tbl EvRec) : (h.withNv x).flash = h.flash := (rfl)
@[simp] theorem Hpd.withNv_keys (h : Hpd) (x : Tbl EvRec) : (h.withNv x).keys = h.keys := (rfl)
@[simp] theorem Hpd.withNv_good (h : Hpd) (x : Tbl EvRec) : (h.withNv x).good = h.good := (rfl)
@[simp] theorem Hpd.withNv_log (h : Hpd) (x : Tbl EvRec) : (h.withNv x).log = h.log := (rfl)

@[simp] theorem Hpd.withNvCount_nvCount (h : Hpd) (x : Nat) : (h.withNvCount x).nvCount = x := (rfl)
@[simp] theorem Hpd.withNvCount_now (h : Hpd) (x : Nat) : (h.withNvCount x).now = h.now := (rfl)
@[simp] theorem Hpd.withNvCount_regs (h : Hpd) (x : Nat) : (h.withNvCount x).regs = h.regs := (rfl)
@[simp] theorem Hpd.withNvCount_flash (h : Hpd) (x : Nat) : (h.withNvCount x).flash = h.flash := (rfl)
@[simp] theorem Hpd.withNvCount_keys (h : Hpd) (x : Nat) : (h.withNvCount x).keys = h.keys := (rfl)
@[simp] theorem Hpd.withNvCount_good (h : Hpd) (x : Nat) : (h.withNvCount x).good = h.good := (rfl)
@[simp] theorem Hpd.withNvCount_log (h : Hpd) (x : Nat) : (h.withNvCount x).log = h.log := (rfl)
@[simp] theorem Hpd.withNvCount_nv (h : Hpd) (x : Nat) : (h.withNvCount x).nv = h.nv := (rfl)

@[simp] theorem Hpd.withRate_rate (h : Hpd) (x : Tbl (Nat × Nat)) : (h.withRate x).rate = x := (rfl)
@[simp] theorem Hpd.withRate_now (h : Hpd) (x : Tbl (Nat × Nat)) : (h.withRate x).now = h.now := (rfl)
@[simp] theorem Hpd.withRate_regs (h : Hpd) (x : Tbl (Nat × Nat)) : (h.withRate x).regs = h.regs := (rfl)
@[simp] theorem Hpd.withRate_flash (h : Hpd) (x : Tbl (Nat × Nat)) : (h.withRate x).flash = h.flash := (rfl)
@[simp] theorem Hpd.withRate_keys (h : Hpd) (x : Tbl (Nat × Nat)) : (h.withRate x).keys = h.keys := (rfl)
@[simp] theorem Hpd.withRate_good (h : Hpd) (x : Tbl (Nat × Nat)) : (h.withRate x).good = h.good := (rfl)
@[simp] theorem Hpd.withRate_log (h : Hpd) (x : Tbl (Nat × Nat)) : (h.withRate x).log = h.log := (rfl)
@[simp] theorem Hpd.withRate_nv (h : Hpd) (x : Tbl (Nat × Nat)) : (h.withRate x).nv = h.nv := (rfl)

@[simp] theorem Hpd.withFlash_flash (h : Hpd) (x : Tbl Byte) : (h.withFlash x).flash = x := (rfl)
@[simp] theorem Hpd.withFlash_now (h : Hpd) (x : Tbl Byte) : (h.withFlash x).now = h.now := (rfl)
@[simp] theorem Hpd.withFlash_regs (h : Hpd) (x : Tbl Byte) : (h.withFlash x).regs = h.regs := (rfl)
@[simp] theorem Hpd.withFlash_keys (h : Hpd) (x : Tbl Byte) : (h.withFlash x).keys = h.keys := (rfl)
@[simp] theorem Hpd.withFlash_good (h : Hpd) (x : Tbl Byte) : (h.withFlash x).good = h.good := (rfl)
@[simp] theorem Hpd.withFlash_log (h : Hpd) (x : Tbl Byte) : (h.withFlash x).log = h.log := (rfl)
@[simp] theorem Hpd.withFlash_nv (h : Hpd) (x : Tbl Byte) : (h.withFlash x).nv = h.nv := (rfl)

@[simp] theorem Hpd.withSecBuf_secBuf (h : Hpd) (x : Tbl Byte) : (h.withSecBuf x).secBuf = x := (rfl)
@[simp] theorem Hpd.withSecBuf_now (h : Hpd) (x : Tbl Byte) : (h.withSecBuf x).now = h.now := (rfl)
@[simp] theorem Hpd.withSecBuf_regs (h : Hpd) (x : Tbl Byte) : (h.withSecBuf x).regs = h.regs := (rfl)
@[simp] theorem Hpd.withSecBuf_flash (h : Hpd) (x : Tbl Byte) : (h.withSecBuf x).flash = h.flash := (rfl)
@[simp] theorem Hpd.withSecBuf_keys (h : Hpd) (x : Tbl Byte) : (h.withSecBuf x).keys = h.keys := (rfl)
@[simp] theorem Hpd.withSecBuf_good (h : Hpd) (x : Tbl Byte) : (h.withSecBuf x).good = h.good := (rfl)
@[simp] theorem Hpd.withSecBuf_log (h : Hpd) (x : Tbl Byte) : (h.withSecBuf x).log = h.log := (rfl)
@[simp] theorem Hpd.withSecBuf_nv (h : Hpd) (x : Tbl Byte) : (h.withSecBuf x).nv = h.nv := (rfl)

@[simp] theorem Hpd.withSylBuf_sylBuf (h : Hpd) (x : Tbl Byte) : (h.withSylBuf x).sylBuf = x := (rfl)
@[simp] theorem Hpd.withSylBuf_now (h : Hpd) (x : Tbl Byte) : (h.withSylBuf x).now = h.now := (rfl)
@[simp] theorem Hpd.withSylBuf_regs (h : Hpd) (x : Tbl Byte) : (h.withSylBuf x).regs = h.regs := (rfl)
@[simp] theorem Hpd.withSylBuf_flash (h : Hpd) (x : Tbl Byte) : (h.withSylBuf x).flash = h.flash := (rfl)
@[simp] theorem Hpd.withSylBuf_keys (h : Hpd) (x : Tbl Byte) : (h.withSylBuf x).keys = h.keys := (rfl)
@[simp] theorem Hpd.withSylBuf_good (h : Hpd) (x : Tbl Byte) : (h.withSylBuf x).good = h.good := (rfl)
@[simp] theorem Hpd.withSylBuf_log (h : Hpd) (x : Tbl Byte) : (h.withSylBuf x).log = h.log := (rfl)
@[simp] theorem Hpd.withSylBuf_nv (h : Hpd) (x : Tbl Byte) : (h.withSylBuf x).nv = h.nv := (rfl)

@[simp] theorem Hpd.withHeader_header (h : Hpd) (x : Option (List Byte)) : (h.withHeader x).header = x := (rfl)
@[simp] theorem Hpd.withHeader_now (h : Hpd) (x : Option (List Byte)) : (h.withHeader x).now = h.now := (rfl)
@[simp] theorem Hpd.withHeader_regs (h : Hpd) (x : Option (List Byte)) : (h.withHeader x).regs = h.regs := (rfl)
@[simp] theorem Hpd.withHeader_flash (h : Hpd) (x : Option (List Byte)) : (h.withHeader x).flash = h.flash := (rfl)
@[simp] theorem Hpd.withHeader_keys (h : Hpd) (x : Option (List Byte)) : (h.withHeader x).keys = h.keys := (rfl)
@[simp] theorem Hpd.withHeader_good (h : Hpd) (x : Option (List Byte)) : (h.withHeader x).good = h.good := (rfl)
@[simp] theorem Hpd.withHeader_log (h : Hpd) (x : Option (List Byte)) : (h.withHeader x).log = h.log := (rfl)
@[simp] theorem Hpd.withHeader_nv (h : Hpd) (x : Option (List Byte)) : (h.withHeader x).nv = h.nv := (rfl)

@[simp] theorem Hpd.withP0_p0 (h : Hpd) (x : Bool) : (h.withP0 x).p0 = x := (rfl)
@[simp] theorem Hpd.withP0_now (h : Hpd) (x : Bool) : (h.withP0 x).now = h.now := (rfl)
@[simp] theorem Hpd.withP0_regs (h : Hpd) (x : Bool) : (h.withP0 x).regs = h.regs := (rfl)
@[simp] theorem Hpd.withP0_flash (h : Hpd) (x : Bool) : (h.withP0 x).flash = h.flash := (rfl)
@[simp] theorem Hpd.withP0_keys (h : Hpd) (x : Bool) : (h.withP0 x).keys = h.keys := (rfl)
@[simp] theorem Hpd.withP0_good (h : Hpd) (x : Bool) : (h.withP0 x).good = h.good := (rfl)
@[simp] theorem Hpd.withP0_log (h : Hpd) (x : Bool) : (h.withP0 x).log = h.log := (rfl)
@[simp] theorem Hpd.withP0_nv (h : Hpd) (x : Bool) : (h.withP0 x).nv = h.nv := (rfl)

@[simp] theorem Hpd.withKeyFuses_keyFuses (h : Hpd) (x : Tbl (List Byte)) : (h.withKeyFuses x).keyFuses = x := (rfl)
@[simp] theorem Hpd.withKeyFuses_now (h : Hpd) (x : Tbl (List Byte)) : (h.withKeyFuses x).now = h.now := (rfl)
@[simp] theorem Hpd.withKeyFuses_regs (h : Hpd) (x : Tbl (List Byte)) : (h.withKeyFuses x).regs = h.regs := (rfl)
@[simp] theorem Hpd.withKeyFuses_flash (h : Hpd) (x : Tbl (List Byte)) : (h.withKeyFuses x).flash = h.flash := (rfl)
@[simp] theorem Hpd.withKeyFuses_keys (h : Hpd) (x : Tbl (List Byte)) : (h.withKeyFuses x).keys = h.keys := (rfl)
@[simp] theorem Hpd.withKeyFuses_good (h : Hpd) (x : Tbl (List Byte)) : (h.withKeyFuses x).good = h.good := (rfl)
@[simp] theorem Hpd.withKeyFuses_log (h : Hpd) (x : Tbl (List Byte)) : (h.withKeyFuses x).log = h.log := (rfl)
@[simp] theorem Hpd.withKeyFuses_nv (h : Hpd) (x : Tbl (List Byte)) : (h.withKeyFuses x).nv = h.nv := (rfl)

@[simp] theorem Hpd.withKeys_keys (h : Hpd) (x : Tbl (List Byte)) : (h.withKeys x).keys = x := (rfl)
@[simp] theorem Hpd.withKeys_now (h : Hpd) (x : Tbl (List Byte)) : (h.withKeys x).now = h.now := (rfl)
@[simp] theorem Hpd.withKeys_regs (h : Hpd) (x : Tbl (List Byte)) : (h.withKeys x).regs = h.regs := (rfl)
@[simp] theorem Hpd.withKeys_flash (h : Hpd) (x : Tbl (List Byte)) : (h.withKeys x).flash = h.flash := (rfl)
@[simp] theorem Hpd.withKeys_good (h : Hpd) (x : Tbl (List Byte)) : (h.withKeys x).good = h.good := (rfl)
@[simp] theorem Hpd.withKeys_log (h : Hpd) (x : Tbl (List Byte)) : (h.withKeys x).log = h.log := (rfl)
@[simp] theorem Hpd.withKeys_nv (h : Hpd) (x : Tbl (List Byte)) : (h.withKeys x).nv = h.nv := (rfl)

@[simp] theorem Hpd.withIdFuse_idFuse (h : Hpd) (x : List Byte) : (h.withIdFuse x).idFuse = x := (rfl)
@[simp] theorem Hpd.withIdFuse_now (h : Hpd) (x : List Byte) : (h.withIdFuse x).now = h.now := (rfl)
@[simp] theorem Hpd.withIdFuse_regs (h : Hpd) (x : List Byte) : (h.withIdFuse x).regs = h.regs := (rfl)
@[simp] theorem Hpd.withIdFuse_flash (h : Hpd) (x : List Byte) : (h.withIdFuse x).flash = h.flash := (rfl)
@[simp] theorem Hpd.withIdFuse_keys (h : Hpd) (x : List Byte) : (h.withIdFuse x).keys = h.keys := (rfl)
@[simp] theorem Hpd.withIdFuse_good (h : Hpd) (x : List Byte) : (h.withIdFuse x).good = h.good := (rfl)
@[simp] theorem Hpd.withIdFuse_log (h : Hpd) (x : List Byte) : (h.withIdFuse x).log = h.log := (rfl)
@[simp] theorem Hpd.withIdFuse_nv (h : Hpd) (x : List Byte) : (h.withIdFuse x).nv = h.nv := (rfl)

@[simp] theorem Hpd.withSeeds_seeds (h : Hpd) (x : Option (BitVec 768)) : (h.withSeeds x).seeds = x := (rfl)
@[simp] theorem Hpd.withSeeds_now (h : Hpd) (x : Option (BitVec 768)) : (h.withSeeds x).now = h.now := (rfl)
@[simp] theorem Hpd.withSeeds_regs (h : Hpd) (x : Option (BitVec 768)) : (h.withSeeds x).regs = h.regs := (rfl)
@[simp] theorem Hpd.withSeeds_flash (h : Hpd) (x : Option (BitVec 768)) : (h.withSeeds x).flash = h.flash := (rfl)
@[simp] theorem Hpd.withSeeds_keys (h : Hpd) (x : Option (BitVec 768)) : (h.withSeeds x).keys = h.keys := (rfl)
@[simp] theorem Hpd.withSeeds_good (h : Hpd) (x : Option (BitVec 768)) : (h.withSeeds x).good = h.good := (rfl)
@[simp] theorem Hpd.withSeeds_log (h : Hpd) (x : Option (BitVec 768)) : (h.withSeeds x).log = h.log := (rfl)
@[simp] theorem Hpd.withSeeds_nv (h : Hpd) (x : Option (BitVec 768)) : (h.withSeeds x).nv = h.nv := (rfl)

@[simp] theorem Hpd.withSecFailed_secFailed (h : Hpd) (x : Bool) : (h.withSecFailed x).secFailed = x := (rfl)
@[simp] theorem Hpd.withSecFailed_now (h : Hpd) (x : Bool) : (h.withSecFailed x).now = h.now := (rfl)
@[simp] theorem Hpd.withSecFailed_regs (h : Hpd) (x : Bool) : (h.withSecFailed x).regs = h.regs := (rfl)
@[simp] theorem Hpd.withSecFailed_flash (h : Hpd) (x : Bool) : (h.withSecFailed x).flash = h.flash := (rfl)
@[simp] theorem Hpd.withSecFailed_keys (h : Hpd) (x : Bool) : (h.withSecFailed x).keys = h.keys := (rfl)
@[simp] theorem Hpd.withSecFailed_good (h : Hpd) (x : Bool) : (h.withSecFailed x).good = h.good := (rfl)
@[simp] theorem Hpd.withSecFailed_log (h : Hpd) (x : Bool) : (h.withSecFailed x).log = h.log := (rfl)
@[simp] theorem Hpd.withSecFailed_nv (h : Hpd) (x : Bool) : (h.withSecFailed x).nv = h.nv := (rfl)

@[simp] theorem Hpd.withNonce_nonce (h : Hpd) (x : Bool) : (h.withNonce x).nonce = x := (rfl)
@[simp] theorem Hpd.withNonce_now (h : Hpd) (x : Bool) : (h.withNonce x).now = h.now := (rfl)
@[simp] theorem Hpd.withNonce_regs (h : Hpd) (x : Bool) : (h.withNonce x).regs = h.regs := (rfl)
@[simp] theorem Hpd.withNonce_flash (h : Hpd) (x : Bool) : (h.withNonce x).flash = h.flash := (rfl)
@[simp] theorem Hpd.withNonce_keys (h : Hpd) (x : Bool) : (h.withNonce x).keys = h.keys := (rfl)
@[simp] theorem Hpd.withNonce_good (h : Hpd) (x : Bool) : (h.withNonce x).good = h.good := (rfl)
@[simp] theorem Hpd.withNonce_log (h : Hpd) (x : Bool) : (h.withNonce x).log = h.log := (rfl)
@[simp] theorem Hpd.withNonce_nv (h : Hpd) (x : Bool) : (h.withNonce x).nv = h.nv := (rfl)

@[simp] theorem Hpd.withSecOp_secOp (h : Hpd) (x : Option Nat) : (h.withSecOp x).secOp = x := (rfl)
@[simp] theorem Hpd.withSecOp_now (h : Hpd) (x : Option Nat) : (h.withSecOp x).now = h.now := (rfl)
@[simp] theorem Hpd.withSecOp_regs (h : Hpd) (x : Option Nat) : (h.withSecOp x).regs = h.regs := (rfl)
@[simp] theorem Hpd.withSecOp_flash (h : Hpd) (x : Option Nat) : (h.withSecOp x).flash = h.flash := (rfl)
@[simp] theorem Hpd.withSecOp_keys (h : Hpd) (x : Option Nat) : (h.withSecOp x).keys = h.keys := (rfl)
@[simp] theorem Hpd.withSecOp_good (h : Hpd) (x : Option Nat) : (h.withSecOp x).good = h.good := (rfl)
@[simp] theorem Hpd.withSecOp_log (h : Hpd) (x : Option Nat) : (h.withSecOp x).log = h.log := (rfl)
@[simp] theorem Hpd.withSecOp_nv (h : Hpd) (x : Option Nat) : (h.withSecOp x).nv = h.nv := (rfl)

@[simp] theorem Hpd.withSylOp_sylOp (h : Hpd) (x : Option FlashOp) : (h.withSylOp x).sylOp = x := (rfl)
@[simp] theorem Hpd.withSylOp_now (h : Hpd) (x : Option FlashOp) : (h.withSylOp x).now = h.now := (rfl)
@[simp] theorem Hpd.withSylOp_regs (h : Hpd) (x : Option FlashOp) : (h.withSylOp x).regs = h.regs := (rfl)
@[simp] theorem Hpd.withSylOp_flash (h : Hpd) (x : Option FlashOp) : (h.withSylOp x).flash = h.flash := (rfl)
@[simp] theorem Hpd.withSylOp_keys (h : Hpd) (x : Option FlashOp) : (h.withSylOp x).keys = h.keys := (rfl)
@[simp] theorem Hpd.withSylOp_good (h : Hpd) (x : Option FlashOp) : (h.withSylOp x).good = h.good := (rfl)
@[simp] theorem Hpd.withSylOp_log (h : Hpd) (x : Option FlashOp) : (h.withSylOp x).log = h.log := (rfl)
@[simp] theorem Hpd.withSylOp_nv (h : Hpd) (x : Option FlashOp) : (h.withSylOp x).nv = h.nv := (rfl)

@[simp] theorem Hpd.withGood_good (h : Hpd) (x : Bool) : (h.withGood x).good = x := (rfl)
@[simp] theorem Hpd.withGood_now (h : Hpd) (x : Bool) : (h.withGood x).now = h.now := (rfl)
@[simp] theorem Hpd.withGood_regs (h : Hpd) (x : Bool) : (h.withGood x).regs = h.regs := (rfl)
@[simp] theorem Hpd.withGood_flash (h : Hpd) (x : Bool) : (h.withGood x).flash = h.flash := (rfl)
@[simp] theorem Hpd.withGood_keys (h : Hpd) (x : Bool) : (h.withGood x).keys = h.keys := (rfl)
@[simp] theorem Hpd.withGood_log (h : Hpd) (x : Bool) : (h.withGood x).log = h.log := (rfl)
@[simp] theorem Hpd.withGood_nv (h : Hpd) (x : Bool) : (h.withGood x).nv = h.nv := (rfl)

@[simp] theorem Hpd.withConv_conv (h : Hpd) (x : Bool) : (h.withConv x).conv = x := (rfl)
@[simp] theorem Hpd.withConv_now (h : Hpd) (x : Bool) : (h.withConv x).now = h.now := (rfl)
@[simp] theorem Hpd.withConv_regs (h : Hpd) (x : Bool) : (h.withConv x).regs = h.regs := (rfl)
@[simp] theorem Hpd.withConv_flash (h : Hpd) (x : Bool) : (h.withConv x).flash = h.flash := (rfl)
@[simp] theorem Hpd.withConv_keys (h : Hpd) (x : Bool) : (h.withConv x).keys = h.keys := (rfl)
@[simp] theorem Hpd.withConv_good (h : Hpd) (x : Bool) : (h.withConv x).good = h.good := (rfl)
@[simp] theorem Hpd.withConv_log (h : Hpd) (x : Bool) : (h.withConv x).log = h.log := (rfl)
@[simp] theorem Hpd.withConv_nv (h : Hpd) (x : Bool) : (h.withConv x).nv = h.nv := (rfl)

@[simp] theorem Hpd.withInq_inq (h : Hpd) (x : Tbl (List HostWr)) : (h.withInq x).inq = x := (rfl)
@[simp] theorem Hpd.withInq_now (h : Hpd) (x : Tbl (List HostWr)) : (h.withInq x).now = h.now := (rfl)
@[simp] theorem Hpd.withInq_regs (h : Hpd) (x : Tbl (List HostWr)) : (h.withInq x).regs = h.regs := (rfl)
@[simp] theorem Hpd.withInq_flash (h : Hpd) (x : Tbl (List HostWr)) : (h.withInq x).flash = h.flash := (rfl)
@[simp] theorem Hpd.withInq_keys (h : Hpd) (x : Tbl (List HostWr)) : (h.withInq x).keys = h.keys := (rfl)
@[simp] theorem Hpd.withInq_good (h : Hpd) (x : Tbl (List HostWr)) : (h.withInq x).good = h.good := (rfl)
@[simp] theorem Hpd.withInq_log (h : Hpd) (x : Tbl (List HostWr)) : (h.withInq x).log = h.log := (rfl)
@[simp] theorem Hpd.withInq_nv (h : Hpd) (x : Tbl (List HostWr)) : (h.withInq x).nv = h.nv := (rfl)

@[simp] theorem Hpd.withLastIn_lastIn (h : Hpd) (x : Nat) : (h.withLastIn x).lastIn = x := (rfl)
@[simp] theorem Hpd.withLastIn_now (h : Hpd) (x : Nat) : (h.withLastIn x).now = h.now := (rfl)
@[simp] theorem Hpd.withLastIn_regs (h : Hpd) (x : Nat) : (h.withLastIn x).regs = h.regs := (rfl)
@[simp] theorem Hpd.withLastIn_flash (h : Hpd) (x : Nat) : (h.withLastIn x).flash = h.flash := (rfl)
@[simp] theorem Hpd.withLastIn_keys (h : Hpd) (x : Nat) : (h.withLastIn x).keys = h.keys := (rfl)
@[simp] theorem Hpd.withLastIn_good (h : Hpd) (x : Nat) : (h.withLastIn x).good = h.good := (rfl)
@[simp] theorem Hpd.withLastIn_log (h : Hpd) (x : Nat) : (h.withLastIn x).log = h.log := (rfl)
@[simp] theorem Hpd.withLastIn_nv (h : Hpd) (x : Nat) : (h.withLastIn x).nv = h.nv := (rfl)

@[simp] theorem Hpd.withOutb_outb (h : Hpd) (x : List HostWr) : (h.withOutb x).outb = x := (rfl)
@[simp] theorem Hpd.withOutb_now (h : Hpd) (x : List HostWr) : (h.withOutb x).now = h.now := (rfl)
@[simp] theorem Hpd.withOutb_regs (h : Hpd) (x : List HostWr) : (h.withOutb x).regs = h.regs := (rfl)
@[simp] theorem Hpd.withOutb_flash (h : Hpd) (x : List HostWr) : (h.withOutb x).flash = h.flash := (rfl)
@[simp] theorem Hpd.withOutb_keys (h : Hpd) (x : List HostWr) : (h.withOutb x).keys = h.keys := (rfl)
@[simp] theorem Hpd.withOutb_good (h : Hpd) (x : List HostWr) : (h.withOutb x).good = h.good := (rfl)
@[simp] theorem Hpd.withOutb_log (h : Hpd) (x : List HostWr) : (h.withOutb x).log = h.log := (rfl)
@[simp] theorem Hpd.withOutb_nv (h : Hpd) (x : List HostWr) : (h.withOutb x).nv = h.nv := (rfl)

@[simp] theorem Hpd.withReads_reads (h : Hpd) (x : List HostRd) : (h.withReads x).reads = x := (rfl)
@[simp] theorem Hpd.withReads_now (h : Hpd) (x : List HostRd) : (h.withReads x).now = h.now := (rfl)
@[simp] theorem Hpd.withReads_regs (h : Hpd) (x : List HostRd) : (h.withReads x).regs = h.regs := (rfl)
@[simp] theorem Hpd.withReads_flash (h : Hpd) (x : List HostRd) : (h.withReads x).flash = h.flash := (rfl)
@[simp] theorem Hpd.withReads_keys (h : Hpd) (x : List HostRd) : (h.withReads x).keys = h.keys := (rfl)
@[simp] theorem Hpd.withReads_good (h : Hpd) (x : List HostRd) : (h.withReads x).good = h.good := (rfl)
@[simp] theorem Hpd.withReads_log (h : Hpd) (x : List HostRd) : (h.withReads x).log = h.log := (rfl)
@[simp] theorem Hpd.withReads_nv (h : Hpd) (x : List HostRd) : (h.withReads x).nv = h.nv := (rfl)

@[simp] theorem Hpd.withWinRd_winRd (h : Hpd) (x : Option (Bool × List Byte)) : (h.withWinRd x).winRd = x := (rfl)
@[simp] theorem Hpd.withWinRd_now (h : Hpd) (x : Option (Bool × List Byte)) : (h.withWinRd x).now = h.now := (rfl)
@[simp] theorem Hpd.withWinRd_regs (h : Hpd) (x : Option (Bool × List Byte)) : (h.withWinRd x).regs = h.regs := (rfl)
@[simp] theorem Hpd.withWinRd_flash (h : Hpd) (x : Option (Bool × List Byte)) : (h.withWinRd x).flash = h.flash := (rfl)
@[simp] theorem Hpd.withWinRd_keys (h : Hpd) (x : Option (Bool × List Byte)) : (h.withWinRd x).keys = h.keys := (rfl)
@[simp] theorem Hpd.withWinRd_good (h : Hpd) (x : Option (Bool × List Byte)) : (h.withWinRd x).good = h.good := (rfl)
@[simp] theorem Hpd.withWinRd_log (h : Hpd) (x : Option (Bool × List Byte)) : (h.withWinRd x).log = h.log := (rfl)
@[simp] theorem Hpd.withWinRd_nv (h : Hpd) (x : Option (Bool × List Byte)) : (h.withWinRd x).nv = h.nv := (rfl)

@[simp] theorem Hpd.withPerm_perm (h : Hpd) (x : Nat) : (h.withPerm x).perm = x := (rfl)
@[simp] theorem Hpd.withPerm_now (h : Hpd) (x : Nat) : (h.withPerm x).now = h.now := (rfl)
@[simp] theorem Hpd.withPerm_regs (h : Hpd) (x : Nat) : (h.withPerm x).regs = h.regs := (rfl)
@[simp] theorem Hpd.withPerm_flash (h : Hpd) (x : Nat) : (h.withPerm x).flash = h.flash := (rfl)
@[simp] theorem Hpd.withPerm_keys (h : Hpd) (x : Nat) : (h.withPerm x).keys = h.keys := (rfl)
@[simp] theorem Hpd.withPerm_good (h : Hpd) (x : Nat) : (h.withPerm x).good = h.good := (rfl)
@[simp] theorem Hpd.withPerm_log (h : Hpd) (x : Nat) : (h.withPerm x).log = h.log := (rfl)
@[simp] theorem Hpd.withPerm_nv (h : Hpd) (x : Nat) : (h.withPerm x).nv = h.nv := (rfl)

@[simp] theorem Hpd.withMps_mps (h : Hpd) (x : Nat) : (h.withMps x).mps = x := (rfl)
@[simp] theorem Hpd.withMps_now (h : Hpd) (x : Nat) : (h.withMps x).now = h.now := (rfl)
@[simp] theorem Hpd.withMps_regs (h : Hpd) (x : Nat) : (h.withMps x).regs = h.regs := (rfl)
@[simp] theorem Hpd.withMps_flash (h : Hpd) (x : Nat) : (h.withMps x).flash = h.flash := (rfl)
@[simp] theorem Hpd.withMps_keys (h : Hpd) (x : Nat) : (h.withMps x).keys = h.keys := (rfl)
@[simp] theorem Hpd.withMps_good (h : Hpd) (x : Nat) : (h.withMps x).good = h.good := (rfl)
@[simp] theorem Hpd.withMps_log (h : Hpd) (x : Nat) : (h.withMps x).log = h.log := (rfl)
@[simp] theorem Hpd.withMps_nv (h : Hpd) (x : Nat) : (h.withMps x).nv = h.nv := (rfl)

@[simp] theorem Hpd.withH2d_h2d (h : Hpd) (x : Tbl Byte) : (h.withH2d x).h2d = x := (rfl)
@[simp] theorem Hpd.withH2d_now (h : Hpd) (x : Tbl Byte) : (h.withH2d x).now = h.now := (rfl)
@[simp] theorem Hpd.withH2d_regs (h : Hpd) (x : Tbl Byte) : (h.withH2d x).regs = h.regs := (rfl)
@[simp] theorem Hpd.withH2d_flash (h : Hpd) (x : Tbl Byte) : (h.withH2d x).flash = h.flash := (rfl)
@[simp] theorem Hpd.withH2d_keys (h : Hpd) (x : Tbl Byte) : (h.withH2d x).keys = h.keys := (rfl)
@[simp] theorem Hpd.withH2d_good (h : Hpd) (x : Tbl Byte) : (h.withH2d x).good = h.good := (rfl)
@[simp] theorem Hpd.withH2d_log (h : Hpd) (x : Tbl Byte) : (h.withH2d x).log = h.log := (rfl)
@[simp] theorem Hpd.withH2d_nv (h : Hpd) (x : Tbl Byte) : (h.withH2d x).nv = h.nv := (rfl)

@[simp] theorem Hpd.withD2h_d2h (h : Hpd) (x : Tbl Byte) : (h.withD2h x).d2h = x := (rfl)
@[simp] theorem Hpd.withD2h_now (h : Hpd) (x : Tbl Byte) : (h.withD2h x).now = h.now := (rfl)
@[simp] theorem Hpd.withD2h_regs (h : Hpd) (x : Tbl Byte) : (h.withD2h x).regs = h.regs := (rfl)
@[simp] theorem Hpd.withD2h_flash (h : Hpd) (x : Tbl Byte) : (h.withD2h x).flash = h.flash := (rfl)
@[simp] theorem Hpd.withD2h_keys (h : Hpd) (x : Tbl Byte) : (h.withD2h x).keys = h.keys := (rfl)
@[simp] theorem Hpd.withD2h_good (h : Hpd) (x : Tbl Byte) : (h.withD2h x).good = h.good := (rfl)
@[simp] theorem Hpd.withD2h_log (h : Hpd) (x : Tbl Byte) : (h.withD2h x).log = h.log := (rfl)
@[simp] theorem Hpd.withD2h_nv (h : Hpd) (x : Tbl Byte) : (h.withD2h x).nv = h.nv := (rfl)

@[simp] theorem Hpd.withH2dMsg_h2dMsg (h : Hpd) (x : Tbl (Nat × Nat)) : (h.withH2dMsg x).h2dMsg = x := (rfl)
@[simp] theorem Hpd.withH2dMsg_now (h : Hpd) (x : Tbl (Nat × Nat)) : (h.withH2dMsg x).now = h.now := (rfl)
@[simp] theorem Hpd.withH2dMsg_regs (h : Hpd) (x : Tbl (Nat × Nat)) : (h.withH2dMsg x).regs = h.regs := (rfl)
@[simp] theorem Hpd.withH2dMsg_flash (h : Hpd) (x : Tbl (Nat × Nat)) : (h.withH2dMsg x).flash = h.flash := (rfl)
@[simp] theorem Hpd.withH2dMsg_keys (h : Hpd) (x : Tbl (Nat × Nat)) : (h.withH2dMsg x).keys = h.keys := (rfl)
@[simp] theorem Hpd.withH2dMsg_good (h : Hpd) (x : Tbl (Nat × Nat)) : (h.withH2dMsg x).good = h.good := (rfl)
@[simp] theorem Hpd.withH2dMsg_log (h : Hpd) (x : Tbl (Nat × Nat)) : (h.withH2dMsg x).log = h.log := (rfl)
@[simp] theorem Hpd.withH2dMsg_nv (h : Hpd) (x : Tbl (Nat × Nat)) : (h.withH2dMsg x).nv = h.nv := (rfl)

@[simp] theorem Hpd.withHdm_hdm (h : Hpd) (x : Tbl Hdm) : (h.withHdm x).hdm = x := (rfl)
@[simp] theorem Hpd.withHdm_now (h : Hpd) (x : Tbl Hdm) : (h.withHdm x).now = h.now := (rfl)
@[simp] theorem Hpd.withHdm_regs (h : Hpd) (x : Tbl Hdm) : (h.withHdm x).regs = h.regs := (rfl)
@[simp] theorem Hpd.withHdm_flash (h : Hpd) (x : Tbl Hdm) : (h.withHdm x).flash = h.flash := (rfl)
@[simp] theorem Hpd.withHdm_keys (h : Hpd) (x : Tbl Hdm) : (h.withHdm x).keys = h.keys := (rfl)
@[simp] theorem Hpd.withHdm_good (h : Hpd) (x : Tbl Hdm) : (h.withHdm x).good = h.good := (rfl)
@[simp] theorem Hpd.withHdm_log (h : Hpd) (x : Tbl Hdm) : (h.withHdm x).log = h.log := (rfl)
@[simp] theorem Hpd.withHdm_nv (h : Hpd) (x : Tbl Hdm) : (h.withHdm x).nv = h.nv := (rfl)

@[simp] theorem Hpd.withCxlMem_cxlMem (h : Hpd) (x : Bool) : (h.withCxlMem x).cxlMem = x := (rfl)
@[simp] theorem Hpd.withCxlMem_now (h : Hpd) (x : Bool) : (h.withCxlMem x).now = h.now := (rfl)
@[simp] theorem Hpd.withCxlMem_regs (h : Hpd) (x : Bool) : (h.withCxlMem x).regs = h.regs := (rfl)
@[simp] theorem Hpd.withCxlMem_flash (h : Hpd) (x : Bool) : (h.withCxlMem x).flash = h.flash := (rfl)
@[simp] theorem Hpd.withCxlMem_keys (h : Hpd) (x : Bool) : (h.withCxlMem x).keys = h.keys := (rfl)
@[simp] theorem Hpd.withCxlMem_good (h : Hpd) (x : Bool) : (h.withCxlMem x).good = h.good := (rfl)
@[simp] theorem Hpd.withCxlMem_log (h : Hpd) (x : Bool) : (h.withCxlMem x).log = h.log := (rfl)
@[simp] theorem Hpd.withCxlMem_nv (h : Hpd) (x : Bool) : (h.withCxlMem x).nv = h.nv := (rfl)

@[simp] theorem Hpd.withMrrs_mrrs (h : Hpd) (x : Nat) : (h.withMrrs x).mrrs = x := (rfl)
@[simp] theorem Hpd.withMrrs_now (h : Hpd) (x : Nat) : (h.withMrrs x).now = h.now := (rfl)
@[simp] theorem Hpd.withMrrs_regs (h : Hpd) (x : Nat) : (h.withMrrs x).regs = h.regs := (rfl)
@[simp] theorem Hpd.withMrrs_flash (h : Hpd) (x : Nat) : (h.withMrrs x).flash = h.flash := (rfl)
@[simp] theorem Hpd.withMrrs_keys (h : Hpd) (x : Nat) : (h.withMrrs x).keys = h.keys := (rfl)
@[simp] theorem Hpd.withMrrs_good (h : Hpd) (x : Nat) : (h.withMrrs x).good = h.good := (rfl)
@[simp] theorem Hpd.withMrrs_log (h : Hpd) (x : Nat) : (h.withMrrs x).log = h.log := (rfl)
@[simp] theorem Hpd.withMrrs_nv (h : Hpd) (x : Nat) : (h.withMrrs x).nv = h.nv := (rfl)

@[simp] theorem Hpd.withD3_d3 (h : Hpd) (x : Bool) : (h.withD3 x).d3 = x := (rfl)
@[simp] theorem Hpd.withD3_now (h : Hpd) (x : Bool) : (h.withD3 x).now = h.now := (rfl)
@[simp] theorem Hpd.withD3_regs (h : Hpd) (x : Bool) : (h.withD3 x).regs = h.regs := (rfl)
@[simp] theorem Hpd.withD3_flash (h : Hpd) (x : Bool) : (h.withD3 x).flash = h.flash := (rfl)
@[simp] theorem Hpd.withD3_keys (h : Hpd) (x : Bool) : (h.withD3 x).keys = h.keys := (rfl)
@[simp] theorem Hpd.withD3_good (h : Hpd) (x : Bool) : (h.withD3 x).good = h.good := (rfl)
@[simp] theorem Hpd.withD3_log (h : Hpd) (x : Bool) : (h.withD3 x).log = h.log := (rfl)
@[simp] theorem Hpd.withD3_nv (h : Hpd) (x : Bool) : (h.withD3 x).nv = h.nv := (rfl)

@[simp] theorem Hpd.withAer_aer (h : Hpd) (x : Nat) : (h.withAer x).aer = x := (rfl)
@[simp] theorem Hpd.withAer_now (h : Hpd) (x : Nat) : (h.withAer x).now = h.now := (rfl)
@[simp] theorem Hpd.withAer_regs (h : Hpd) (x : Nat) : (h.withAer x).regs = h.regs := (rfl)
@[simp] theorem Hpd.withAer_flash (h : Hpd) (x : Nat) : (h.withAer x).flash = h.flash := (rfl)
@[simp] theorem Hpd.withAer_keys (h : Hpd) (x : Nat) : (h.withAer x).keys = h.keys := (rfl)
@[simp] theorem Hpd.withAer_good (h : Hpd) (x : Nat) : (h.withAer x).good = h.good := (rfl)
@[simp] theorem Hpd.withAer_log (h : Hpd) (x : Nat) : (h.withAer x).log = h.log := (rfl)
@[simp] theorem Hpd.withAer_nv (h : Hpd) (x : Nat) : (h.withAer x).nv = h.nv := (rfl)

@[simp] theorem Hpd.withHostAns_hostAns (h : Hpd) (x : Option HostAns) : (h.withHostAns x).hostAns = x := (rfl)
@[simp] theorem Hpd.withHostAns_now (h : Hpd) (x : Option HostAns) : (h.withHostAns x).now = h.now := (rfl)
@[simp] theorem Hpd.withHostAns_regs (h : Hpd) (x : Option HostAns) : (h.withHostAns x).regs = h.regs := (rfl)
@[simp] theorem Hpd.withHostAns_flash (h : Hpd) (x : Option HostAns) : (h.withHostAns x).flash = h.flash := (rfl)
@[simp] theorem Hpd.withHostAns_keys (h : Hpd) (x : Option HostAns) : (h.withHostAns x).keys = h.keys := (rfl)
@[simp] theorem Hpd.withHostAns_good (h : Hpd) (x : Option HostAns) : (h.withHostAns x).good = h.good := (rfl)
@[simp] theorem Hpd.withHostAns_log (h : Hpd) (x : Option HostAns) : (h.withHostAns x).log = h.log := (rfl)
@[simp] theorem Hpd.withHostAns_nv (h : Hpd) (x : Option HostAns) : (h.withHostAns x).nv = h.nv := (rfl)

@[simp] theorem Hpd.withMsix_msix (h : Hpd) (x : Tbl (Nat × Nat)) : (h.withMsix x).msix = x := (rfl)
@[simp] theorem Hpd.withMsix_now (h : Hpd) (x : Tbl (Nat × Nat)) : (h.withMsix x).now = h.now := (rfl)
@[simp] theorem Hpd.withMsix_regs (h : Hpd) (x : Tbl (Nat × Nat)) : (h.withMsix x).regs = h.regs := (rfl)
@[simp] theorem Hpd.withMsix_flash (h : Hpd) (x : Tbl (Nat × Nat)) : (h.withMsix x).flash = h.flash := (rfl)
@[simp] theorem Hpd.withMsix_keys (h : Hpd) (x : Tbl (Nat × Nat)) : (h.withMsix x).keys = h.keys := (rfl)
@[simp] theorem Hpd.withMsix_good (h : Hpd) (x : Tbl (Nat × Nat)) : (h.withMsix x).good = h.good := (rfl)
@[simp] theorem Hpd.withMsix_log (h : Hpd) (x : Tbl (Nat × Nat)) : (h.withMsix x).log = h.log := (rfl)
@[simp] theorem Hpd.withMsix_nv (h : Hpd) (x : Tbl (Nat × Nat)) : (h.withMsix x).nv = h.nv := (rfl)

@[simp] theorem Hpd.withMask_mask (h : Hpd) (x : Nat) : (h.withMask x).mask = x := (rfl)
@[simp] theorem Hpd.withMask_now (h : Hpd) (x : Nat) : (h.withMask x).now = h.now := (rfl)
@[simp] theorem Hpd.withMask_regs (h : Hpd) (x : Nat) : (h.withMask x).regs = h.regs := (rfl)
@[simp] theorem Hpd.withMask_flash (h : Hpd) (x : Nat) : (h.withMask x).flash = h.flash := (rfl)
@[simp] theorem Hpd.withMask_keys (h : Hpd) (x : Nat) : (h.withMask x).keys = h.keys := (rfl)
@[simp] theorem Hpd.withMask_good (h : Hpd) (x : Nat) : (h.withMask x).good = h.good := (rfl)
@[simp] theorem Hpd.withMask_log (h : Hpd) (x : Nat) : (h.withMask x).log = h.log := (rfl)
@[simp] theorem Hpd.withMask_nv (h : Hpd) (x : Nat) : (h.withMask x).nv = h.nv := (rfl)

@[simp] theorem Hpd.withPba_pba (h : Hpd) (x : Nat) : (h.withPba x).pba = x := (rfl)
@[simp] theorem Hpd.withPba_now (h : Hpd) (x : Nat) : (h.withPba x).now = h.now := (rfl)
@[simp] theorem Hpd.withPba_regs (h : Hpd) (x : Nat) : (h.withPba x).regs = h.regs := (rfl)
@[simp] theorem Hpd.withPba_flash (h : Hpd) (x : Nat) : (h.withPba x).flash = h.flash := (rfl)
@[simp] theorem Hpd.withPba_keys (h : Hpd) (x : Nat) : (h.withPba x).keys = h.keys := (rfl)
@[simp] theorem Hpd.withPba_good (h : Hpd) (x : Nat) : (h.withPba x).good = h.good := (rfl)
@[simp] theorem Hpd.withPba_log (h : Hpd) (x : Nat) : (h.withPba x).log = h.log := (rfl)
@[simp] theorem Hpd.withPba_nv (h : Hpd) (x : Nat) : (h.withPba x).nv = h.nv := (rfl)

@[simp] theorem Hpd.withSent_sent (h : Hpd) (x : List Nat) : (h.withSent x).sent = x := (rfl)
@[simp] theorem Hpd.withSent_now (h : Hpd) (x : List Nat) : (h.withSent x).now = h.now := (rfl)
@[simp] theorem Hpd.withSent_regs (h : Hpd) (x : List Nat) : (h.withSent x).regs = h.regs := (rfl)
@[simp] theorem Hpd.withSent_flash (h : Hpd) (x : List Nat) : (h.withSent x).flash = h.flash := (rfl)
@[simp] theorem Hpd.withSent_keys (h : Hpd) (x : List Nat) : (h.withSent x).keys = h.keys := (rfl)
@[simp] theorem Hpd.withSent_good (h : Hpd) (x : List Nat) : (h.withSent x).good = h.good := (rfl)
@[simp] theorem Hpd.withSent_log (h : Hpd) (x : List Nat) : (h.withSent x).log = h.log := (rfl)
@[simp] theorem Hpd.withSent_nv (h : Hpd) (x : List Nat) : (h.withSent x).nv = h.nv := (rfl)

@[simp] theorem Hpd.withUart_uart (h : Hpd) (x : List (List Byte)) : (h.withUart x).uart = x := (rfl)
@[simp] theorem Hpd.withUart_now (h : Hpd) (x : List (List Byte)) : (h.withUart x).now = h.now := (rfl)
@[simp] theorem Hpd.withUart_regs (h : Hpd) (x : List (List Byte)) : (h.withUart x).regs = h.regs := (rfl)
@[simp] theorem Hpd.withUart_flash (h : Hpd) (x : List (List Byte)) : (h.withUart x).flash = h.flash := (rfl)
@[simp] theorem Hpd.withUart_keys (h : Hpd) (x : List (List Byte)) : (h.withUart x).keys = h.keys := (rfl)
@[simp] theorem Hpd.withUart_good (h : Hpd) (x : List (List Byte)) : (h.withUart x).good = h.good := (rfl)
@[simp] theorem Hpd.withUart_log (h : Hpd) (x : List (List Byte)) : (h.withUart x).log = h.log := (rfl)
@[simp] theorem Hpd.withUart_nv (h : Hpd) (x : List (List Byte)) : (h.withUart x).nv = h.nv := (rfl)

@[simp] theorem Hpd.withEid_eid (h : Hpd) (x : Nat) : (h.withEid x).eid = x := (rfl)
@[simp] theorem Hpd.withEid_now (h : Hpd) (x : Nat) : (h.withEid x).now = h.now := (rfl)
@[simp] theorem Hpd.withEid_regs (h : Hpd) (x : Nat) : (h.withEid x).regs = h.regs := (rfl)
@[simp] theorem Hpd.withEid_flash (h : Hpd) (x : Nat) : (h.withEid x).flash = h.flash := (rfl)
@[simp] theorem Hpd.withEid_keys (h : Hpd) (x : Nat) : (h.withEid x).keys = h.keys := (rfl)
@[simp] theorem Hpd.withEid_good (h : Hpd) (x : Nat) : (h.withEid x).good = h.good := (rfl)
@[simp] theorem Hpd.withEid_log (h : Hpd) (x : Nat) : (h.withEid x).log = h.log := (rfl)
@[simp] theorem Hpd.withEid_nv (h : Hpd) (x : Nat) : (h.withEid x).nv = h.nv := (rfl)

@[simp] theorem Hpd.withMctp_mctp (h : Hpd) (x : List (List Byte)) : (h.withMctp x).mctp = x := (rfl)
@[simp] theorem Hpd.withMctp_now (h : Hpd) (x : List (List Byte)) : (h.withMctp x).now = h.now := (rfl)
@[simp] theorem Hpd.withMctp_regs (h : Hpd) (x : List (List Byte)) : (h.withMctp x).regs = h.regs := (rfl)
@[simp] theorem Hpd.withMctp_flash (h : Hpd) (x : List (List Byte)) : (h.withMctp x).flash = h.flash := (rfl)
@[simp] theorem Hpd.withMctp_keys (h : Hpd) (x : List (List Byte)) : (h.withMctp x).keys = h.keys := (rfl)
@[simp] theorem Hpd.withMctp_good (h : Hpd) (x : List (List Byte)) : (h.withMctp x).good = h.good := (rfl)
@[simp] theorem Hpd.withMctp_log (h : Hpd) (x : List (List Byte)) : (h.withMctp x).log = h.log := (rfl)
@[simp] theorem Hpd.withMctp_nv (h : Hpd) (x : List (List Byte)) : (h.withMctp x).nv = h.nv := (rfl)

@[simp] theorem Hpd.withSens_sens (h : Hpd) (x : List Int) : (h.withSens x).sens = x := (rfl)
@[simp] theorem Hpd.withSens_now (h : Hpd) (x : List Int) : (h.withSens x).now = h.now := (rfl)
@[simp] theorem Hpd.withSens_regs (h : Hpd) (x : List Int) : (h.withSens x).regs = h.regs := (rfl)
@[simp] theorem Hpd.withSens_flash (h : Hpd) (x : List Int) : (h.withSens x).flash = h.flash := (rfl)
@[simp] theorem Hpd.withSens_keys (h : Hpd) (x : List Int) : (h.withSens x).keys = h.keys := (rfl)
@[simp] theorem Hpd.withSens_good (h : Hpd) (x : List Int) : (h.withSens x).good = h.good := (rfl)
@[simp] theorem Hpd.withSens_log (h : Hpd) (x : List Int) : (h.withSens x).log = h.log := (rfl)
@[simp] theorem Hpd.withSens_nv (h : Hpd) (x : List Int) : (h.withSens x).nv = h.nv := (rfl)

@[simp] theorem Hpd.withBad_bad (h : Hpd) (x : Tbl Nat) : (h.withBad x).bad = x := (rfl)
@[simp] theorem Hpd.withBad_now (h : Hpd) (x : Tbl Nat) : (h.withBad x).now = h.now := (rfl)
@[simp] theorem Hpd.withBad_regs (h : Hpd) (x : Tbl Nat) : (h.withBad x).regs = h.regs := (rfl)
@[simp] theorem Hpd.withBad_flash (h : Hpd) (x : Tbl Nat) : (h.withBad x).flash = h.flash := (rfl)
@[simp] theorem Hpd.withBad_keys (h : Hpd) (x : Tbl Nat) : (h.withBad x).keys = h.keys := (rfl)
@[simp] theorem Hpd.withBad_good (h : Hpd) (x : Tbl Nat) : (h.withBad x).good = h.good := (rfl)
@[simp] theorem Hpd.withBad_log (h : Hpd) (x : Tbl Nat) : (h.withBad x).log = h.log := (rfl)
@[simp] theorem Hpd.withBad_nv (h : Hpd) (x : Tbl Nat) : (h.withBad x).nv = h.nv := (rfl)

@[simp] theorem State.setChan_hpd (s : State) (n : Fin 4) (c : Chan) : (s.setChan n c).hpd = s.hpd := (rfl)
@[simp] theorem State.setChan_pending (s : State) (n : Fin 4) (c : Chan) : (s.setChan n c).pending = s.pending := (rfl)
@[simp] theorem State.onChan_hpd (s : State) (n : Fin 4) (f : Chan → Chan) : (s.onChan n f).hpd = s.hpd := (rfl)
@[simp] theorem State.onChan_pending (s : State) (n : Fin 4) (f : Chan → Chan) : (s.onChan n f).pending = s.pending := (rfl)
@[simp] theorem State.onHpd_hpd (s : State) (f : Hpd → Hpd) : (s.onHpd f).hpd = f s.hpd := (rfl)
@[simp] theorem State.onHpd_chan (s : State) (f : Hpd → Hpd) (n : Fin 4) : (s.onHpd f).chan n = s.chan n := (rfl)
@[simp] theorem State.onHpd_pending (s : State) (f : Hpd → Hpd) : (s.onHpd f).pending = s.pending := (rfl)

/-- One channel replaced: it is there, and the others are as before. -/
theorem State.chan_setChan (s : State) (n k : Fin 4) (c : Chan) : (s.setChan n c).chan k = if k = n then c else s.chan k := by
  unfold State.chan State.setChan
  by_cases h : k = n
  · subst h; simp
  · have : (n : Nat) ≠ k := fun e => h (Fin.ext e.symm)
    simp [h, this]

@[simp] theorem State.chan_setChan_same (s : State) (n : Fin 4) (c : Chan) : (s.setChan n c).chan n = c := by
  simp [State.chan_setChan]

@[simp] theorem State.chan_onChan_same (s : State) (n : Fin 4) (f : Chan → Chan) : (s.onChan n f).chan n = f (s.chan n) := by
  simp [State.onChan]

theorem State.chan_onChan_other (s : State) {n k : Fin 4} (h : k ≠ n) (f : Chan → Chan) : (s.onChan n f).chan k = s.chan k := by
  simp [State.onChan, State.chan_setChan, h]

theorem State.onChan_id (s : State) (n : Fin 4) : s.onChan n id = s := by
  simp [State.onChan, State.setChan, State.chan]

end Sys2Proof.Machine
end

