-- ==== Sys2Proof/Laws/Table.lean ====
section
/-!
SUPPORT. Laws of sparse tables: what a read finds after a write, and that every operation keeps the canonical form.
-/
namespace Sys2Proof.Machine

variable {α : Type}

theorem tget?_terase_same (i : Nat) (t : Tbl α) : tget? i (terase i t) = none := by
  induction t with
  | nil => rfl
  | cons e r ih =>
    obtain ⟨k, v⟩ := e
    by_cases h : k = i <;> simp [terase, tget?, h, ih]

theorem tget?_terase_other {i j : Nat} (h : j ≠ i) (t : Tbl α) : tget? j (terase i t) = tget? j t := by
  induction t with
  | nil => rfl
  | cons e r ih =>
    obtain ⟨k, v⟩ := e
    by_cases hk : k = i
    · subst hk; simp [terase, tget?, ih, Ne.symm h]
    · simp only [terase, hk, if_false, tget?, ih]

theorem tget?_none_of_lt {t : Tbl α} {lo i : Nat} [DecidableEq α] {d : Nat → α} (h : twfFrom d lo t = true) (hi : i < lo) :
    tget? i t = none := by
  induction t generalizing lo with
  | nil => rfl
  | cons e r ih =>
    obtain ⟨k, v⟩ := e
    simp only [twfFrom, Bool.and_eq_true, decide_eq_true_eq] at h
    have : k ≠ i := by omega
    simp [tget?, this, ih h.2 (by omega)]

theorem tget?_tins_same (i : Nat) (v : α) (t : Tbl α) (h : tget? i t = none) : tget? i (tins i v t) = some v := by
  induction t with
  | nil => simp [tins, tget?]
  | cons e r ih =>
    obtain ⟨k, x⟩ := e
    have hk : k ≠ i := by intro hk; simp [tget?, hk] at h
    have hr : tget? i r = none := by simpa [tget?, hk] using h
    by_cases hlt : k < i <;> simp [tins, hlt, tget?, hk, ih hr]

theorem tget?_tins_other {i j : Nat} (hj : j ≠ i) (v : α) (t : Tbl α) : tget? j (tins i v t) = tget? j t := by
  induction t with
  | nil => simp [tins, tget?, Ne.symm hj]
  | cons e r ih =>
    obtain ⟨k, x⟩ := e
    by_cases hlt : k < i
    · simp only [tins, hlt, if_true, tget?, ih]
    · simp [tins, hlt, tget?, Ne.symm hj]

/-- A read after a write to the same place gives the value written. -/
@[simp] theorem tget_tput_same [DecidableEq α] (d : Nat → α) (t : Tbl α) (i : Nat) (v : α) : tget d (tput d t i v) i = v := by
  unfold tput tget
  by_cases h : v = d i
  · simp [h, tget?_terase_same]
  · simp [h, tget?_tins_same i v _ (tget?_terase_same i t)]

/-- A write leaves every other place alone. -/
theorem tget_tput_other [DecidableEq α] (d : Nat → α) (t : Tbl α) {i j : Nat} (h : j ≠ i) (v : α) :
    tget d (tput d t i v) j = tget d t j := by
  unfold tput tget
  by_cases hv : v = d i
  · simp [hv, tget?_terase_other h]
  · simp [hv, tget?_tins_other h, tget?_terase_other h]

theorem tget_tput [DecidableEq α] (d : Nat → α) (t : Tbl α) (i j : Nat) (v : α) :
    tget d (tput d t i v) j = if j = i then v else tget d t j := by
  by_cases h : j = i
  · subst h; simp
  · simp [h, tget_tput_other d t h]

theorem twfFrom_mono [DecidableEq α] {d : Nat → α} {lo lo' : Nat} {t : Tbl α} (h : twfFrom d lo t = true) (hle : lo' ≤ lo) :
    twfFrom d lo' t = true := by
  cases t with
  | nil => rfl
  | cons e r =>
    simp only [twfFrom, Bool.and_eq_true, decide_eq_true_eq] at h ⊢
    exact ⟨⟨by omega, h.1.2⟩, h.2⟩

theorem twfFrom_terase [DecidableEq α] {d : Nat → α} (i : Nat) {lo : Nat} {t : Tbl α} (h : twfFrom d lo t = true) :
    twfFrom d lo (terase i t) = true := by
  induction t generalizing lo with
  | nil => rfl
  | cons e r ih =>
    simp only [twfFrom, Bool.and_eq_true, decide_eq_true_eq] at h
    by_cases hk : e.1 = i
    · simp only [terase, hk, if_true]
      exact twfFrom_mono (ih h.2) (by omega)
    · simp only [terase, hk, if_false, twfFrom, Bool.and_eq_true, decide_eq_true_eq]
      exact ⟨h.1, ih h.2⟩

theorem twfFrom_tins [DecidableEq α] {d : Nat → α} {i : Nat} {v : α} (hv : v ≠ d i) {lo : Nat} {t : Tbl α} (hlo : lo ≤ i)
    (h : twfFrom d lo t = true) (hn : tget? i t = none) : twfFrom d lo (tins i v t) = true := by
  induction t generalizing lo with
  | nil => simp [tins, twfFrom, hlo, hv]
  | cons e r ih =>
    obtain ⟨k, x⟩ := e
    simp only [twfFrom, Bool.and_eq_true, decide_eq_true_eq] at h
    have hk : k ≠ i := by intro hk; simp [tget?, hk] at hn
    have hr : tget? i r = none := by simpa [tget?, hk] using hn
    by_cases hlt : k < i
    · simp only [tins, hlt, if_true, twfFrom, Bool.and_eq_true, decide_eq_true_eq]
      exact ⟨h.1, ih (by omega) h.2 hr⟩
    · simp only [tins, hlt, if_false, twfFrom, Bool.and_eq_true, decide_eq_true_eq]
      exact ⟨⟨hlo, hv⟩, ⟨by omega, h.1.2⟩, h.2⟩

/-- A write keeps the canonical form. -/
theorem twf_tput [DecidableEq α] {d : Nat → α} {t : Tbl α} (h : twf d t = true) (i : Nat) (v : α) :
    twf d (tput d t i v) = true := by
  unfold tput twf
  by_cases hv : v = d i
  · simp [hv, twfFrom_terase i h]
  · simpa [hv] using twfFrom_tins hv (Nat.zero_le i) (twfFrom_terase i h) (tget?_terase_same i t)

theorem twfFrom_teraseRange [DecidableEq α] {d : Nat → α} (a b : Nat) {lo : Nat} {t : Tbl α} (h : twfFrom d lo t = true) :
    twfFrom d lo (teraseRange a b t) = true := by
  induction t generalizing lo with
  | nil => rfl
  | cons e r ih =>
    simp only [twfFrom, Bool.and_eq_true, decide_eq_true_eq] at h
    by_cases hk : a ≤ e.1 ∧ e.1 < b
    · simp only [teraseRange, hk, and_self, if_true]
      exact twfFrom_mono (ih h.2) (by omega)
    · simp only [teraseRange, hk, if_false, twfFrom, Bool.and_eq_true, decide_eq_true_eq]
      exact ⟨h.1, ih h.2⟩

/-- The erasure of a range keeps the canonical form. -/
theorem twf_teraseRange [DecidableEq α] {d : Nat → α} {t : Tbl α} (h : twf d t = true) (a b : Nat) :
    twf d (teraseRange a b t) = true := twfFrom_teraseRange a b h

theorem tget?_teraseRange (a b i : Nat) (t : Tbl α) :
    tget? i (teraseRange a b t) = if a ≤ i ∧ i < b then none else tget? i t := by
  induction t with
  | nil => simp [teraseRange, tget?]
  | cons e r ih =>
    obtain ⟨k, v⟩ := e
    by_cases hk : a ≤ k ∧ k < b
    · by_cases hi : k = i
      · subst hi; simp [teraseRange, hk, ih]
      · simp [teraseRange, hk, ih, tget?, hi]
    · by_cases hi : k = i
      · subst hi; simp [teraseRange, hk, tget?]
      · simp [teraseRange, hk, tget?, hi, ih]

/-- An erased range reads as unlisted; the rest is unchanged. -/
theorem tget_teraseRange (d : Nat → α) (a b i : Nat) (t : Tbl α) :
    tget d (teraseRange a b t) i = if a ≤ i ∧ i < b then d i else tget d t i := by
  unfold tget
  rw [tget?_teraseRange]
  split <;> simp

end Sys2Proof.Machine
end

