-- ==== Sys2Proof/Laws/Memory.lean ====
section
/-!
SUPPORT. Laws of memory: what a byte reads after bytes have been written, and that every operation over memory keeps its
canonical form.
-/
namespace Sys2Proof.Machine

theorem pokeMem_wf {m : Tbl Byte} (h : Memory.wf m = true) (a : Nat) (bs : List Byte) : Memory.wf (pokeMem m a bs) = true := by
  induction bs generalizing m a with
  | nil => exact h
  | cons b r ih => exact ih (twf_tput h a b) (a + 1)

/-- A write keeps the canonical form. -/
theorem Chan.poke_wf (c : Chan) (h : Memory.wf c.mem = true) (a : Nat) (bs : List Byte) : Memory.wf (c.poke a bs).mem = true :=
  pokeMem_wf h a bs

theorem pokeMem_get (m : Tbl Byte) (a : Nat) (bs : List Byte) (x : Nat) :
    tget memDefault (pokeMem m a bs) x = if a ≤ x ∧ x < a + bs.length then nth 0 bs (x - a) else tget memDefault m x := by
  induction bs generalizing m a with
  | nil =>
    have : ¬ (a ≤ x ∧ x < a + ([] : List Byte).length) := by simp
    rw [if_neg this]; rfl
  | cons b r ih =>
    rw [pokeMem, ih, tget_tput]
    by_cases h1 : x = a
    · subst h1; simp [nth]
    · by_cases h2 : a + 1 ≤ x ∧ x < a + 1 + r.length
      · have h3 : a ≤ x ∧ x < a + (b :: r).length := by simp; omega
        have h4 : x - a = (x - (a + 1)) + 1 := by omega
        simp only [h2, h3, and_self, if_true, h4, nth, List.getElem?_cons_succ]
      · have h3 : ¬ (a ≤ x ∧ x < a + (b :: r).length) := by simp; omega
        simp only [h2, h3, h1, if_false]

/-- A byte after a write: the byte written inside the extent, the byte before outside. -/
theorem Chan.byte_poke (c : Chan) (a : Nat) (bs : List Byte) (x : Nat) :
    (c.poke a bs).byte x = if a ≤ x ∧ x < a + bs.length then nth 0 bs (x - a) else c.byte x :=
  pokeMem_get c.mem a bs x

/-- The correction of a symbol leaves memory alone. -/
@[simp] theorem Chan.ev_mem (c : Chan) (b code sev d : Nat) : (c.ev b code sev d).mem = c.mem := by
  unfold Chan.ev Chan.evAt; dsimp only; split <;> simp

@[simp] theorem Chan.correct_mem (c : Chan) (src a sym : Nat) : (c.correct src a sym).mem = c.mem := by
  simp [Chan.correct, Chan.memIrq, apply_ite Chan.mem]

@[simp] theorem Chan.uncorrectable_mem (c : Chan) (src a : Nat) : (c.uncorrectable src a).mem = c.mem := by
  simp [Chan.uncorrectable, Chan.memIrq]

/-- What the read of one codeword does to memory: nothing, or free bytes in that codeword where the code fails (R36). -/
theorem Chan.readCodeword_mem (c : Chan) (src cw : Nat) (errs : List (Nat × Byte)) :
    (c.readCodeword src cw errs).2.mem = c.mem ∨
      ∃ bs, (c.readCodeword src cw errs).2.mem = (c.poke (cw * 32) bs).mem := by
  unfold Chan.readCodeword
  generalize rsDecode (c.codeword cw errs) = r
  by_cases hl : errs.length < 4
  · left
    rw [if_pos hl]
    cases r <;> simp
  · rw [if_neg hl]
    dsimp only
    by_cases hm : Config.eccMiss (c.codeword cw errs) = true
    · right
      rw [if_pos hm]
      exact ⟨_, rfl⟩
    · left
      rw [if_neg hm]
      simp

theorem Chan.readCodeword_wf (c : Chan) (src cw : Nat) (errs : List (Nat × Byte)) (h : Memory.wf c.mem = true) :
    Memory.wf (c.readCodeword src cw errs).2.mem = true := by
  rcases c.readCodeword_mem src cw errs with e | ⟨bs, e⟩ <;> rw [e]
  · exact h
  · exact c.poke_wf h _ _

theorem Chan.access_wf (c : Chan) (src a n : Nat) (h : Memory.wf c.mem = true) :
    Memory.wf (c.access src a n).2.mem = true := by
  unfold Chan.access
  suffices hs : ∀ (l : Tbl (List (Nat × Byte))) (r : Bool × Chan), Memory.wf r.2.mem = true →
      Memory.wf (l.foldl (fun r f => ((r.1 || (r.2.readCodeword src f.1 f.2).1), (r.2.readCodeword src f.1 f.2).2)) r).2.mem = true from
    hs _ _ h
  intro l
  induction l with
  | nil => exact fun r hr => hr
  | cons f t ih => exact fun r hr => ih _ (r.2.readCodeword_wf src f.1 f.2 hr)

/-- A checked read keeps the canonical form. -/
theorem Chan.load_wf (c : Chan) (a n : Nat) (h : Memory.wf c.mem = true) : Memory.wf (c.load a n).2.mem = true :=
  c.access_wf 0 a n h

theorem Chan.storeCw_wf (c : Chan) (a : Nat) (bs : List Byte) (h : Memory.wf c.mem = true) :
    Memory.wf (c.storeCw a bs).2.mem = true := by
  unfold Chan.storeCw
  dsimp only
  split
  · exact c.poke_wf h _ _
  · split
    · exact c.poke_wf h _ _
    · next syms _ _ =>
      have hr := c.readCodeword_wf 0 (a / 32) syms h
      split
      · exact hr
      · exact Chan.poke_wf _ hr _ _

theorem Chan.storeAux_wf (k : Nat) (c : Chan) (a : Nat) (bs : List Byte) (h : Memory.wf c.mem = true) :
    Memory.wf (Chan.storeAux k c a bs).2.mem = true := by
  induction k generalizing c a bs with
  | zero => exact h
  | succ k ih =>
    unfold Chan.storeAux
    split
    · exact h
    · exact ih _ _ _ (c.storeCw_wf a _ h)

/-- A checked write keeps the canonical form. -/
theorem Chan.store_wf (c : Chan) (a : Nat) (bs : List Byte) (h : Memory.wf c.mem = true) :
    Memory.wf (c.store a bs).2.mem = true := by
  unfold Chan.store
  split
  · exact c.poke_wf h a bs
  · exact Chan.storeAux_wf _ c a bs h

/-- The erasure of a range keeps the canonical form. -/
theorem Memory.wf_teraseRange {m : Tbl Byte} (h : Memory.wf m = true) (a b : Nat) : Memory.wf (teraseRange a b m) = true :=
  twf_teraseRange h a b

/-- Where no codeword has bad symbols, a checked read gives the bytes and changes nothing. -/
theorem Chan.load_clean (c : Chan) (a n : Nat) (h : c.flawsIn a n = []) : c.load a n = (some (c.peek a n), c) := by
  simp [Chan.load, Chan.access, h]

/-- Where no codeword has bad symbols, a checked write writes. -/
theorem Chan.store_clean (c : Chan) (a : Nat) (bs : List Byte) (h : c.flawsIn a bs.length = []) :
    c.store a bs = (false, c.poke a bs) := by
  simp [Chan.store, h]

end Sys2Proof.Machine
end

