-- ==== Sys2Proof/Laws/Registers.lean ====
section
/-!
SUPPORT. Laws of registers: what a field reads after a register or a field has been set.
-/
namespace Sys2Proof.Machine

/-- Two fields that share no bit. -/
def Fld.apart (f g : Fld) : Bool := f.off != g.off || decide (f.lo + f.w ≤ g.lo) || decide (g.lo + g.w ≤ f.lo)

theorem Chan.wr_regs (c : Chan) (o v : Nat) : (c.wr o v).regs = tput (regReset c.num) c.regs o (BitVec.ofNat 64 v) := (rfl)

theorem Hpd.wr_regs (h : Hpd) (o v : Nat) : (h.wr o v).regs = tput hpdReset h.regs o (BitVec.ofNat 64 v) := (rfl)

@[simp] theorem Chan.rd_wr_same (c : Chan) (o v : Nat) : (c.wr o v).rd o = v % 2 ^ 64 := by
  simp [Chan.rd, Chan.wr_num, Chan.wr_regs]

theorem Chan.rd_wr_other (c : Chan) {o p : Nat} (h : p ≠ o) (v : Nat) : (c.wr o v).rd p = c.rd p := by
  simp [Chan.rd, Chan.wr_num, Chan.wr_regs, tget_tput_other _ _ h]

theorem Chan.rd_lt (c : Chan) (o : Nat) : c.rd o < 2 ^ 64 := BitVec.isLt _

@[simp] theorem Chan.gf_sf_same (c : Chan) (f : Fld) (v : Nat) (h : f.lo + f.w ≤ 64) : (c.sf f v).gf f = v % 2 ^ f.w := by
  unfold Chan.gf Chan.sf
  rw [Chan.rd_wr_same, Nat.mod_eq_of_lt (setBits_lt (c.rd_lt _) _ _ _ h), bits_setBits_same]

theorem Chan.rd_sf_other (c : Chan) (f : Fld) (v : Nat) {o : Nat} (h : o ≠ f.off) : (c.sf f v).rd o = c.rd o :=
  c.rd_wr_other h _

/-- Setting a field leaves every field apart from it alone. -/
theorem Chan.gf_sf_apart (c : Chan) (f g : Fld) (v : Nat) (hf : f.lo + f.w ≤ 64) (h : f.apart g = true) :
    (c.sf f v).gf g = c.gf g := by
  simp only [Fld.apart, Bool.or_eq_true, bne_iff_ne, decide_eq_true_eq] at h
  by_cases ho : g.off = f.off
  · unfold Chan.gf
    rw [ho]
    unfold Chan.sf
    rw [Chan.rd_wr_same, Nat.mod_eq_of_lt (setBits_lt (c.rd_lt _) _ _ _ hf), bits_setBits_apart]
    rcases h with (h | h) | h
    · exact absurd ho.symm h
    · exact .inr h
    · exact .inl h
  · unfold Chan.gf
    rw [c.rd_sf_other f v ho]

@[simp] theorem Hpd.rd_wr_same (h : Hpd) (o v : Nat) : (h.wr o v).rd o = v % 2 ^ 64 := by
  simp [Hpd.rd, Hpd.wr_regs]

theorem Hpd.rd_wr_other (h : Hpd) {o p : Nat} (hp : p ≠ o) (v : Nat) : (h.wr o v).rd p = h.rd p := by
  simp [Hpd.rd, Hpd.wr_regs, tget_tput_other _ _ hp]

theorem Hpd.rd_lt (h : Hpd) (o : Nat) : h.rd o < 2 ^ 64 := BitVec.isLt _

@[simp] theorem Hpd.gf_sf_same (h : Hpd) (f : Fld) (v : Nat) (hf : f.lo + f.w ≤ 64) : (h.sf f v).gf f = v % 2 ^ f.w := by
  unfold Hpd.gf Hpd.sf
  rw [Hpd.rd_wr_same, Nat.mod_eq_of_lt (setBits_lt (h.rd_lt _) _ _ _ hf), bits_setBits_same]

theorem Hpd.rd_sf_other (h : Hpd) (f : Fld) (v : Nat) {o : Nat} (ho : o ≠ f.off) : (h.sf f v).rd o = h.rd o :=
  h.rd_wr_other ho _

theorem Hpd.gf_sf_apart (h : Hpd) (f g : Fld) (v : Nat) (hf : f.lo + f.w ≤ 64) (ha : f.apart g = true) :
    (h.sf f v).gf g = h.gf g := by
  simp only [Fld.apart, Bool.or_eq_true, bne_iff_ne, decide_eq_true_eq] at ha
  by_cases ho : g.off = f.off
  · unfold Hpd.gf
    rw [ho]
    unfold Hpd.sf
    rw [Hpd.rd_wr_same, Nat.mod_eq_of_lt (setBits_lt (h.rd_lt _) _ _ _ hf), bits_setBits_apart]
    rcases ha with (ha | ha) | ha
    · exact absurd ho.symm ha
    · exact .inr ha
    · exact .inl ha
  · unfold Hpd.gf
    rw [h.rd_sf_other f v ho]

end Sys2Proof.Machine
end

