-- ==== Sys2Proof/Laws/Run.lean ====
section
/-!
SUPPORT. What the surroundings of a command do: the queue of commands stays, a live part's command has its effect on the stamp's
channel alone, and an agent's write that gets through reaches the register.
-/
namespace Sys2Proof.Machine

theorem State.setChan_setChan (s : State) (n : Fin 4) (c d : Chan) : (s.setChan n c).setChan n d = s.setChan n d := by
  simp [State.setChan]

theorem State.onChan_eq (s : State) (n : Fin 4) (f : Chan → Chan) : s.onChan n f = s.setChan n (f (s.chan n)) := rfl

theorem State.setChan_self (s : State) (n : Fin 4) : s.setChan n (s.chan n) = s := by
  simp [State.setChan, State.chan]

@[simp] theorem State.allChans_pending (s : State) (f : Chan → Chan) : (s.allChans f).pending = s.pending := (rfl)

@[simp] theorem State.badAccess_pending (s : State) : s.badAccess.pending = s.pending := by
  simp [State.badAccess]

@[simp] theorem State.bar2Put_pending (s : State) (off : Nat) (bs : List Byte) : (s.bar2Put off bs).pending = s.pending := by
  unfold State.bar2Put
  dsimp only
  split <;> split <;> simp

@[simp] theorem State.bar2Write_pending (s : State) (off v : Nat) : (s.bar2Write off v).pending = s.pending := by
  unfold State.bar2Write
  dsimp only
  split
  · simp
  · split <;> simp

theorem State.pwrOn_pending (s : State) (n : Fin 4) : (s.pwrOn n).pending = s.pending := by
  unfold State.pwrOn State.chanOn
  split <;> simp

@[simp] theorem State.bar0Write_pending (s : State) (ag : Agent) (off v : Nat) : (s.bar0Write ag off v).pending = s.pending := by
  unfold State.bar0Write
  split
  · simp
  · split
    · split
      · exact s.pwrOn_pending _
      · rfl
    · simp

@[simp] theorem State.hostWrite_pending (s : State) (off v : Nat) : (s.hostWrite off v).pending = s.pending := by
  unfold State.hostWrite
  simp only [apply_ite State.pending, State.onHpd_pending, State.onChan_pending, State.bar2Write_pending, State.bar0Write_pending,
    State.badAccess_pending, ite_self]

@[simp] theorem State.barWrite_pending (s : State) (off : Nat) (bs : List Byte) : (s.barWrite off bs).pending = s.pending := by
  unfold State.barWrite
  split
  · rfl
  · split
    · simp
    · split <;> simp

@[simp] theorem State.barRead_pending (s : State) (off n : Nat) : (s.barRead off n).pending = s.pending := by
  unfold State.barRead
  split
  · rfl
  · split
    · simp
    · split
      · rfl
      · split <;> simp

@[simp] theorem State.envAct_pending (s : State) (n : Fin 4) (e : Env) : (s.envAct n e).pending = s.pending := by
  cases e <;> simp only [State.envAct, State.onChan_pending, State.onHpd_pending, State.barRead_pending, State.barWrite_pending] <;>
    split <;> simp only [State.onHpd_pending]

@[simp] theorem State.enter_pending (s : State) (a : At) : (s.enter a).pending = s.pending := by
  unfold State.enter
  suffices h : ∀ (l : List Env) (t : State), (l.foldl (fun s e => s.envAct a.chan e) t).pending = t.pending from by
    rw [h]; simp
  intro l
  induction l with
  | nil => exact fun _ => rfl
  | cons e r ih => intro t; rw [List.foldl_cons, ih, State.envAct_pending]

/-! ### Commands of a live part -/

theorem State.run_good {s : State} {a : At} (h : (s.enter a).hpd.good = true) (f : State → State) :
    s.run a f = .next (f (s.enter a)).settle := by
  simp [State.run, State.runAny, h]

theorem State.runIf_on {s : State} {a : At} {on : Chan → Bool} (h : (s.enter a).hpd.good = true) (ho : on (s.here a) = true)
    (f : Chan → Chan) : s.runIf a on f = .next ((s.enter a).setChan a.chan (f (s.here a))).settle := by
  unfold State.runIf
  rw [State.run_good h, if_pos (by exact ho)]
  rfl

theorem State.runHome_live {s : State} {a : At} (h : s.homeLive a) (f : Chan → Chan) :
    s.runHome a f = .next ((s.enter a).setChan a.chan (f (s.here a))).settle := State.runIf_on h.1 h.2 f

theorem State.runFab_live {s : State} {a : At} (h : s.fabLive a) (f : Chan → Chan) :
    s.runFab a f = .next ((s.enter a).setChan a.chan (f (s.here a))).settle :=
  State.runIf_on h.1.1 (by simp [h.1.2, h.2]) f

theorem State.runBase_live {s : State} {a : At} (h : s.baseLive a) (f : Chan → Chan) :
    s.runBase a f = .next ((s.enter a).setChan a.chan (f (s.here a))).settle := State.runIf_on h.1 h.2 f

theorem State.runCore_live {s : State} {a : At} (h : s.coreLive a) (f : Chan → Chan) :
    s.runCore a f = .next ((s.enter a).setChan a.chan (f (s.here a))).settle := State.runIf_on h.1 h.2 f

theorem State.runHpd_good {s : State} {a : At} (h : (s.enter a).hpd.good = true) (f : Hpd → Hpd) :
    s.runHpd a f = .next ((s.enter a).onHpd f).settle := State.run_good h _

/-! ### Register writes -/

theorem finOf_val (n : Fin 4) : finOf n.val = n := by
  unfold finOf
  apply Fin.ext
  exact Nat.mod_eq_of_lt n.isLt

theorem hostOff_page (n : Fin 4) {off : Nat} (h : 0x10000000 ≤ off) (h' : off < 0x10001000) :
    0x1000 ≤ hostOff n.val off ∧ hostOff n.val off < 0x5000 := by
  simp only [hostOff, h, if_true]; omega

/-- The host page of a channel in BAR0. -/
theorem bar0Write_page {s : State} {n : Fin 4} {ag : Agent} {off v : Nat} (h : 0x10000000 ≤ off) (h' : off < 0x10001000) :
    s.bar0Write ag (hostOff n.val off) v = s.setChan n ((s.chan n).regWrite ag off v) := by
  have e := hostOff_page n h h'
  have hv : hostOff n.val off = 0x1000 + 0x1000 * n.val + (off - 0x10000000) := by simp only [hostOff, h, if_true]
  have e1 : hostOff n.val off / 0x1000 - 1 = n.val := by omega
  have e2 : 0x10000000 + hostOff n.val off % 0x1000 = off := by omega
  simp only [State.bar0Write, pageOf, e, and_self, if_true, e1, e2, finOf_val, State.onChan]

/-- An agent's write that gets through is taken by the register, and noted. -/
theorem State.write_through {s : State} {n : Fin 4} {ag : Agent} {off v : Nat} (h : s.mayWrite n ag off v) :
    s.write n ag off v = (s.setChan n (((s.chan n).regWrite ag off v).placed ag off)).noted ag n off := by
  cases ag with
  | core k =>
    obtain ⟨h1, h2, h3, h4, h5⟩ := h
    have : ¬ (0x10000000 ≤ off) := by omega
    simp [State.write, this, h2, h3, h4, h5, State.onChan, State.noted, Chan.placed, Chan.regBy]
  | te k =>
    obtain ⟨h1, h2, h3, h4⟩ := h
    have : ¬ (0x10000000 ≤ off) := by omega
    simp [State.write, this, h2, h3, h4, State.onChan, State.noted, Chan.placed, Chan.regBy]
  | homeroom =>
    obtain ⟨h1, h2⟩ := h
    have : ¬ (0x10000000 ≤ off) := by omega
    simp [State.write, this, h2, State.onChan, State.noted, Chan.placed]
  | monitor =>
    obtain ⟨h1, ha, h2⟩ := h
    by_cases ho : 0x10000000 ≤ off
    · rw [if_pos ho] at h2
      have hb : s.monBar true 4 (hostOff n.val off) = 0 := by
        have e := hostOff_page n ho h2.1
        have b2 : hostOff n.val off % 8 = 0 := by simp only [hostOff, ho, if_true]; omega
        have b4 : hpdAssigned (hostOff n.val off) = true := by simp only [hpdAssigned, decide_eq_true_eq]; omega
        simp [State.monBar, monAligned, State.monFar, b2, b4]
      simp only [State.write, ho, if_true, h1, State.monPut, h2.2, hb, State.monWrite, bar0Write_page ho h2.1, State.onChan,
        State.noted, Chan.placed]
      simp
    · rw [if_neg ho] at h2
      obtain ⟨h2, h3, h4, h5⟩ := h2
      have hn : ¬ (4 ≤ n.val) := by omega
      have hb : s.monBar true n.val off = 0 := by
        simp [State.monBar, monAligned, State.monFar, ha, h2, finOf_val, h4]
      simp only [State.write, ho, if_false, h1, State.monPut, h3, hb, State.monWrite, hn, finOf_val, State.onChan, State.noted,
        Chan.placed, Chan.regBy, h5]
      simp
  | host =>
    obtain ⟨h1, h2, h3⟩ := h
    have hn : n.val < 4 := n.isLt
    by_cases ho : 0x10000000 ≤ off
    · rw [if_pos ho] at h3
      have e := hostOff_page n ho h3
      have b1 : ¬ (0x10000000 ≤ hostOff n.val off) := by omega
      have b2 : hostOff n.val off % 8 = 0 := by simp only [hostOff, ho, if_true]; omega
      have b3 : hostOff n.val off < 0x1000000 := by omega
      have b4 : hpdAssigned (hostOff n.val off) = true := by simp only [hpdAssigned, decide_eq_true_eq]; omega
      have b5 : s.hpd.hostMayHpd (hostOff n.val off) v = true := by
        have : hostOff n.val off ≠ MG_PWR_CTL.off := by simp only [MG_PWR_CTL.off]; omega
        simp [Hpd.hostMayHpd, this]
      simp only [State.write, State.hostWrite, h1, b1, b2, b3, b4, b5, bar0Write_page ho h3, State.noted, State.onChan, Chan.placed, ho]
      simp
    · rw [if_neg ho] at h3
      obtain ⟨h3, h4, h5, h6, h7⟩ := h3
      have e : hostOff n.val off = 0x1000000 + 0xC00000 * n.val + off := by simp [hostOff, ho]
      have q : (0x1000000 + 0xC00000 * n.val + off - 0x1000000) / 0xC00000 = n.val := by omega
      have r : (0x1000000 + 0xC00000 * n.val + off - 0x1000000) % 0xC00000 = off := by omega
      have b1 : ¬ (0x10000000 ≤ 0x1000000 + 0xC00000 * n.val + off) := by omega
      have b2 : (0x1000000 + 0xC00000 * n.val + off) % 8 = 0 := by omega
      have b3 : ¬ (0x1000000 + 0xC00000 * n.val + off < 0x1000000) := by omega
      have b4 : ¬ (0x4000000 ≤ 0x1000000 + 0xC00000 * n.val + off) := by omega
      simp only [State.write, e, State.hostWrite, h1, q, r, b1, b2, b3, b4, h4, h5, h6, h7, finOf_val, State.noted,
        State.onChan, Chan.placed, Chan.regBy, ho]
      simp

/-- An agent's write to the host-port die's own registers that gets through is taken by the register, and noted. -/
theorem State.writeHpd_through {s : State} {ag : Agent} {off v : Nat} (h : s.mayWriteHpd ag off v) :
    ∃ t, t = s.bar0Write ag off v ∧ s.writeHpd ag off v = t.onHpd (fun h => h.noted ag off) := by
  refine ⟨_, rfl, ?_⟩
  cases ag with
  | host =>
    obtain ⟨h1, h2, h3, h4⟩ := h
    have b1 : ¬ (0x10000000 ≤ off) := by omega
    have b2 : off < 0x1000000 := by omega
    have b3 : hpdAssigned off = true := by simp [hpdAssigned]; omega
    simp only [State.writeHpd, State.hostWrite, h1, h2, b1, b2, b3, h4, Hpd.noted]
    simp [State.onHpd, -State.bar0Write_pending]
  | monitor =>
    obtain ⟨h1, h2, h3⟩ := h
    have hb : s.monBar true 4 off = 0 := by simp [State.monBar, h2, State.monFar]
    simp only [State.writeHpd, h1, h3, State.monPut, hb, State.monWrite, State.monWrote, Hpd.noted]
    simp
  | _ => exact absurd h (by simp [State.mayWriteHpd])

/-- A register write by an agent that gets through. -/
theorem State.runWrite_through {s : State} {a : At} {ag : Agent} {off v : Nat} (hg : (s.enter a).hpd.good = true)
    (h : (s.enter a).mayWrite a.chan ag off v) :
    s.runWrite a ag off v =
      .next (((s.enter a).setChan a.chan (((s.here a).regWrite ag off v).placed ag off)).noted ag a.chan off).settle := by
  unfold State.runWrite
  rw [State.run_good hg, State.write_through h]
  rfl

end Sys2Proof.Machine
end

