-- ==== Sys2Proof/Laws/Ops.lean ====
section
/-!
SUPPORT. What the shared operations do: counters, event records, tokens, cleared ranges, reads of memory without bad symbols.
-/
namespace Sys2Proof.Machine

theorem Chan.rd_congr {c d : Chan} (hn : d.num = c.num) (hr : d.regs = c.regs) (o : Nat) : d.rd o = c.rd o := by
  simp [Chan.rd, hn, hr]

theorem Chan.gf_congr {c d : Chan} (hn : d.num = c.num) (hr : d.regs = c.regs) (f : Fld) : d.gf f = c.gf f := by
  simp [Chan.gf, Chan.rd_congr hn hr]

theorem Hpd.rd_congr {h g : Hpd} (hr : g.regs = h.regs) (o : Nat) : g.rd o = h.rd o := by
  simp [Hpd.rd, hr]

theorem Chan.sameMem_of_mem {c d : Chan} (h : d.mem = c.mem) : c.sameMem d := by
  intro x; simp [Chan.byte, h]

/-- A poke leaves every byte outside its extent alone. -/
theorem Chan.sameMemBut_poke (c : Chan) (a : Nat) (bs : List Byte) : c.sameMemBut (c.poke a bs) a bs.length := by
  intro x hx; rw [c.byte_poke, if_neg hx]

/-! ### Counters -/

theorem Chan.gf_lt (c : Chan) (f : Fld) : c.gf f < 2 ^ f.w := bits_lt _ _ _

theorem Chan.gf_count_same (c : Chan) (f : Fld) (n : Nat) (h : f.lo + f.w ≤ 64) :
    (c.count f n).gf f = (c.gf f + n) % 2 ^ f.w := c.gf_sf_same f _ h

theorem Chan.rd_count_other (c : Chan) (f : Fld) (n : Nat) {o : Nat} (h : o ≠ f.off) : (c.count f n).rd o = c.rd o :=
  c.rd_sf_other f _ h

@[simp] theorem Chan.count_mem (c : Chan) (f : Fld) (n : Nat) : (c.count f n).mem = c.mem := (rfl)
@[simp] theorem Chan.count_num (c : Chan) (f : Fld) (n : Nat) : (c.count f n).num = c.num := (rfl)

/-! ### Event records -/

@[simp] theorem Chan.evAt_num (c : Chan) (t b code sev d : Nat) : (c.evAt t b code sev d).num = c.num := by
  simp [Chan.evAt, apply_ite Chan.num]

@[simp] theorem Chan.evAt_now (c : Chan) (t b code sev d : Nat) : (c.evAt t b code sev d).now = c.now := by
  simp [Chan.evAt, apply_ite Chan.now]

@[simp] theorem Chan.evAt_mem (c : Chan) (t b code sev d : Nat) : (c.evAt t b code sev d).mem = c.mem := by
  simp [Chan.evAt, apply_ite Chan.mem]

@[simp] theorem Chan.evAt_queues (c : Chan) (t b code sev d : Nat) : (c.evAt t b code sev d).queues = c.queues := by
  simp [Chan.evAt, apply_ite Chan.queues]

@[simp] theorem Chan.evAt_flaws (c : Chan) (t b code sev d : Nat) : (c.evAt t b code sev d).flaws = c.flaws := by
  simp [Chan.evAt, apply_ite Chan.flaws]

@[simp] theorem Chan.ev_num (c : Chan) (b code sev d : Nat) : (c.ev b code sev d).num = c.num := c.evAt_num ..

@[simp] theorem Chan.ev_now (c : Chan) (b code sev d : Nat) : (c.ev b code sev d).now = c.now := c.evAt_now ..

@[simp] theorem Chan.ev_queues (c : Chan) (b code sev d : Nat) : (c.ev b code sev d).queues = c.queues := c.evAt_queues ..

@[simp] theorem Chan.ev_flaws (c : Chan) (b code sev d : Nat) : (c.ev b code sev d).flaws = c.flaws := c.evAt_flaws ..

@[simp] theorem Chan.hpdEv_mem (c : Chan) (b code sev d : Nat) : (c.hpdEv b code sev d).mem = c.mem := by
  simp [Chan.hpdEv, apply_ite Chan.mem]

@[simp] theorem Chan.hpdEv_queues (c : Chan) (b code sev d : Nat) : (c.hpdEv b code sev d).queues = c.queues := by
  simp [Chan.hpdEv, apply_ite Chan.queues]

@[simp] theorem Chan.qEv_mem (c : Chan) (q code sev d : Nat) : (c.qEv q code sev d).mem = c.mem := by
  simp [Chan.qEv, apply_ite Chan.mem]

@[simp] theorem Chan.qEv_queues (c : Chan) (q code sev d : Nat) : (c.qEv q code sev d).queues = c.queues := by
  simp [Chan.qEv, apply_ite Chan.queues]

/-- A record's registers: only the log's status changes. -/
theorem Chan.evAt_regs (c : Chan) (t b code sev d : Nat) :
    (c.evAt t b code sev d).regs = (c.sf HR_LOG_STAT.WCNT (c.gf HR_LOG_STAT.WCNT + 1)).regs := by
  have e : ∀ x : Tbl EvRec, ((c.withLog x).sf HR_LOG_STAT.WCNT (c.gf HR_LOG_STAT.WCNT + 1)).regs =
      (c.sf HR_LOG_STAT.WCNT (c.gf HR_LOG_STAT.WCNT + 1)).regs := by
    intro x
    unfold Chan.sf
    rw [Chan.wr_regs, Chan.wr_regs, Chan.withLog_regs, Chan.withLog_num, Chan.rd_congr (c.withLog_num x) (c.withLog_regs x)]
  unfold Chan.evAt
  dsimp only
  split
  · rw [Chan.withOut_regs, e]
  · exact e _

theorem Chan.ev_regs (c : Chan) (b code sev d : Nat) :
    (c.ev b code sev d).regs = (c.sf HR_LOG_STAT.WCNT (c.gf HR_LOG_STAT.WCNT + 1)).regs := c.evAt_regs ..

theorem Chan.rd_ev_other (c : Chan) (b code sev d : Nat) {o : Nat} (h : o ≠ HR_LOG_STAT.off) :
    (c.ev b code sev d).rd o = c.rd o := by
  rw [Chan.rd_congr (d := c.ev b code sev d) (c := c.sf HR_LOG_STAT.WCNT (c.gf HR_LOG_STAT.WCNT + 1)) (by simp)
    (c.ev_regs b code sev d)]
  exact c.rd_sf_other _ _ h

theorem Chan.gf_ev_other (c : Chan) (b code sev d : Nat) (f : Fld) (h : f.off ≠ HR_LOG_STAT.off) :
    (c.ev b code sev d).gf f = c.gf f := by
  unfold Chan.gf; rw [c.rd_ev_other b code sev d h]

/-- A record enters the log at its place with its time, and the write count grows by one. -/
theorem Chan.evAt_logged (c : Chan) (t b code sev d : Nat) : c.loggedAt (c.evAt t b code sev d) t b code sev d := by
  constructor
  · simp [Chan.evAt, apply_ite Chan.log, Chan.withOut]
  · rw [Chan.gf_congr (d := c.evAt t b code sev d) (c := c.sf HR_LOG_STAT.WCNT (c.gf HR_LOG_STAT.WCNT + 1)) (by simp)
      (c.evAt_regs t b code sev d)]
    exact c.gf_sf_same _ _ (by decide)

/-- A record of the channel carries the channel's time. -/
theorem Chan.ev_logged (c : Chan) (b code sev d : Nat) : c.logged (c.ev b code sev d) b code sev d := c.evAt_logged ..

/-- A record of the host-port die about the channel carries the die's own time. -/
theorem Chan.hpdEv_logged (c : Chan) (b code sev d : Nat) (h : c.ucUp = true) :
    c.hpdLogged (c.hpdEv b code sev d) b code sev d := by
  simp only [Chan.hpdEv, h, if_true]; exact c.evAt_logged ..

@[simp] theorem Chan.rateBump_regs' (c : Chan) (k n : Nat) : (c.rateBump k n).regs = c.regs := (rfl)

theorem Chan.rd_evLim_other (c : Chan) (key limit b code sev d : Nat) {o : Nat} (h : o ≠ HR_LOG_STAT.off) :
    (c.evLim key limit b code sev d).rd o = c.rd o := by
  unfold Chan.evLim
  dsimp only
  split
  · rw [Chan.rd_ev_other _ _ _ _ _ h]; exact Chan.rd_congr (by simp) (by simp) o
  · exact Chan.rd_congr (by simp) (by simp) o

@[simp] theorem Chan.evLim_mem (c : Chan) (key limit b code sev d : Nat) : (c.evLim key limit b code sev d).mem = c.mem := by
  simp [Chan.evLim, apply_ite Chan.mem]

@[simp] theorem Chan.evLim_num (c : Chan) (key limit b code sev d : Nat) : (c.evLim key limit b code sev d).num = c.num := by
  simp [Chan.evLim, apply_ite Chan.num]

/-! ### Ranges of registers -/

theorem Chan.rd_resetRange (c : Chan) (lo hi o : Nat) :
    (c.resetRange lo hi).rd o = if lo ≤ o ∧ o < hi then (regReset c.num o).toNat else c.rd o := by
  have e : (c.resetRange lo hi).rd o = (tget (regReset c.num) (teraseRange lo hi c.regs) o).toNat := by
    simp [Chan.rd, Chan.resetRange]
  rw [e, tget_teraseRange]
  split <;> rfl

@[simp] theorem Chan.resetRange_mem (c : Chan) (lo hi : Nat) : (c.resetRange lo hi).mem = c.mem := (rfl)
@[simp] theorem Chan.resetRange_num (c : Chan) (lo hi : Nat) : (c.resetRange lo hi).num = c.num := (rfl)

/-! ### Tokens -/

/-- A signal adds its increment modulo 2^32. -/
theorem Chan.tok_signal (c : Chan) (i n : Nat) : (c.signal i n).tok i = (c.tok i + n) % 2 ^ 32 := by
  unfold Chan.signal Chan.tok
  dsimp only
  rw [Chan.gf_count_same _ _ _ (by simp)]
  rw [Chan.gf_congr (c := c) (by simp) (by simp)]

theorem Chan.rd_signal_other (c : Chan) (i n : Nat) {o : Nat} (h : o ≠ CH_TOK.off (i % 256)) : (c.signal i n).rd o = c.rd o := by
  unfold Chan.signal
  dsimp only
  rw [Chan.rd_count_other _ _ _ h]
  exact Chan.rd_congr (by simp) (by simp) o

@[simp] theorem Chan.signal_mem (c : Chan) (i n : Nat) : (c.signal i n).mem = c.mem := by simp [Chan.signal]
@[simp] theorem Chan.signal_num (c : Chan) (i n : Nat) : (c.signal i n).num = c.num := by simp [Chan.signal]

/-- A write of a counter is applied before the increments of its own cycle. -/
theorem Chan.tok_tokWrite (c : Chan) (i v : Nat) :
    (c.tokWrite i v).tok i = (v + (c.cycOf (CH_TOK.off (i % 256))).2) % 2 ^ 32 := by
  unfold Chan.tokWrite Chan.tok
  dsimp only
  rw [Chan.gf_sf_same _ _ _ (by simp)]

theorem Chan.rd_tokWrite_other (c : Chan) (i v : Nat) {o : Nat} (h : o ≠ CH_TOK.off (i % 256)) : (c.tokWrite i v).rd o = c.rd o := by
  unfold Chan.tokWrite
  dsimp only
  rw [Chan.rd_sf_other _ _ _ h]
  exact Chan.rd_congr (by simp) (by simp) o

@[simp] theorem Chan.tokWrite_mem (c : Chan) (i v : Nat) : (c.tokWrite i v).mem = c.mem := by simp [Chan.tokWrite]

/-! ### Memory without bad symbols -/

theorem Chan.access_clean (c : Chan) (src a n : Nat) (h : c.flawsIn a n = []) : c.access src a n = (false, c) := by
  simp [Chan.access, h]

/-! ### Queues -/

@[simp] theorem Chan.queue_setQueue_same (c : Chan) (q : Nat) (x : Queue) : (c.setQueue q x).queue q = x := by
  unfold Chan.queue
  have : (c.setQueue q x).queues = tput (fun _ => {}) c.queues q x := (rfl)
  rw [this]; simp

theorem Chan.queue_setQueue_other (c : Chan) {p q : Nat} (h : p ≠ q) (x : Queue) : (c.setQueue q x).queue p = c.queue p := by
  unfold Chan.queue
  have : (c.setQueue q x).queues = tput (fun _ => {}) c.queues q x := (rfl)
  rw [this]; exact tget_tput_other _ _ h x

@[simp] theorem Chan.queue_onQueue_same (c : Chan) (q : Nat) (f : Queue → Queue) : (c.onQueue q f).queue q = f (c.queue q) :=
  c.queue_setQueue_same q _

theorem Chan.queue_onQueue_other (c : Chan) {p q : Nat} (h : p ≠ q) (f : Queue → Queue) : (c.onQueue q f).queue p = c.queue p :=
  c.queue_setQueue_other h _

@[simp] theorem Chan.onQueue_mem (c : Chan) (q : Nat) (f : Queue → Queue) : (c.onQueue q f).mem = c.mem := (rfl)
@[simp] theorem Chan.onQueue_num (c : Chan) (q : Nat) (f : Queue → Queue) : (c.onQueue q f).num = c.num := (rfl)
@[simp] theorem Chan.onQueue_regs (c : Chan) (q : Nat) (f : Queue → Queue) : (c.onQueue q f).regs = c.regs := (rfl)
@[simp] theorem Chan.onQueue_now (c : Chan) (q : Nat) (f : Queue → Queue) : (c.onQueue q f).now = c.now := (rfl)

/-- A halt: the queue is HALTED and Q_ERR holds the code, the opcode and DETAIL. -/
theorem Chan.halt_state (c : Chan) (q code op detail slot : Nat) (inSeg : Bool) :
    ((c.halt q code op detail slot inSeg).queue q).st = .halted := by
  unfold Chan.halt
  dsimp only
  have e : ∀ (d : Chan) (b k s t : Nat), (d.qEv b k s t).queue q = d.queue q := by
    intro d b k s t; simp [Chan.queue]
  rw [e]
  split <;> simp [Chan.queue, Chan.onQueue, Chan.setQueue]

@[simp] theorem Chan.halt_mem (c : Chan) (q code op detail slot : Nat) (inSeg : Bool) :
    (c.halt q code op detail slot inSeg).mem = c.mem := by
  simp [Chan.halt, apply_ite Chan.mem]

end Sys2Proof.Machine
end

