-- ==== Sys2Proof/Laws/Start.lean ====
section
/-!
SUPPORT. The evaluation of a queue's head: it is started, taken note of, or refused with a halt.
-/
namespace Sys2Proof.Machine

/-- Once the head is due, the evaluation goes on with the checks. -/
theorem Chan.tryStart_due {c : Chan} {q op : Nat} {spec : CmdSpec} {h : Head} (hd : c.due q op h) :
    c.tryStart q op spec =
      match ((c.atHead q).checked q spec h.raw).1 with
      | some (code, d) => (c.looked q spec h).halt q code (opcodeOf h.raw) d h.slot h.inSeg
      | none =>
        match spec.park (c.looked q spec h) q with
        | some e => e
        | none =>
          if !spec.credit (c.looked q spec h) q (c.queue q).seg h.raw then c.looked q spec h else c.startedAs q spec h := by
  unfold Chan.tryStart
  dsimp only
  have h1 : ¬ ((c.queue q).st ≠ .running ∨ (c.queue q).halting = true ∨ (c.queue q).fenced = true) := by
    simp [hd.running, hd.halting, hd.fenced]
  rw [if_neg h1]
  have e : c.head q = (.cmd h, (c.head q).2) := Prod.ext hd.head rfl
  rw [e]
  dsimp only
  have h2 : ¬ (opDefined (opcodeOf h.raw) q = true ∧ opcodeOf h.raw ≠ op) := by simp [hd.opcode]
  rw [if_neg h2]
  have hw := hd.waits
  unfold Chan.headWaits at hw
  rw [hw]
  dsimp only
  have h3 : ((serialOf h.raw && !(c.queue q).serialOk h) || decide (windowOf q ≤ (c.queue q).busy)) = false := by
    have := hd.room
    by_cases hs : serialOf h.raw = true
    · simp [hs, hd.serial hs, Nat.not_le.mpr this]
    · simp [hs, Nat.not_le.mpr this]
  rw [h3]
  simp only [Bool.and_false, Bool.false_eq_true, if_false]
  have e2 : ((c.head q).2.onQueue q (fun x => { x with wait := none })).checked q spec h.raw =
      (((c.atHead q).checked q spec h.raw).1, c.looked q spec h) := rfl
  rw [e2]
  cases ((c.atHead q).checked q spec h.raw).1 <;> rfl

/-- A head that passes is started. -/
theorem Chan.tryStart_starts {c : Chan} {q op : Nat} {spec : CmdSpec} {h : Head} (hs : c.startable q op spec h) :
    c.tryStart q op spec = c.startedAs q spec h := by
  rw [Chan.tryStart_due hs.todue, hs.checks, hs.starts]
  simp [hs.credit]

/-- A queue's command at a live queue. -/
theorem State.runQueue_on {s : State} {a : At} {q op : Nat} {spec : CmdSpec} (hg : (s.enter a).hpd.good = true)
    (hq : (s.here a).queueOn q = true) :
    s.runQueue a q op spec = .next ((s.enter a).setChan a.chan ((s.here a).tryStart q op spec)).settle :=
  State.runIf_on hg hq _

/-- A head that fails a check halts the queue with the check's code and DETAIL. -/
theorem Chan.tryStart_refused {c : Chan} {q op : Nat} {spec : CmdSpec} {h : Head} (hd : c.due q op h) {code d : Nat}
    (hc : ((c.atHead q).checked q spec h.raw).1 = some (code, d)) :
    c.tryStart q op spec = (c.looked q spec h).halt q code op d h.slot h.inSeg := by
  rw [Chan.tryStart_due hd, hc, hd.opcode]

end Sys2Proof.Machine
end

