-- ==== Sys2Proof/Laws/Writes.lean ====
section
/-!
SUPPORT. Where a register write goes: to the block that holds its offset.
-/
namespace Sys2Proof.Machine

theorem counterRanges_low {off : Nat} (h : off < 0x50000) : counterRanges off = [] := by
  have h1 : UU_CNT_CTL.off = 0x50168 := rfl
  have h2 : CE_CNT_CTL.off = 0x70108 := rfl
  have h3 : CS_CNT_CTL.off = 0x90068 := rfl
  have h4 : EN_CNT_CTL.off = 0xE0068 := rfl
  have h5 : UC_CNT_CTL.off = 0xD0060 := rfl
  have h6 : HPC_CNT_CTL.off = 0x10000160 := rfl
  unfold counterRanges
  repeat rw [if_neg (by omega)]

theorem queuePage_low {off : Nat} (h : off < 0x50000) : queuePage off = none := by
  unfold queuePage
  repeat rw [if_neg (by omega)]

/-- No register below the update unit's is written by the hardware with precedence. -/
theorem precReg_low {off : Nat} (h : off < 0x50000) : precReg off = false := by
  have h1 : UU_TERM.off = 0x50110 := rfl
  have h2 : ∀ s, VS_DONE.off s = 0x60120 + 0x80 * s := fun _ => rfl
  have h3 : ∀ s, SS_TERM.off s = 0x150018 + 0x1000 * s := fun _ => rfl
  have h4 : ∀ s, CE_GRP_TERM.off s = 0x70410 + 0x80 * s := fun _ => rfl
  unfold precReg
  simp only [h1, h2, h3, h4, Bool.or_eq_false_iff, List.any_eq_false, beq_eq_false_iff_ne, beq_iff_eq, Bool.or_eq_true, not_or]
  refine ⟨by omega, fun s _ => ⟨⟨by omega, by omega⟩, by omega⟩⟩

/-- The homeroom's registers. -/
theorem Chan.regWrite_home {c : Chan} {ag : Agent} {off v : Nat} (h : off < 0x10000) (hb : c.blockOn off = true) :
    c.regWrite ag off v = c.writeHr ag off v := by
  unfold Chan.regWrite
  rw [if_neg (by simp [hb]), if_neg (by simp [precReg_low (off := off) (by omega)]), counterRanges_low (by omega),
    queuePage_low (by omega)]
  simp [h]

/-- The registers of the CH_ block. -/
theorem Chan.regWrite_ch {c : Chan} {ag : Agent} {off v : Nat} (h : 0x10000 ≤ off) (h' : off < 0x20000)
    (hb : c.blockOn off = true) : c.regWrite ag off v = c.writeCh off v := by
  unfold Chan.regWrite
  rw [if_neg (by simp [hb]), if_neg (by simp [precReg_low (off := off) (by omega)]), counterRanges_low (by omega),
    queuePage_low (by omega)]
  have : ¬ off < 0x10000 := by omega
  simp [h', this]

/-- The registers of the CIC. -/
theorem Chan.regWrite_cic {c : Chan} {ag : Agent} {off v : Nat} (h : 0x20000 ≤ off) (h' : off < 0x30000)
    (hb : c.blockOn off = true) : c.regWrite ag off v = c.writeCic off v := by
  unfold Chan.regWrite
  rw [if_neg (by simp [hb]), if_neg (by simp [precReg_low (off := off) (by omega)]), counterRanges_low (by omega),
    queuePage_low (by omega)]
  have h1 : ¬ off < 0x10000 := by omega
  have h2 : ¬ off < 0x20000 := by omega
  simp [h', h1, h2]

/-- A counter-clear register. -/
theorem Chan.regWrite_counters {c : Chan} {ag : Agent} {off v : Nat} (h : counterRanges off ≠ []) (hp : precReg off = false)
    (hb : c.blockOn off = true) : c.regWrite ag off v = c.counterClear off v := by
  unfold Chan.regWrite
  rw [if_neg (by simp [hb]), if_neg (by simp [hp]), if_pos (by simpa using h)]

/-- A register of a queue page. -/
theorem Chan.regWrite_queue {c : Chan} {ag : Agent} {off v q : Nat} (hq : queuePage off = some q) (h : counterRanges off = [])
    (hp : (precReg off && c.claimed off) = false) (hb : c.blockOn off = true) :
    c.regWrite ag off v = c.writeQueue q (off % 0x1000) off v := by
  unfold Chan.regWrite
  rw [if_neg (by simp [hb]), if_neg (by simp [hp]), h, hq]
  simp

/-- Every other register. -/
theorem Chan.regWrite_block {c : Chan} {ag : Agent} {off v : Nat} (h0 : 0x30000 ≤ off) (hq : queuePage off = none)
    (h : counterRanges off = []) (hp : (precReg off && c.claimed off) = false) (hb : c.blockOn off = true) :
    c.regWrite ag off v =
      if 0x60000 ≤ off ∧ off < 0x70000 then c.writeVs off v
      else if off = GB_CTL.off then if bit v 3 then c.gbClr (bits v 0 3) else c
      else if off = CS_CFG.off then if isService ag then c.csCfgWrite v else c
      else if off = CS_RING.off then if isService ag then c.wrFields off v else c
      else if 0xA0000 ≤ off ∧ off < 0xA6000 then c.writeIv off v
      else if off = HBM_ECC_CTL.off then if bit v 0 then c.sf HBM_ECC_CORR.COUNT 0 else c
      else if off = SP_ECC_CTL.off then if bit v 0 then c.sf SP_ECC_CORR.COUNT 0 else c
      else if off = UC_CTL.off then c.ucCtl v
      else if 0xE0000 ≤ off ∧ off < 0xF0000 then c.writeEn off v
      else if 0x140000 ≤ off ∧ off < 0x144000 then c.writeSc off v
      else if 0x150000 ≤ off ∧ off < 0x158000 then c.writeSlot off v
      else if off = RPT_CLR.off then c.rptClrWrite v
      else if off = RPT_SNAP_CTL.off then c.rptSnap v
      else c.wrFields off v := by
  unfold Chan.regWrite
  rw [if_neg (by simp [hb]), if_neg (by simp [hp]), h, hq]
  have h1 : ¬ off < 0x10000 := by omega
  have h2 : ¬ off < 0x20000 := by omega
  have h3 : ¬ off < 0x30000 := by omega
  simp only [List.isEmpty_nil, Bool.not_true, Bool.false_eq_true, if_false, h1, h2, h3]

/-- A write of a token counter. -/
theorem Chan.regWrite_tok {c : Chan} {ag : Agent} {i v : Nat} (hi : i < 256) (hb : c.blockOn (CH_TOK.off i) = true) :
    c.regWrite ag (CH_TOK.off i) v = c.tokWrite i v := by
  have e : CH_TOK.off i = 0x11000 + 0x8 * i := rfl
  rw [Chan.regWrite_ch (by omega) (by omega) hb]
  unfold Chan.writeCh
  have h1 : 0x1000 ≤ CH_TOK.off i - 0x10000 ∧ CH_TOK.off i - 0x10000 < 0x1800 ∧ (CH_TOK.off i - 0x10000) % 8 = 0 := by omega
  have h2 : (CH_TOK.off i - 0x10000 - 0x1000) / 8 = i := by omega
  dsimp only
  rw [if_pos h1, h2]

end Sys2Proof.Machine
end

