-- ==== Sys2Proof/Tests/Slice0.lean ====
section
/-!
SUPPORT. The model's own tests: ill-formed commands are refused by `Instr.wf`; single steps on small states; and for every statement
with hypotheses a witness, a concrete state and operands that meet them, clause by clause.  Expected values are worked out by hand
from the rules cited.
-/
namespace Sys2Proof.Tests
set_option Elab.async false
open Sys2Proof Sys2Proof.Machine

/-! ### Small states -/

/-- A stamp at time `t` on channel 0, and the one at time 0. -/
def stamp (t : Nat) : At := { time := t, chan := 0, env := [] }
def at0 : At := stamp 0

/-- A module with power, its host link up, every die powered; and the same with channel 0 changed. -/
def live : State :=
  { State.reset with
    ch := State.reset.ch.map (fun c => ((c.sf UC_STAT.STATE 2).withNoCompute false).withHostUp true)
    hpd := (((State.reset.hpd.withGood true).sf HP_LINK.UP 1).sf HP_LINK.BME 1).withPerm 0xFF }
def on (f : Chan → Chan) : State := live.setChan 0 (f (live.chan 0))
def onHpd (f : Hpd → Hpd) : State := live.onHpd f

/-- The state a command leads to. -/
def after (o : Host.Outcome State Fault Refusal) : State :=
  match o with
  | .next s => s
  | _ => State.reset
def run (i : Instr) (s : State) : Chan := (after (exec i s)).chan 0

/-! ### Well-formed commands -/

theorem test_wf_accepts : (Instr.nop at0 0x20).wf = true ∧ (Instr.monRd at0 .uart 4 0).wf = true ∧
    (Instr.flit at0 5 (leBytes 256 0)).wf = true ∧ (Instr.read at0 6 15).wf = true := by decide +kernel

theorem test_wf_refuses :
    (Instr.nop at0 0x15).wf = false ∧ (Instr.commandComplete at0 0x81 0).wf = false ∧ (Instr.rampUp at0 16).wf = false ∧
    (Instr.coreLoad at0 5).wf = false ∧ (Instr.scRun at0 (.core 0) 4).wf = false ∧ (Instr.cicEoi at0 .host 6).wf = false ∧
    (Instr.launch at0 8).wf = false ∧ (Instr.gbClr at0 .host 8).wf = false ∧ (Instr.flit at0 6 (leBytes 256 0)).wf = false ∧
    (Instr.flit at0 0 (leBytes 255 0)).wf = false ∧ (Instr.read at0 7 0).wf = false ∧ (Instr.read at0 0 16).wf = false ∧
    (Instr.lapStart at0 3).wf = false ∧ (Instr.ackTimeout at0 64).wf = false ∧ (Instr.tokenWrite at0 .host 256 0).wf = false ∧
    (Instr.tokenWrite at0 .host 0 (2 ^ 64)).wf = false ∧ (Instr.registerWrite at0 .host windowSize 0).wf = false ∧
    (Instr.scRun at0 (.core 5) 0).wf = false ∧ (Instr.scRun at0 (.te 8) 0).wf = false ∧ (Instr.hostLinkLost at0 0).wf = false ∧
    (Instr.hostLinkLost at0 7).wf = false ∧ (Instr.hostConfigurationWrite at0 (.mps 64)).wf = false ∧
    (Instr.hostConfigurationWrite at0 (.hdm 4 0 0 1 true false)).wf = false ∧ (Instr.hostConfigurationWrite at0 (.mask 64 true)).wf = false ∧
    (Instr.nop { time := 0, chan := 0, env := [.upset 0 [(36, 1)]] } 0).wf = false ∧
    (Instr.nop { time := 0, chan := 0, env := [.coreUpset 5 0 0 true] } 0).wf = false ∧
    (Instr.nop { time := 0, chan := 0, env := [.ivLanes 6 0] } 0).wf = false ∧
    (Instr.monRd at0 .uart 5 0).wf = false ∧ (Instr.monLog at0 .uart 0 0 65).wf = false ∧ (Instr.svcReg at0 .uart 0 33).wf = false := by
  decide +kernel

/-- The queues that a command may name are those that the machine has. -/
theorem test_engines_agree : ∀ q : Fin 256, isEngine q.val = qidOk q.val := by decide +kernel
theorem test_queues_agree : ∀ q : Fin 256, isQueue q.val = true ↔ q.val ∈ allQueues ∨ q.val = 0x80 := by decide +kernel

/-- No word spells a command. -/
theorem test_no_words : decodeTableWord 64 0x20 = none ∧ State.reset.withFetchWord 64 0x20 = State.reset := ⟨rfl, rfl⟩

/-! ### The step and reset -/

theorem test_idle : (match step State.reset with | .next s => s.pending | _ => [.nop at0 0]) = [] := by decide +kernel
theorem test_step_takes_the_front :
    (match step { live with pending := [.tokenWrite at0 .homeroom 5 77, .nop at0 0] } with
      | .next s => (s.pending, (s.chan 0).tok 5) | _ => ([], 0)) = ([.nop at0 0], 77) := by decide +kernel
theorem witness_TheQueueIsLeftToTheStep : State.reset.pending = [] ∧ exec (.nop at0 0) live ≠ .refused (.notModelled "") := by
  constructor
  · rfl
  · intro h; cases h

/-! ### Witnesses: memory and plain registers -/

theorem live_base : live.baseLive at0 := by simp only [State.baseLive]; decide +kernel
theorem live_core : live.coreLive at0 := by simp only [State.coreLive]; decide +kernel
theorem live_fab : live.fabLive at0 := by simp only [State.fabLive, State.homeLive]; decide +kernel

/-- A day after reset. -/
def aDay : At := stamp (24 * 3600 * tSec)

/-- Sound codewords at the first and the last place of the HBM's pass, before and after they are due, and one and two bad symbols. -/
theorem witness_EraserCorrectsMemory :
    live.baseLive at0 ∧ (live.here at0).flawsIn 0 32 = [] ∧ (live.here at0).eraseDue false = true ∧
    (live.here at0).eraseDue true = true ∧
    (let s := on (fun c => c.sf HBM_ERASE_STAT.POS (hbmSize / 32 - 1))
     s.baseLive aDay ∧ (s.here aDay).gf HBM_ERASE_STAT.POS * 32 + 32 = hbmSize ∧ (s.here aDay).flawsIn (hbmSize - 32) 32 = [] ∧
     (s.here aDay).eraseDue false = true ∧ (s.here at0).eraseDue false = false) ∧
    ((on (fun c => c.sf SP_ERASE_STAT.POS (spBase / 32 + 1))).here at0).eraseDue true = false ∧
    max spBase ((live.here at0).gf SP_ERASE_STAT.POS * 32) = spBase ∧ (live.here at0).flawsIn spBase 32 = [] ∧
    (let s := on (fun c => c.withFlaws [(0, [(35, 1)])])
     s.baseLive at0 ∧ (s.here at0).flawsIn 0 32 = [(0, [(35, 1)])] ∧ tget? 0 (terase 0 (s.here at0).flaws) = none ∧
     rsDecode ((s.here at0).codeword 0 [(35, 1)]) = .one 35 1) ∧
    (let s := on (fun c => c.withFlaws [(0, [(0, 1), (1, 1)])])
     (s.here at0).flawsIn 0 32 = [(0, [(0, 1), (1, 1)])] ∧ rsDecode ((s.here at0).codeword 0 [(0, 1), (1, 1)]) = .bad) ∧
    live.writable at0 .homeroom HBM_ECC_CTL.off 1 ∧ live.writable at0 .host SP_ECC_CTL.off 1 := by
  simp only [State.baseLive, State.writable, State.mayWrite]; decide +kernel

theorem test_eraser_corrects : let c := run (.eraserRead at0 false) (on (fun c => c.withFlaws [(0, [(35, 1)])]))
    c.gf HBM_ECC_CORR.COUNT = 1 ∧ c.flaws = [] ∧ c.gf HBM_ERASE_STAT.POS = 1 := by decide +kernel
theorem test_eraser_uncorrectable : let c := run (.eraserRead at0 false) (on (fun c => c.withFlaws [(0, [(0, 1), (1, 1)])]))
    c.gf HBM_IRQ.UNCORR = 1 ∧ c.cstate = csFENCED := by decide +kernel

/-- A window of channel `n` open over HBM from address 0. -/
def sWindow : State :=
  let d : Hdm := { base := 0, size := 2 ^ 36, ways := 1, commit := true, lock := false }
  live.onHpd (fun h => ((h.sf HP_LINK.CXL 1).withCxlMem true).withHdm [(0, d), (3, d)])

/-- The last bytes of the window of c3, in reach and with the die link DOWN, and one byte past the end of a window that is moved to the end of the HBM. -/
theorem witness_HostWindowReachesMemory :
    (sWindow.enter at0).hpd.good = true ∧ (sWindow.enter at0).hpd.winOn 3 = true ∧
    inMem (2 ^ 36 - 64) 64 = true ∧ ((sWindow.enter at0).chan 3).winReach = true ∧
    (((sWindow.onChan 3 (fun c => c.sf UC_STAT.STATE 0)).enter at0).chan 3).winReach = false ∧
    ((sWindow.enter at0).chan 3).flawsIn (2 ^ 36 - 64) 64 = [] ∧
    (let s := sWindow.onChan 3 (fun c => c.sf HPC_WIN.BASE (0x60_0000_0000 / 2 ^ 29))
     (s.enter at0).hpd.winOn 3 = true ∧ inMem (((s.enter at0).chan 3).gf HPC_WIN.BASE * 2 ^ 29 + 0) 64 = false) := by decide +kernel

theorem test_window_write :
    ((after (exec (.hostWindowWrite at0 (3 * 2 ^ 36 + 64) [1, 2]) sWindow)).chan 3).peek 64 2 = [1, 2] := by
  decide +kernel

/-- A plain register for every kind of agent; the keys of the three registers shown bit by bit; tokens and the E2 mode. -/
theorem witness_RegistersTakeWrites :
    (∀ off ∈ [HR_IDLE_DELAY.off, HPC_WIN.off, Q_WAIT_LIMIT.off 0x20], (chanDesc off).isSome = true ∧ actsOnWrite off = false ∧
      (precReg off && (live.here at0).claimed off) = false ∧ live.writable at0 .host off (2 ^ 64 - 1) ∧
      live.writable at0 .monitor off 0) ∧
    live.writable at0 (.te 7) (Q_WAIT_LIMIT.off 0x20) 9 ∧ live.writable at0 (.core 4) (Q_WAIT_LIMIT.off 0x20) 9 ∧
    live.writable at0 .homeroom (CIC_TOKSRC.off 15) (2 ^ 64 - 1) ∧ live.writable at0 .homeroom CH_ID.off (2 ^ 64 - 1) ∧
    live.writable at0 .homeroom HBM_IRQ.off (2 ^ 64 - 1) ∧ live.writable at0 (.core 4) (CH_TOK.off 255) (2 ^ 64 - 1) ∧
    live.writable at0 .host CH_TOK_INC.off (0xFFFF0000 + 255) ∧ live.writable at0 .monitor (CH_TOK.off 0) 7 ∧
    live.writable at0 (.te 7) CH_E2_MODE.off 1 ∧ (live.here at0).e2Quiet = true ∧ bits 1 0 1 ≠ (live.here at0).gf CH_E2_MODE.ENABLE := by
  simp only [State.writable, State.mayWrite]; and_intros <;> decide +kernel

theorem test_token_write_and_inc :
    (run (.chTokInc at0 .host (3 * 2 ^ 16 + 9)) (on (fun c => c.wr (CH_TOK.off 9) (2 ^ 32 - 1)))).tok 9 = 2 := by decide +kernel
theorem test_w1c : (run (.registerWrite at0 .homeroom HBM_IRQ.off 5) (on (fun c => c.wr HBM_IRQ.off 7))).rd HBM_IRQ.off = 2 := by
  decide +kernel

theorem witness_CountersClearAndRecordsCopy :
    counterRanges (ME_CNT_CTL.off 15) ≠ [] ∧ live.writable at0 .homeroom (ME_CNT_CTL.off 15) 1 ∧
    live.writableHpd at0 .host HP_CNT_CTL.off 1 ∧ live.writableHpd at0 .monitor MG_CNT_CTL.off 1 ∧
    live.writable at0 .host HR_LOG_IDX.off (2 ^ 32 - 1) ∧ live.writableHpd at0 .host MG_LOG_IDX.off (2 ^ 32) := by
  simp only [State.writable, State.mayWrite, State.writableHpd, State.mayWriteHpd]; decide +kernel

theorem test_counter_clear : (run (.counterClear at0 .homeroom (ME_CNT_CTL.off 3))
    (on (fun c => (c.sf (ME_CNT_ROWS.COUNT 3) 9).sf (ME_CNT_ROWS.COUNT 4) 8))).gf (ME_CNT_ROWS.COUNT 3) = 0 := by decide +kernel

theorem witness_ReportCardIsClearedAndCopied :
    live.writable at0 .homeroom RPT_CLR.off (2 ^ 16 + 4095) ∧ live.writable at0 .homeroom RPT_CLR.off (2 ^ 17) ∧
    (live.here at0).cyc = [] ∧ live.writable at0 .homeroom RPT_SNAP_CTL.off (2 ^ 16 + 4095) := by
  simp only [State.writable, State.mayWrite]; decide +kernel

/-! ### Witnesses: engine queues -/

/-- A command of `n` bytes from the values of its fields, each at its byte offset. -/
def cmd (n : Nat) (fs : List (Nat × Nat)) : List Byte := leBytes n (fs.foldl (fun v f => v + f.2 * 2 ^ (8 * f.1)) 0)

/-- Channel 0 with queue `q` bound to 64 slots at 0x10000. -/
def bound (q : Nat) (c : Chan) : Chan := (c.sf (Q_BASE.ADDR q) 0x400).sf (Q_DEPTH.DEPTH q) 64

/-- The same with one command appended. -/
def queued (q : Nat) (raw : List Byte) (c : Chan) : Chan := (bound q c).append q raw none

/-- The head of a queue. -/
def hd (c : Chan) (q : Nat) : Head :=
  match (c.head q).1 with
  | .cmd h => h
  | _ => { inSeg := false, slot := 0, ent := 0, raw := [], redo := none, launch := none }

def isCmd : HeadRes → Bool
  | .cmd _ => true
  | _ => false

/-- `Chan.due` of the head, and `Chan.startable`, as tests. -/
def dueB (c : Chan) (q op : Nat) : Bool :=
  c.queueOn q && decide ((c.queue q).st = .running) && !(c.queue q).halting && !(c.queue q).fenced && isCmd (c.head q).1 &&
  decide (opcodeOf (hd c q).raw = op) && decide ((c.head q).2.unsat (c.headWaits q (hd c q).raw) = none) &&
  (!serialOf (hd c q).raw || (c.queue q).serialOk (hd c q)) && decide ((c.queue q).busy < windowOf q)
def startsB (c : Chan) (q op : Nat) (spec : CmdSpec) : Bool :=
  let d := ((c.atHead q).checked q spec (hd c q).raw).2
  dueB c q op && decide (((c.atHead q).checked q spec (hd c q).raw).1 = none) && (spec.park d q).isNone &&
  spec.credit d q (c.queue q).seg (hd c q).raw

theorem due_of_test {c : Chan} {q op : Nat} (t : dueB c q op = true) : c.due q op (hd c q) := by
  simp only [dueB, Bool.and_eq_true, Bool.or_eq_true, decide_eq_true_eq, Bool.not_eq_true'] at t
  obtain ⟨⟨⟨⟨⟨⟨⟨⟨h1, h2⟩, h3⟩, h4⟩, h5⟩, h6⟩, h7⟩, h8⟩, h9⟩ := t
  refine ⟨h1, h2, h3, h4, ?_, h6, h7, fun hs => ?_, h9⟩
  · unfold hd
    cases e : (c.head q).1 <;> simp_all [isCmd]
  · rcases h8 with h | h
    · rw [h] at hs; cases hs
    · exact h

theorem startable_of_test {c : Chan} {q op : Nat} {spec : CmdSpec} (t : startsB c q op spec = true) :
    c.startable q op spec (hd c q) := by
  simp only [startsB, Bool.and_eq_true, decide_eq_true_eq, Option.isNone_iff_eq_none] at t
  exact ⟨due_of_test t.1.1.1, t.1.1.2, t.1.2, t.2⟩

/-- A lesson segment of one slot at 0x20000 with slot 0's bases all zero. -/
def seg0 : Seg :=
  { ent := 0, slot := 0, addr := 0x20000, count := 1, ss := 0, phase := 0, mb := 0, ver := 0, twin := 0, tbias := 0,
    bases := [], launch := none, callSigs := [], callEvt := false, callTag := 0, pos := 0, ret := false }

def rtk0 (n : Nat) : RtkMark := { region := n, inSeg := false, replay := 1, mark := 0 }

/-- A block table of one block of 64 elements at 0x50000 and its parameter record at 0x60000. -/
def withTable (c : Chan) : Chan :=
  (c.poke 0x50000 (cmd 128 [(0, 0x4254), (2, 1), (64, 0x20000), (72, 0x30000), (96, 64)])).poke 0x60000
    (cmd 320 [(2, 1), (76, 1)])

/-- The command on queue `q` of a live channel 0 changed by `f`, and the engine's specification. -/
def startTests : List (Nat × Nat × CmdSpec × List Byte × (Chan → Chan)) :=
  [(0x00, 0x00, specNop, cmd 64 [(20, 3), (5, 255)], id), (0x80, 0x00, specNop, cmd 64 [(1, 2)], id),
   (0x20, 0x01, specEvent, cmd 64 [(0, 1), (24, 0x8000), (26, 2)], id),
   (0x1F, 0x02, specCall, cmd 256 [(0, 2), (1, 1), (21, 8), (24, 0x20000), (32, 4096), (34, 7), (35, 1), (40, 3)],
     fun c => c.sf (SS_STAT.STATE 7) slotACTIVE),
   (0x14, 0x03, specRet, [], fun c => (c.poke 0x20000 (cmd 64 [(0, 3)])).onQueue 0x14 (fun x => { x with st := .running, seg := some seg0 })),
   (0x00, 0x04, specRetakeBegin, cmd 64 [(0, 4), (24, 1), (25, 15)],
     fun c => (c.sf (CH_RTK_CTL.MEMBERS 15) 1).sf (CH_RTK_CTL.LADDER 15) 1),
   (0x1F, 0x06, specQctl, cmd 64 [(0, 6), (24, 0x20), (25, 2)], bound 0x20)]

def computeTests : List (Nat × Nat × CmdSpec × List Byte × (Chan → Chan)) :=
  [(0x0F, 0x10, specLoadw, cmd 64 [(0, 0x10), (24, 0x100000), (32, 256), (36, 2), (38, 4), (40, 0x140000)], id),
   (0x0F, 0x11, specPass, cmd 64 [(0, 0x11), (24, 0x100000), (32, 256), (36, 2048), (41, 3)], id),
   (0x00, 0x12, specMeDrain, cmd 64 [(0, 0x12), (24, 0x100000), (32, 256), (36, 1), (38, 2047), (41, 0x0C)], id),
   (0x00, 0x13, specAccClear, cmd 64 [(0, 0x13), (24, 2047), (26, 1)], id),
   (0x00, 0x14, specAccExport, cmd 64 [(0, 0x14), (24, 0x100000), (32, 2048), (36, 2048)], id),
   (0x13, 0x30, specVeOp, cmd 64 [(0, 0x30), (24, 4), (26, 0x0C), (27, 0x0C), (28, 0x10), (29, 0x0C), (32, 0x100000),
     (40, 0x110000), (48, 0x120000), (56, 0x130000)], id),
   (0x10, 0x31, specVeFunc, cmd 64 [(0, 0x31), (24, 0x0C), (25, 0x10), (26, 8), (27, 8), (32, 0x100000), (40, 0x110000)], id),
   (0x10, 0x32, specCompress, cmd 64 [(0, 0x32), (26, 0x0C), (32, 0x100000), (40, 0x110000), (48, 0x120000), (56, 0x130000)], id),
   (0x13, 0x33, specExpand, cmd 64 [(0, 0x33), (26, 8), (32, 0x100000), (40, 0x110000), (48, 0x120000)], id),
   (0x13, 0x34, specSetvl, cmd 64 [(0, 0x34), (24, 0xFFFF)], id),
   (0x14, 0x40, specUuUpdate, cmd 64 [(0, 0x40), (24, 0x50000), (32, 0x40000), (48, 0x60000)], withTable),
   (0x14, 0x41, specDerive, cmd 64 [(0, 0x41), (24, 0x100000), (32, 0x110000), (41, 2), (42, 3), (48, 64)], id)]

def transferTests : List (Nat × Nat × CmdSpec × List Byte × (Chan → Chan)) :=
  [(0x18, 0x20, specCopy, cmd 64 [(0, 0x20), (24, 0x100000), (32, fabAddr 5 0x200000), (40, 64), (44, 2), (48, 64), (52, 64)], id),
   (0x1F, 0x21, specDeliver, cmd 64 [(0, 0x21), (24, 0x100000), (32, fabAddr 0x3FFFF 0x200000), (40, 256), (44, 7), (48, 0x110000)], id),
   (0x18, 0x22, specAtomic, cmd 64 [(0, 0x22), (24, fabAddr 5 0x3FFFFFFFF8), (48, 0x110000), (56, 2)], id),
   (0x18, 0x23, specFence, cmd 64 [(0, 0x23)], id),
   (0x18, 0x24, specRegWr, cmd 64 [(0, 0x24), (24, CH_TOK.off 255), (32, 7)], id),
   (0x18, 0x25, specRegRd, cmd 64 [(0, 0x25), (24, CH_ID.off), (32, 2 ^ 63 + 2 ^ 52 - 8)], id),
   (0x1F, 0x26, specRdma, cmd 64 [(0, 0x26), (24, 63), (25, 2), (32, 0x110000), (48, 4096)],
     fun c => (c.sf (EN_QP_A.STATE 63) qpRTS).sf (EN_QP_A.OWNER 63) 7),
   (0x20, 0x50, specCeCmd, cmd 64 [(0, 0x50), (24, 0xFFFF), (32, 4095), (34, 2), (35, 2), (36, 32), (40, 0x100000), (48, 0x110000)],
     fun c => c.wr (CE_GRP_CFG.off 7) (1 + 2 * 2 + 7 * 2 ^ 8 + 0xFFFF * 2 ^ 24)),
   (0x20, 0x51, specCeCmd, cmd 64 [(0, 0x51), (24, 1), (36, 128), (40, 0x100000), (48, 0x110000)],
     fun c => c.wr (CE_GRP_CFG.off 0) (1 + 255 * 2 ^ 8 + 255 * 2 ^ 16 + 2 ^ 24)),
   (0x20, 0x52, specCeCmd, cmd 64 [(0, 0x52), (24, 1), (35, 2), (36, 32), (40, 0x100000), (48, 0x110000)],
     fun c => c.wr (CE_GRP_CFG.off 0) (1 + 3 * 2 ^ 8 + 2 ^ 24)),
   (0x80, 0x60, specForward, cmd 256 [(0, 0x60), (1, 1), (21, 8), (24, 0x20), (64, 1)], id),
   (0x80, 0x61, specHqWrite, cmd 256 [(0, 0x61), (1, 1), (21, 24), (24, 0x100000), (32, 192)], id),
   (0x80, 0x62, specHqDma, cmd 64 [(0, 0x62), (24, 0x100000), (32, 2 ^ 63 + 4096), (40, 2 ^ 20), (44, 0)], id),
   (0x80, 0x62, specHqDma, cmd 64 [(0, 0x62), (24, 2 ^ 63 + 4096), (32, 0x100000), (40, 1), (44, 1)], id),
   (0x80, 0x63, specHqResult, cmd 64 [(0, 0x63), (24, 0x100000), (32, 0x3FFF000000), (40, 16777215)], id),
   (0x80, 0x64, specHqFlag, cmd 64 [(0, 0x64), (24, 2 ^ 63 + 8), (32, 9)], id)]

def placed (e : Nat × Nat × CmdSpec × List Byte × (Chan → Chan)) : State :=
  on (fun c => if e.2.2.2.1 = [] then e.2.2.2.2 c else queued e.1 e.2.2.2.1 (e.2.2.2.2 c))

def startsHere (e : Nat × Nat × CmdSpec × List Byte × (Chan → Chan)) : Bool :=
  ((placed e).enter at0).hpd.good && startsB ((placed e).here at0) e.1 e.2.1 e.2.2.1

theorem starts_common : startTests.all startsHere = true := by decide +kernel
theorem starts_compute : computeTests.all startsHere = true := by decide +kernel
theorem starts_transfer : transferTests.all startsHere = true := by decide +kernel

/-- Every command of a queue has a state in which it starts. -/
theorem witness_QueuedCommandsStart : ∀ e ∈ startTests ++ computeTests ++ transferTests,
    ((placed e).enter at0).hpd.good = true ∧ ((placed e).here at0).startable e.1 e.2.1 e.2.2.1 (hd ((placed e).here at0) e.1) := by
  intro e he
  have h : startsHere e = true := by
    simp only [List.mem_append] at he
    rcases he with (he | he) | he
    · exact List.all_eq_true.mp starts_common e he
    · exact List.all_eq_true.mp starts_compute e he
    · exact List.all_eq_true.mp starts_transfer e he
  simp only [startsHere, Bool.and_eq_true] at h
  exact ⟨h.1, startable_of_test h.2⟩

/-! ### Witnesses: failures, completion and queue actions -/

def failTests : List (Nat × Nat × CmdSpec × List Byte × Nat × Nat) :=
  [(0x18, 0x20, specCopy, cmd 64 [(0, 0x20), (44, 1)], haltFIELD, 40),
   (0x1F, 0x20, specCopy, cmd 64 [(0, 0x20), (24, 2 ^ 40), (40, 1), (44, 1)], haltADDR, 24),
   (0x0F, 0x11, specPass, cmd 64 [(0, 0x11), (24, 0x100000)], haltFIELD, 36),
   (0x10, 0x30, specVeOp, cmd 64 [(0, 0x30), (24, 4), (26, 0x0C), (27, 0x0C), (28, 0x10), (29, 0x0C), (32, 0xC000000000000000),
     (40, 0x110000), (48, 0x120000), (56, 0x130000)], haltSTATE, 1),
   (0x14, 0x40, specUuUpdate, cmd 64 [(0, 0x40), (24, 0x50000), (32, 0x40000), (48, 0x60000)], haltFIELD, 0x1002),
   (0x20, 0x50, specCeCmd, cmd 64 [(0, 0x50), (24, 1), (36, 32), (40, 0x100000), (48, 0x110000)], haltFIELD, 24),
   (0x80, 0x62, specHqDma, cmd 64 [(0, 0x62), (24, 0x100000), (32, 2 ^ 63 + 4096)], haltFIELD, 40)]

def failsHere (e : Nat × Nat × CmdSpec × List Byte × Nat × Nat) : Bool :=
  let s := on (queued e.1 e.2.2.2.1)
  (s.enter at0).hpd.good && dueB (s.here at0) e.1 e.2.1 &&
    decide ((((s.here at0).atHead e.1).checked e.1 e.2.2.1 (hd (s.here at0) e.1).raw).1 = some e.2.2.2.2)

theorem fails_all : failTests.all failsHere = true := by decide +kernel

/-- A head that waits for counter 255 to reach 1, since time 0. -/
def sWaits : State := after (exec (.nop at0 0x20) (on (fun c =>
  queued 0x20 (cmd 64 [(20, 2), (5, 255), (12, 1)]) (c.sf (Q_WAIT_LIMIT.LIMIT_US 0x20) 5))))

/-- A head on queue 0x18 of an opcode that transfer engines do not have. -/
def sOdd : State := on (queued 0x18 (cmd 64 [(0, 0x10)]))

theorem odd_due : dueB (sOdd.here at0) 0x18 0x10 = true := by decide +kernel

/-- Each command meets its check, one on every kind of queue; one has no opcode of its queue; and a head is found whose wait limit has
just passed. -/
theorem witness_FailuresHaltAQueue :
    (∀ e ∈ failTests, let s := on (queued e.1 e.2.2.2.1)
      (s.enter at0).hpd.good = true ∧ (s.here at0).due e.1 e.2.1 (hd (s.here at0) e.1) ∧
      (((s.here at0).atHead e.1).checked e.1 e.2.2.1 (hd (s.here at0) e.1).raw).1 = some e.2.2.2.2) ∧
    ((sOdd.here at0).due 0x18 0x10 (hd (sOdd.here at0) 0x18) ∧ opDefined 0x10 0x18 = false) ∧
    (let a := stamp (5 * tUs)
     let c := sWaits.here a
     (sWaits.enter a).hpd.good = true ∧ c.queueOn 0x20 = true ∧ (c.queue 0x20).st = .running ∧ (c.queue 0x20).halting = false ∧
     (c.queue 0x20).wait = some (0, 255, 0, [(255, 1)]) ∧ c.gf (Q_WAIT_LIMIT.LIMIT_US 0x20) = 5 ∧ 0 + 5 * tUs ≤ c.now ∧
     (c.head 0x20).1 = .cmd (hd c 0x20) ∧ (hd c 0x20).key = 0 ∧
     (c.head 0x20).2.unsat (waitsOf (c.queue 0x20).seg (hd c 0x20).raw) = some 255) := by
  refine ⟨fun e he => ?_, ⟨due_of_test odd_due, rfl⟩, ?_⟩
  · have h := List.all_eq_true.mp fails_all e he
    simp only [failsHere, Bool.and_eq_true, decide_eq_true_eq] at h
    exact ⟨h.1.1, due_of_test h.1.2, h.2⟩
  · decide +kernel

theorem test_copy_zero_length_halts : let c := run (.copy at0 0x18) (on (queued 0x18 (cmd 64 [(0, 0x20), (44, 1)])))
    (c.queue 0x18).st = .halted ∧ c.gf (Q_ERR.CODE 0x18) = 3 ∧ c.gf (Q_ERR.DETAIL 0x18) = 40 := by decide +kernel

/-- A NOP with two signals on one counter, and a COPY of which nothing is outstanding. -/
def sigNop : List Byte := cmd 64 [(20, 12), (6, 255), (7, 255), (16, 0xFFFF), (18, 1)]
def started0 (raw : List Byte) : Started :=
  { seq := 0, raw := raw, slot := 0, inSeg := false, ent := 0, sigs := sigsOf none raw, logged := false, st := .running, ready := 0,
    out := 0, pos := 0 }
/-- Queue `q` with one command, started as its number 0. -/
def startedQ (q : Nat) (raw : List Byte) (c : Chan) : Chan :=
  (queued q raw c).onQueue q (fun x => { x with started := [started0 raw], ents := markStarted 0 x.ents, sseq := 1 })
def doneCopy : List Byte := cmd 64 [(0, 0x20), (20, 4), (6, 255), (16, 1)]
def sDone : State := on (startedQ 0x1F doneCopy)

/-- A FENCE on queue 0x18 started as its command 1, with a remote write of command `n` outstanding. -/
def sFence (n : Nat) : State :=
  on (fun c => (queued 0x18 (cmd 64 [(0, 0x23)]) c).onQueue 0x18 (fun x =>
    { x with started := [{ started0 (cmd 64 [(0, 0x23)]) with seq := 1 }] }) |>.withOps [{ op0 with kind := 1, q := 0x18, cmd := n }])

/-- A NOP on the last matrix engine, a COPY of which nothing is outstanding, and a FENCE with an earlier write left and with a later one. -/
theorem witness_CompletionAppliesSignals :
    (let c := (on (queued 0x0F sigNop)).here at0
     c.startable 0x0F 0x00 specNop (hd c 0x0F)) ∧
    (let c := (on (queued 0x0F sigNop)).here at0
     ((on (queued 0x0F sigNop)).enter at0).hpd.good = true ∧ (c.queue 0x0F).started = [] ∧
     (c.queue 0x0F).seg = none ∧ (c.queue 0x0F).rtk = none ∧ evtOf (hd c 0x0F).raw = false ∧ (c.head 0x0F).2 = c) ∧
    (let c := sDone.here at0
     (sDone.enter at0).hpd.good = true ∧ c.queueOn 0x1F = true ∧ isMe 0x1F = false ∧ isVe 0x1F = false ∧ isUu 0x1F = false ∧
     (let h := started0 doneCopy
      (c.queue 0x1F).started = [h] ∧ c.cmdMayEnd 0x1F h = true ∧ h.inSeg = false ∧ h.logged = false ∧ evtOf h.raw = false ∧
       (∀ e ∈ h.sigs, e.1 < 256)) ∧ (c.queue 0x1F).rtk = none) ∧
    (let c (n : Nat) := (sFence n).here at0
     let h : Started := { started0 (cmd 64 [(0, 0x23)]) with seq := 1 }
     (∀ n, n < 2 → ((sFence n).enter at0).hpd.good = true ∧ (c n).queueOn 0x18 = true ∧ ((c n).queue 0x18).started[0]? = some h) ∧
     isTe 0x18 = true ∧ opcodeOf h.raw = 0x23 ∧ ((c 0).ops ++ (c 0).opq).any (fun o => o.writes && o.q == 0x18 && o.cmd < h.seq) = true ∧
     (∀ o ∈ (c 1).ops ++ (c 1).opq, o.writes = true → o.q = 0x18 → h.seq ≤ o.cmd) ∧ h.st = .running ∧ h.out = 0 ∧
     h.ready ≤ (c 1).now ∧ (c 1).phased 0x18 h.seq = false) := by
  refine ⟨startable_of_test ?_, ?_, ?_, ?_⟩ <;> decide +kernel

theorem test_signals_add : (run (.nop at0 0x0F) (on (queued 0x0F sigNop))).tok 255 = 0x10000 := by decide +kernel

/-- A queue that is idle, that runs with a command started, that is halted with an entry left, and one that is halted empty. -/
def sHalted : State := after (exec (.qHalt at0 .homeroom 0x1F) (on (queued 0x1F sigNop)))

theorem witness_QueueActionsAct :
    queueId 0x00 = true ∧ queueId 0x1F = true ∧ queueId 0x80 = true ∧
    (live.writable at0 .host (Q_CTL.off 0x80) 2 ∧ live.writable at0 .host (Q_CTL.off 0x80) 4 ∧
      ((live.here at0).queue 0x80).st = .idle) ∧
    (let s := on (queued 0x1F sigNop)
     s.writable at0 .host (Q_CTL.off 0x1F) 2 ∧ ((s.here at0).queue 0x1F).st = .running ∧ ((s.here at0).queue 0x1F).busy = 0) ∧
    (let x := (sDone.here at0).queue 0x1F
     sDone.writable at0 .host (Q_CTL.off 0x1F) 2 ∧ sDone.writable at0 .host (Q_CTL.off 0x1F) 4 ∧ x.st = .running ∧ x.busy ≠ 0 ∧
     x.seg = none) ∧
    (let s := on (fun c => (startedQ 0x1F doneCopy c).onQueue 0x1F (fun x => { x with seg := some seg0 }))
     let x := (s.here at0).queue 0x1F
     s.writable at0 .host (Q_CTL.off 0x1F) 2 ∧ x.st = .running ∧ x.busy ≠ 0 ∧ x.seg = some seg0 ∧ seg0.pos < seg0.count) ∧
    (let x := (sHalted.here at0).queue 0x1F
     sHalted.writable at0 (.core 4) (Q_CTL.off 0x1F) 1 ∧ sHalted.writable at0 (.core 4) (Q_CTL.off 0x1F) 8 ∧
     sHalted.writable at0 (.core 4) (Q_CTL.off 0x1F) 0x11 ∧ x.st = .halted ∧ x.fenced = false ∧ x.seg = none ∧ x.halting = false ∧
     x.started = [] ∧ (x.next?.map (·.seq)) = some 0) := by
  simp only [State.writable, State.mayWrite]; and_intros <;> decide +kernel

theorem test_skip : let c := run (.qSkip at0 .homeroom 0x1F) sHalted
    (c.queue 0x1F).st = .idle ∧ (c.queue 0x1F).ents = [] ∧ c.tok 255 = 0 := by decide +kernel
theorem test_flush : ((run (.qFlush at0 .homeroom 0x1F) sHalted).queue 0x1F).ents = [] := by decide +kernel

/-- The least and the largest ring, the last one at the end of the HBM; a producer waits at an idle queue. -/
theorem witness_QueuesAreBoundAndFilled :
    (let s := on (fun c => c.sf (Q_BASE.ADDR 0x20) ((hbmSize - 64 * 4096) / 64))
     queueId 0x20 = true ∧ s.writable at0 .host (Q_DEPTH.off 0x20) 4096 ∧ bits 4096 0 13 = 4096 ∧ (s.here at0).qDepth 0x20 = 0 ∧
     inMem ((s.here at0).qBase 0x20) (64 * 4096) = true ∧ s.writable at0 .host (Q_DEPTH.off 0x20) 4) ∧
    (let s := on (bound 0x80)
     s.writable at0 .monitor (Q_DEPTH.off 0x80) 0 ∧ ((s.here at0).queue 0x80).st = .idle ∧ (s.here at0).qFill 0x80 = 0) ∧
    (let s := on (fun c => (bound 0x14 c).withWaiting [⟨0x14, sigNop, none, none, none⟩])
     s.coreLive at0 ∧ (s.here at0).waiting[0]? = some ⟨0x14, sigNop, none, none, none⟩ ∧
     (s.here at0).canAppend 0x14 sigNop = true ∧ slotsOf sigNop = 1 ∧ (s.here at0).flaws = []) := by
  simp only [State.writable, State.mayWrite, State.coreLive]; and_intros <;> decide +kernel

theorem test_bind : (run (.qDepthWrite at0 .host 0x20 6) live).qDepth 0x20 = 0 ∧ (run (.qDepthWrite at0 .host 0x20 8) live).qDepth 0x20 = 8 := by
  decide +kernel

/-! ### Witnesses: retake regions and matrix engines -/

/-- Queue 0 inside region 15 with RETAKE_END at its head; and after its arrival. -/
def sRetake : State := after (exec (.retakeBegin at0 0) (on (fun c =>
  (queued 0 (cmd 64 [(0, 4), (25, 15)]) (c.sf (CH_RTK_CTL.MEMBERS 15) 1)).append 0 (cmd 64 [(0, 5), (25, 15)]) none)))
def sArrived : State := after (exec (.retakeEnd at0 0) sRetake)

theorem witness_RetakeRegionsResolve :
    ((sRetake.enter at0).hpd.good = true ∧ (sRetake.here at0).due 0 0x05 (hd (sRetake.here at0) 0) ∧
     (((sRetake.here at0).atHead 0).checked 0 specRetakeEnd (hd (sRetake.here at0) 0).raw).1 = none ∧
     ((sRetake.here at0).queue 0).rtk = some { region := 15, inSeg := false, replay := 1, mark := 0 } ∧
     ((sRetake.here at0).queue 0).arrived = false ∧ ((sRetake.here at0).queue 0).started = []) ∧
    (let c := sArrived.here at0
     sArrived.coreLive at0 ∧ c.flag (CH_RTK_STAT.OPEN 15) = true ∧ (c.retake 15).aborting = false ∧ c.members 15 = [0] ∧
     c.gf (CH_RTK_STAT.ARRIVED 15) = c.gf (CH_RTK_CTL.MEMBERS 15) ∧ (∀ k ∈ c.members 15, (c.queue k).st = .running) ∧
     c.flag (CH_RTK_STAT.OVF 15) = false) ∧
    (let c := (sArrived.onChan 0 (fun c => (c.sf (CH_RTK_STAT.OVF 15) 1).sf (CH_RTK_STAT.ATTEMPT 15) 1)).here at0
     c.flag (CH_RTK_STAT.OVF 15) = true ∧ c.gf (CH_RTK_STAT.ATTEMPT 15) < 2 ∧ c.members 15 ≠ []) ∧
    (let s := sArrived.onChan 0 (fun c => (c.sf (CH_RTK_STAT.OVF 15) 1).sf (CH_RTK_STAT.ATTEMPT 15) 2)
     let c := s.here at0
     s.coreLive at0 ∧ c.flag (CH_RTK_STAT.OVF 15) = true ∧ 2 ≤ c.gf (CH_RTK_STAT.ATTEMPT 15) ∧ c.flag (CH_RTK_STAT.OPEN 15) = true ∧
     (c.retake 15).aborting = false ∧ c.members 15 = [0] ∧ c.gf (CH_RTK_STAT.ARRIVED 15) = c.gf (CH_RTK_CTL.MEMBERS 15) ∧
     (c.queue 0).st = .running) ∧
    sArrived.writable at0 .homeroom (CH_RTK_CTL.off 15) (setBits ((sArrived.here at0).rd (CH_RTK_CTL.off 15)) 32 1 1) ∧
    (let s := after (exec (.rtkAbort at0 .homeroom 15) sRetake)
     s.coreLive at0 ∧ ((s.here at0).retake 15).aborting = true ∧ ∀ k ∈ (s.here at0).members 15, ((s.here at0).queue k).busy = 0) := by
  refine ⟨⟨?_, due_of_test ?_, ?_⟩, ?_⟩ <;> (try simp only [State.writable, State.mayWrite, State.coreLive]) <;>
    and_intros <;> decide +kernel

theorem test_retake_commits : let c := run (.retakeResolve at0 15) sArrived
    c.flag (CH_RTK_STAT.OPEN 15) = false ∧ c.gf (CH_RTK_STAT.COMMITS 15) = 1 := by decide +kernel

/-- Engine 15 with a load of an FP32 tile begun at cycle 0, 24 cycles later. -/
def fpLoad : List Byte := cmd 64 [(0, 0x10), (24, 0x100000), (32, 32), (36, 0x0C), (37, 4)]
def sLoad : State := after (exec (.meLoadw at0 15) (on (queued 15 fpLoad)))

/-- Engine 15 with a pass of two rows of FP8 left to admit. -/
def pass0 : MePass :=
  { seq := 0, rows := 2, accRow := 2046, fmt := 0, wbuf := 1, init := true, src := 0x100000, stride := 256, scale := 0, tag := 0,
    kk := 256, wfmt := (0, 0), valid := (true, true), started := 0, admitted := 1, inexact := false }
def passCmd : List Byte := cmd 64 [(0, 0x11), (24, 0x100000), (32, 256), (36, 2), (41, 3)]
/-- The row that the pass takes next, in the feeder. -/
def row0 : FeedRow := ⟨0, 1, List.replicate 256 0, []⟩
def sPass (f : Me → Me) : State :=
  on (fun c => (startedQ 15 passCmd c).onMe 15 (fun x => f { x with passes := [pass0], feeder := [row0] }))

theorem witness_load : let a := stamp (8 * 24)
    let c := sLoad.here a
    let x := c.me 15
    let p := loadParm fpLoad
    let h := (c.queue 15).cmd? 0
    sLoad.coreLive a ∧ x.loads = [⟨0, 0, 0, false, 0⟩] ∧ 0 + 24 ≤ c.cyc8 ∧ x.passes = [] ∧ tget? 0 x.lastOn = none ∧
    h.map (·.raw) = some fpLoad ∧ isMx p.fmt = false ∧
    (c.readRows fpLoad ((h.map (·.pos)).getD 0) p.stride p.rowBytes p.memRows).1.isSome = true ∧
    (c.readRows fpLoad ((h.map (·.pos)).getD 0) p.stride p.rowBytes p.memRows).2 = c := by
  simp only [State.coreLive]; and_intros <;> decide +kernel

/-- A ramp up, a ramp down after the last admission, and the grants of function stage 3: to its vector engine, and to an array. -/
theorem witness_LoaderRampsAndStagesMove :
    (let c := (sPass id).here at0
     (sPass id).coreLive at0 ∧ (c.me 15).nextPass = some pass0 ∧ (c.me 15).fed 0 1 = some row0 ∧ (c.me 15).arrayState c.cyc8 = 0 ∧
     (c.me 15).bufLoaded pass0 c.cyc8 = true) ∧
    (let s := on (fun c => c.onMe 15 (fun x => { x with lastAdmit := some 0, array := 1 }))
     let c := s.here (stamp (8 * 511))
     s.coreLive (stamp (8 * 511)) ∧ (c.me 15).lastAdmit = some 0 ∧ (c.me 15).nextPass = none ∧ (c.me 15).arrayState c.cyc8 = 2 ∧
     0 + 511 ≤ c.cyc8) ∧
    (let s := on (fun c => (startedQ 0x13 (cmd 64 [(0, 0x31), (24, 4)]) c).setPhases 0x13
       [{ seq := 0, grants := true, chunks := 1, bytes := 0, lat := 0, start := some 0 }])
     let c := s.here at0
     (c.fs 3).busy ≤ c.cyc8 ∧ c.openCycle c.cyc8 = true ∧
     ((List.range 5).map (fun i => ((c.fs 3).last + 1 + i) % 5)).find? (fun r => c.fsWants 3 r) = some 0) ∧
    (let s := on (fun c => (startedQ 15 (cmd 64 [(0, 0x12), (36, 1), (41, 4)]) c).onMe 15 (fun x =>
       { x with port := [⟨0, 0x12, 0, 1, some 0, 0, [], [], []⟩] }))
     let c := s.here at0
     ((List.range 5).map (fun i => ((c.fs 3).last + 1 + i) % 5)).find? (fun r => c.fsWants 3 r) = some 4) := by
  simp only [State.coreLive]; and_intros <;> decide +kernel

/-- A row arrives at the feeder of a gated array; the last row of a pass, which came before, enters the last row of the accumulators; the last column of the oldest row is accumulated. -/
theorem witness_RowsAreAdmittedAndAccumulated :
    (let s := sPass (fun x => { x with feeder := [] })
     let c := s.here at0
     let x := c.me 15
     s.coreLive at0 ∧ x.arrayState c.cyc8 = 0 ∧ rowAhead x.passes 0 = some (pass0, 1) ∧ x.fed 0 1 = none ∧ x.queueLen (1 % 256) < 16 ∧
     ((c.queue 15).cmd? 0).map (·.raw) = some passCmd ∧
     c.fetchPlace passCmd (0x100000 + 1 * 256) (elemBytes 0 256) = (some (List.replicate 256 0), c) ∧
     c.fetchPlace passCmd (0 + 1 * 0) 0 = (some [], c)) ∧
    (let a := stamp (8 * 32)
     let s := sPass (fun x => { x with array := 1 })
     let c := (s.here a).feedRows 15 0 0
     let x := c.me 15
     s.coreLive a ∧ x.nextPass = some pass0 ∧ x.fed 0 1 = some row0 ∧ x.lastAdmit = none ∧ x.arrayState c.cyc8 = 2 ∧
     x.bufLoaded pass0 c.cyc8 = true ∧ x.rowFree c.cyc8 0 2047 = true ∧ c.openCycle c.cyc8 = true ∧
     ((c.queue 15).cmd? 0).map (·.raw) = some passCmd) ∧
    (let a := stamp (8 * (267 + 255))
     let r : MeRow := ⟨0, 0, 0, [], [], 2 ^ 255 - 1⟩
     let s := sPass (fun x => { x with rows := [r] })
     let x := (s.here a).me 15
     s.coreLive a ∧ x.rows = [r] ∧ x.passes.find? (fun y => y.seq == 0) = some pass0 ∧ bit r.cols 255 = false ∧
     0 + 267 + 255 ≤ (s.here a).cyc8 ∧ pass0.valid.2 = true) := by
  simp only [State.coreLive]; and_intros <;> decide +kernel

/-! ### Witnesses: slots, the timetable, versions and contexts -/

/-- Slot `sl` configured so that a BIND succeeds. -/
def configured (sl : Nat) (c : Chan) : Chan :=
  [(SS_CFG.off sl, 2 ^ 5 + 2 ^ 8 + 2 ^ 32), (SS_FQ.off sl, 0x100000 + 2 ^ 40), (SS_BQ.off sl, 0x100040 + 2 ^ 40),
   (SS_FDOOR_A.off sl 0, 0x101000 + 2 ^ 40), (SS_FDOOR_B.off sl 0, 64), (SS_BDOOR_A.off sl 3, 0x102000 + 2 ^ 40),
   (SS_BDOOR_B.off sl 3, 64), (SS_VS_FLESSON.off sl 0, 0x110000), (SS_VS_BLESSON.off sl 0, 0x110100),
   (SS_STASH.off sl, 0x120000)].foldl (fun c e => c.wr e.1 e.2)
    ((c.poke 0x110000 (cmd 80 [(0, 0x4C53), (2, 1)])).poke 0x110100 (cmd 80 [(0, 0x4C53), (2, 1), (3, 1)]))

def sBound : State := on (fun c => (configured 7 c).sf (SS_STAT.STATE 7) ssBOUND)
def sActive : State := on (fun c => (configured 7 c).sf (SS_STAT.STATE 7) ssACTIVE)

def ent0 : DescEnt := { idx := 0, door := 0, dslot := 0, stamp := 0, taken := false, released := false }
def rec0 : Rec := { i := 0, mb := 0, step := 0, term := 0, vst := 0, ver := 0, stage := 0, off := 1, want := false, pos := 0, bwd := false }
def launch0 : Launch :=
  { id := 0, phase := 1, i := 0, pos := 0, idx := 0, bwd := true, vst := 0, mb := 0, ver := 0, last := true, bases := [] }

/-- An active slot 7 with a published version, changed by `f`. -/
def sSlot (f : Slot → Slot) : State :=
  sActive.onChan 0 (fun c => (c.onSlot 7 f).wr (VS_ENT_A.off 7 0) 1)

theorem witness_SlotActionsAct :
    (let s := on (configured 7)
     s.writable at0 .homeroom (SS_CTL.off 7) 1 ∧ (s.here at0).ssState 7 = ssUNBOUND ∧ (s.here at0).bindCheck 7 = 0 ∧
     (s.here at0).bindImages 7 = (false, s.here at0)) ∧
    (sBound.writable at0 (.core 4) (SS_CTL.off 7) 2 ∧ (sBound.here at0).ssState 7 = ssBOUND ∧
     ((sBound.here at0).gf (SS_CFG.VSTAGES 7) + 1) * (sBound.here at0).vsE 7 ≤ 4) ∧
    (sActive.writable at0 .host (SS_CTL.off 7) 3 ∧ (sActive.here at0).ssState 7 = ssACTIVE ∧ ((sActive.here at0).slot 7).launches = [] ∧
     ((sActive.here at0).slot 7).copies = []) ∧
    (let s := (sSlot (fun x => { x with launches := [launch0] })).onChan 0 (fun c => c.withCalls [(0, { unstarted := 1, unended := 1 })])
     s.writable at0 .host (SS_CTL.off 7) 3 ∧ (s.here at0).ssState 7 = ssACTIVE ∧ (s.here at0).callsStarted 7 = false) ∧
    (let x := (sBound.here at0).slot 7
     sBound.writable at0 .host (SS_CTL.off 7) 4 ∧ sBound.writable at0 .host (SS_CTL.off 7) 5 ∧ x.recs = [] ∧ x.fq = [] ∧ x.bq = []) ∧
    (let s := sSlot (fun x => { x with fq := [ent0], bq := [ent0] })
     s.writable at0 .host (SS_CTL.off 7) 6 ∧ s.writable at0 .host (SS_CTL.off 7) 7 ∧ ((s.here at0).slot 7).headEnt false = some ent0 ∧
     ((s.here at0).slot 7).headEnt true = some ent0) ∧
    (live.writable at0 .host (SS_CTL.off 0) 1 ∧ live.writable at0 .host (SS_CTL.off 0) 2 ∧ live.writable at0 .host (SS_CTL.off 0) 4 ∧
     live.writable at0 .host (SS_CTL.off 0) 5 ∧ (live.here at0).ssState 0 ≠ ssBOUND ∧ (live.here at0).ssState 0 ≠ ssACTIVE ∧
     (sBound.here at0).ssState 7 ≠ ssUNBOUND) := by
  simp only [State.writable, State.mayWrite]; refine ⟨?_, ?_, ?_, ?_, ?_, ?_, ?_⟩ <;> decide +kernel

theorem test_bind_and_start : (run (.bindSlot at0 .homeroom 7) (on (configured 7))).ssState 7 = ssBOUND ∧
    (run (.startSlot at0 .homeroom 7) sBound).ssState 7 = ssACTIVE := by decide +kernel
theorem test_bind_without_lessons : (run (.bindSlot at0 .homeroom 7) (on (fun c => (configured 7 c).wr (SS_VS_BLESSON.off 7 0) 0))).gf
    (SS_STAT.BIND_ERR 7) = 5 := by decide +kernel

/-- The first and the last configuration register of slot 7, and the registers of VS and CE that the statement names. -/
theorem witness_ConfigurationIsTakenWhenIdle :
    live.writable at0 .host (SS_CFG.off 7) 1 ∧ (chanDesc (SS_CFG.off 7)).isSome = true ∧ counterRanges (SS_CFG.off 7) = [] ∧
    0x150000 + 0x1000 * 7 < SS_CFG.off 7 ∧ SS_LAYER_END.off 7 15 < 0x151000 + 0x1000 * 7 ∧ SS_LAYER_END.off 7 15 % 0x1000 < 0x380 ∧
    live.writable at0 .homeroom (SS_LAYER_END.off 7 15) 1 ∧ (live.here at0).ssState 7 = ssUNBOUND ∧
    sBound.writable at0 .host (SS_CFG.off 7) 1 ∧ (sBound.here at0).ssState 7 ≠ ssUNBOUND ∧ SS_CFG.off 7 % 0x1000 ≠ 0x008 ∧
    SS_CFG.off 7 % 0x1000 ≠ 0x018 ∧ live.writable at0 .host (VS_WC.off 7) (2 ^ 39) ∧ (chanDesc (VS_WC.off 7)).isSome = true ∧
    live.writable at0 .host (CE_GRP_NORM.off 7) 8 ∧ (chanDesc (CE_GRP_NORM.off 7)).isSome = true ∧
    0x70400 + 0x80 * 7 < CE_GRP_NORM.off 7 ∧ CE_GRP_NORM.off 7 < 0x70450 + 0x80 * 7 ∧ CE_GRP_NORM.off 7 ≠ CE_GRP_TERM.off 7 ∧
    (live.here at0).ceEn 7 = false ∧
    (let s := on (fun c => c.sf (CE_GRP_CFG.EN 7) 1)
     s.writable at0 .host (CE_GRP_NORM.off 7) 8 ∧ (s.here at0).ceEn 7 = true) ∧
    [SS_CFG.off 7, SS_LAYER_END.off 7 15, VS_WC.off 7, CE_GRP_NORM.off 7].all (fun o => !(precReg o && (live.here at0).claimed o)) = true := by
  simp only [State.writable, State.mayWrite]; and_intros <;> decide +kernel

/-- Slot 7 may be served: its heads are read and it is its turn. -/
def turnB (c : Chan) : Bool :=
  c.serves 7 && !c.ttBusy && !(c.completeAll.headBad 7 false).1 &&
  !((c.completeAll.headBad 7 false).2.headBad 7 true).1 && (c.evaluated 7).serves 7 && !(c.evaluated 7).ttBusy &&
  (c.evaluated 7).turn 7

theorem witness_TimetableRuns :
    (let s := sSlot (fun x => { x with ends := [launch0] })
     let w := (s.here at0).evaluated 7
     s.coreLive at0 ∧ turnB (s.here at0) = true ∧ (w.slot 7).ends = [launch0] ∧ (w.imageBad (w.gf (SS_VS_ELESSON.ADDR 7 0) * 64)).1 = false) ∧
    (let s := sSlot (fun x => { x with fq := [ent0] })
     let w := (s.here at0).evaluated 7
     turnB (s.here at0) = true ∧ (w.slot 7).ends = [] ∧ w.eligible 7 false = some (ent0, leBytes 64 0) ∧ w.eligible 7 true = none ∧
     (w.imageBad (w.gf (SS_VS_FLESSON.ADDR 7 0) * 64)).1 = false) ∧
    (let s := sSlot (fun x => { x with bq := [ent0], recs := [{ rec0 with off := 0 }] })
     let w := (s.here at0).evaluated 7
     turnB (s.here at0) = true ∧ (w.slot 7).ends = [] ∧ w.eligible 7 true = some (ent0, leBytes 64 0) ∧ w.eligible 7 false = none ∧
     (w.imageBad (w.gf (SS_VS_BLESSON.ADDR 7 0) * 64)).1 = false) ∧
    (let s := (sSlot (fun x => { x with fq := [ent0], bq := [ent0], recs := [{ rec0 with off := 0 }] })).onChan 0 (fun c =>
       ((c.wr (SS_BQ.off 7) (0x100080 + 2 ^ 40)).sf (SS_CFG.NSTASH 7) 2).poke 0x100000 (leBytes 64 1))
     let w := (s.here at0).evaluated 7
     turnB (s.here at0) = true ∧ (w.slot 7).ends = [] ∧ w.eligible 7 true = some (ent0, leBytes 64 0) ∧
     w.eligible 7 false = some (ent0, leBytes 64 1) ∧
     (pickBwd (w.gf (SS_CFG.POLICY 7)) 0 0 (w.gf (SS_STAT.LAST_PHASE 7)) || !pickBwd (w.gf (SS_CFG.POLICY 7)) 0 0 (w.gf (SS_STAT.LAST_PHASE 7)))
       = true) ∧
    (let c := ((sSlot (fun x => { x with bq := [ent0] })).onChan 0 (fun c => c.sf (SS_TERM.TERM 7) 0x7FFF)).here at0
     c.serves 7 = true ∧ (c.headBad 7 true).1 = false ∧ (c.headBad 7 true).2.staleHead 7 true = some (ent0, leBytes 64 0)) ∧
    (let c := (sSlot (fun x => { x with bq := [ent0] })).here at0
     let m := (c.headBad 7 true).2
     c.serves 7 = true ∧ (c.headBad 7 true).1 = false ∧
     c.flag (SS_STAT.FAULT 7) = false ∧ m.current 7 true = some (ent0, leBytes 64 0) ∧ m.headFault 7 true (leBytes 64 0) ≠ 0) ∧
    (let c := (sSlot (fun x => { x with launches := [launch0] })).here at0
     (c.slot 7).launches[0]? = some launch0 ∧ (tget (fun _ => {}) c.calls 0).unended = 0) ∧
    (let p : OffCopy := ⟨5, 0, 0, 0, false⟩
     let c := ((sSlot (fun x => { x with copies := [p], recs := [rec0] })).onChan 0 (fun c => c.withCalls [(5, { unended := 1 })])).here at0
     (c.slot 7).copies.find? (fun p => p.i == 0 && c.copyDone p) = some p ∧ (∀ r ∈ (c.slot 7).recs, r.want = false)) := by
  simp only [State.coreLive]; refine ⟨?_, ?_, ?_, ?_, ?_, ?_, ?_, ?_⟩ <;> decide +kernel

theorem test_forward_launch : let c := run (.launch at0 7) (sSlot (fun x => { x with fq := [ent0] }))
    (c.slot 7).recs.map (·.mb) = [0] ∧ c.gf (SS_CNT_FWD.COUNT 7) = 1 := by decide +kernel

theorem witness_VersionsAndJournalsAdvance :
    (let s := on (fun c => (c.sf (VS_CFG.MODE 7) 2).wr (VS_ENT_A.off 7 0) 1)
     let c := s.here at0
     s.writable at0 .homeroom (VS_PUB.off 7) (3 + 2 ^ 62) ∧ bits (3 + 2 ^ 62) 0 2 = 3 ∧ c.vsReady 7 3 = false ∧
     c.vsOwner 7 3 ≤ c.gf (SS_CFG.VSTAGES 7) ∧ c.vsReady 7 0 = true ∧
     (List.range 4).foldl (fun c j => c.vsRetire 7 j) c = c ∧
     (∀ j, j < 4 → c.vsReady 7 j = true → c.vsOwner 7 j = c.vsOwner 7 3 →
       notEarlier 32 (c.gf (VS_ENT_A.BASE_STEP 7 j)) (bits (3 + 2 ^ 62) 32 32) = false)) ∧
    (let s := on (fun c => (((c.sf (VS_CFG.MODE 7) 2).wr (VS_ENT_A.off 7 0) 1).sf (VS_ENT_A.STATE 7 3) 1).sf (VS_ENT_A.BASE_STEP 7 3) 1)
     let c := s.here at0
     s.coreLive at0 ∧ c.vsReady 7 0 = true ∧ c.gf (VS_ENT_A.REFS 7 0) = 0 ∧
     notEarlier 32 (c.gf (VS_DONE.DONE_STEP 7)) (c.gf (VS_ENT_B.LAST_STEP 7 0)) = true ∧ c.vsReady 7 3 = true ∧
     c.vsOwner 7 3 = c.vsOwner 7 0 ∧ later 32 (c.gf (VS_ENT_A.BASE_STEP 7 3)) (c.gf (VS_ENT_A.BASE_STEP 7 0)) = true) ∧
    (let b : UuBlk := ⟨0, 4, [], [], []⟩
     let r : UuRun := ⟨0, cmd 128 [(0, 0x4254), (2, 1), (64, 0x20000), (72, 0x30000), (96, 64)], cmd 320 [(2, 1), (76, 1)], 0, none, 0, 1, [], [b]⟩
     let s := on (fun c => (startedQ 0x14 (cmd 64 [(0, 0x40)]) c).withUu (some r))
     let c := s.here at0
     s.coreLive at0 ∧ c.uu = some r ∧ c.isRunning qUU 0 = true ∧ r.blks.find? (fun y => y.j == 0) = some b ∧ b.st = 4 ∧
     (∀ y ∈ r.blks, y.st ≠ 0) ∧ c.flaws = [] ∧ eBUDDY (tEntry r.table 0) = 0) := by
  simp only [State.writable, State.mayWrite, State.coreLive]; refine ⟨?_, ?_, ?_⟩ <;> decide +kernel

/-- Context 7: configured for four members; enabled with one open bucket of an older term, and one whose deadline has passed. -/
def sCtx : State := on (fun c => ((c.wr (CE_GRP_STAGE.off 7) 0x200000).wr (CE_GRP_STAGE_SIZE.off 7) 65536).wr (CE_GRP_REC.off 7) 0x300000)
def sCtxOn (b : List Bkt) : State :=
  sCtx.onChan 0 (fun c => ((c.wr (CE_GRP_CFG.off 7) (1 + 2 * 2 + 3 * 2 ^ 8)).wr (CE_GRP_TERM.off 7) 2).withBkts b)
def ctxV : Nat := 1 + 2 * 2 + 3 * 2 ^ 8 + 3 * 2 ^ 16 + 0xFFFF * 2 ^ 24
def oldBkt : Bkt := { id := 0, g := 7, term := 1, step := 4, bkt := 9 }
def lateBkt : Bkt := { id := 1, g := 7, term := 2, step := 4, bkt := 4095, timer := some 0 }

theorem witness_ContextsAndDeadlines :
    (let c := sCtx.here at0
     sCtx.writable at0 .homeroom (CE_GRP_CFG.off 7) ctxV ∧ c.ceEn 7 = false ∧ bit ctxV 0 = true ∧
     (c.wrFields (CE_GRP_CFG.off 7) (ctxV - ctxV % 2)).ceCheck 7 = none) ∧
    (let s := sCtxOn []
     s.writable at0 .host (CE_GRP_CFG.off 7) 4 ∧ (s.here at0).ceEn 7 = true ∧ bit 4 0 = false ∧ (∀ b ∈ (s.here at0).bkts, b.g ≠ 7) ∧
     ∀ u ∈ (s.here at0).ceStage, u.g ≠ 7) ∧
    (let s := sCtxOn [oldBkt, lateBkt]
     let c := s.here at0
     s.writable at0 .host (CE_GRP_CTL.off 7) 1 ∧ c.flaws = [] ∧ (∀ b ∈ c.bkts, b.g = 7 → b.cmd = none) ∧
     c.bkts.filter (fun b => b.g == 7 && b.term != c.ceTerm 7) = [oldBkt]) ∧
    (let a := stamp (3 * tUs)
     let s := (sCtxOn [oldBkt, lateBkt]).onChan 0 (fun c => c.sf (CE_GRP_DEADLINE.DEADLINE_US 7) 3)
     let c := s.here a
     s.coreLive a ∧ c.bkts.find? (fun b => b.g == 7 && b.bkt == 4095 && b.mode == 0 && b.term == c.ceTerm 7) = some lateBkt ∧
     lateBkt.timer = some 0 ∧ c.gf (CE_GRP_DEADLINE.DEADLINE_US 7) = 3 ∧ 0 + 3 * tUs ≤ c.now ∧
     lateBkt.held.any (fun m => m.phase == 3) = false ∧ lateBkt.seen.any (fun e => e.1 == 3) = false) ∧
    live.writable at0 .host GB_CTL.off (8 + 7) := by
  simp only [State.writable, State.mayWrite, State.coreLive]; refine ⟨?_, ?_, ?_, ?_, ?_⟩ <;> decide +kernel

theorem test_abandon : let c := run (.ceAbandon at0 .host 7) (sCtxOn [oldBkt, lateBkt])
    c.bkts.map (·.id) = [1] ∧ c.peek (0x300000 + 64 * 9) 7 = [4, 0, 0, 0, 1, 0, 8] := by decide +kernel

/-! ### Witnesses: cores -/

def rType (op f3 f7 rd rs1 rs2 : Nat) : Nat := op + rd * 2 ^ 7 + f3 * 2 ^ 12 + rs1 * 2 ^ 15 + rs2 * 2 ^ 20 + f7 * 2 ^ 25
def iType (op f3 rd rs1 imm : Nat) : Nat := op + rd * 2 ^ 7 + f3 * 2 ^ 12 + rs1 * 2 ^ 15 + imm * 2 ^ 20

/-- Bytes laid into a core's TCM. -/
def inTcm (o : Nat) (bs : List Byte) (x : Core) : Core :=
  { x with tcm := bs.zipIdx.foldl (fun t e => tput (fun _ => 0) t (o + e.2) e.1) x.tcm }

/-- Core `h` at the instruction `w`, in the TCM's first word, with `f` applied to the core. -/
def sCore (h w : Nat) (f : Core → Core) : State :=
  on (fun c => ((if h < 4 then c.sf (SC_CTL.RUN h) 1 else c.sf SVC_STAT.UP 1)).setCore h
    (f (inTcm 0 (leBytes 4 w) { pc := BitVec.ofNat 64 tcmBase })))

def isOk (r : Except Nat (Nat × Nat)) (raw len : Nat) : Bool :=
  match r with
  | .ok (x, y) => x == raw && y == len
  | .error _ => false

/-- `Chan.atInstr` as a test. -/
def atB (c : Chan) (h raw len : Nat) (i : Rv) : Bool :=
  c.hartRuns h && isOk (c.fetch h).1 raw len && decide (decodeRv raw = i)

theorem at_of_test {c : Chan} {h raw len : Nat} {i : Rv} (t : atB c h raw len i = true) : c.atInstr h raw len i (c.fetch h).2 := by
  simp only [atB, Bool.and_eq_true, decide_eq_true_eq] at t
  obtain ⟨⟨h1, h2⟩, h3⟩ := t
  refine ⟨h1, ?_, h3⟩
  unfold isOk at h2
  cases e : (c.fetch h).1 with
  | error _ => rw [e] at h2; cases h2
  | ok p =>
    rw [e] at h2
    simp only [Bool.and_eq_true, beq_iff_eq] at h2
    exact Prod.ext (by rw [e, ← h2.1, ← h2.2]) rfl

/-- Core, word, length, instruction, and the rest of the core. -/
def coreTests : List (Nat × Nat × Nat × Rv × (Core → Core)) :=
  [(0, rType 0x33 0 0 31 30 29, 4, .op .add false 31 30 29, id),
   (4, iType 0x13 0 31 0 0xFFF, 4, .imm .add false 31 0 (2 ^ 64 - 1), id),
   (4, 0x0001, 2, .imm .add false 0 0 0, id),
   (3, 0x80000063, 4, .branch 0 0 0 (2 ^ 64 - 4096), id),
   (3, 0x800000EF, 4, .jal 1 (2 ^ 64 - 2 ^ 20), id),
   (0, 0x73, 4, .ecall, fun x => { x with user := true }), (4, 0x73, 4, .ecall, id), (0, 0x100073, 4, .ebreak, id),
   (0, 0x0000, 2, .illegal, id), (0, 0x30200073, 4, .mret, id), (0, 0x30200073, 4, .mret, fun x => { x with user := true }),
   (0, iType 0x73 1 1 0 csrMSTATUS, 4, .csr 1 1 0 csrMSTATUS, fun x => { x with user := true })]

theorem core_tests : coreTests.all (fun e => atB ((sCore e.1 e.2.1 e.2.2.2.2).here at0) e.1 e.2.1 e.2.2.1 e.2.2.2.1) = true := by
  decide +kernel

/-- Operations, immediates, branches and jumps; and the exceptions of both modes. -/
theorem witness_CoreInstructionsExecute_and_CoresTrapAndReturn :
    (∀ e ∈ coreTests, (sCore e.1 e.2.1 e.2.2.2.2).coreLive at0 ∧
      ((sCore e.1 e.2.1 e.2.2.2.2).here at0).atInstr e.1 e.2.1 e.2.2.1 e.2.2.2.1 (((sCore e.1 e.2.1 e.2.2.2.2).here at0).fetch e.1).2) ∧
    bits csrMSTATUS 8 2 ≠ 0 ∧
    (let c := (sCore 0 0 (fun x => { x with pc := 0x7000000000 })).here at0
     c.hartRuns 0 = true ∧ (match (c.fetch 0).1 with | .error g => g | .ok _ => 0) = 0x7000000000) ∧
    (let c := ((sCore 0 0 (fun x => ({ x with user := true } : Core).setCs csrMIE (2 ^ 7 + 2 ^ 11))).onChan 0 (fun c => c.wr (SC_MTIMECMP.off 0) 0)).here at0
     c.hartRuns 0 = true ∧ (c.core 0).user = true ∧ (c.mip 0 &&& (c.core 0).cs csrMIE) = 2 ^ 7) := by
  have h : coreTests.all (fun e => ((sCore e.1 e.2.1 e.2.2.2.2).enter at0).hpd.good && ((sCore e.1 e.2.1 e.2.2.2.2).here at0).computeOn)
      = true := by decide +kernel
  refine ⟨fun e he => ⟨?_, at_of_test (List.all_eq_true.mp core_tests e he)⟩, ?_⟩
  · have := List.all_eq_true.mp h e he
    simp only [Bool.and_eq_true] at this
    exact this
  · and_intros <;> decide +kernel

theorem test_add : let c := run (.coreInstruction at0 0) (sCore 0 (rType 0x33 0 0 31 30 29) (fun x => (x.xw 30 (2 ^ 64 - 1)).xw 29 3))
    (c.core 0).xr 31 = 2 ∧ (c.core 0).pc = BitVec.ofNat 64 (tcmBase + 4) := by decide +kernel
theorem test_ecall : let x := (run (.coreInstruction at0 0) (sCore 0 0x73 (fun x => x.setCs csrMTVEC 0x1000))).core 0
    x.pc.toNat = 0x1000 ∧ x.cs csrMCAUSE = 11 ∧ x.cs csrMEPC = tcmBase := by decide +kernel

/-- Loads, stores and atomics at the edges of a 64-byte block, and of a line in the data cache. -/
def memTests : List (Nat × Nat × Nat × Rv × (Core → Core)) :=
  [(0, iType 0x03 3 5 1 0xFF8, 4, .load 3 5 1 (2 ^ 64 - 8), fun x => x.xw 1 (tcmBase + 64)),
   (4, iType 0x03 6 5 1 60, 4, .load 6 5 1 60, fun x => ({ x with dcache := [(0, (false, leBytes 64 0))] })),
   (0, iType 0x03 1 5 1 63, 4, .load 1 5 1 63, fun x => x.xw 1 tcmBase),
   (0, rType 0x23 3 0 0 1 5, 4, .store 3 1 5 0, fun x => x.xw 1 (tcmBase + 56)),
   (4, rType 0x23 0 0 31 1 5, 4, .store 0 1 5 31, fun x => ({ x with dcache := [(1, (false, leBytes 64 0))] }.xw 1 64)),
   (3, rType 0x23 2 0 0 1 5, 4, .store 2 1 5 0, fun x => x.xw 1 (regBase + 0xFFFC)),
   (0, rType 0x2F 3 0 5 1 6, 4, .amo 0 true 5 1 6, fun x => x.xw 1 (tcmBase + 0x3FFF8)),
   (0, rType 0x2F 2 8 5 1 0, 4, .amo 2 false 5 1 0, fun x => x.xw 1 (tcmBase + 60)),
   (0, rType 0x2F 3 12 5 1 6, 4, .amo 3 true 5 1 6, fun x => { x with resv := some (tcmBase + 56, 8) }.xw 1 (tcmBase + 56)),
   (0, rType 0x2F 3 12 5 1 6, 4, .amo 3 true 5 1 6, fun x => x.xw 1 (tcmBase + 56))]

def addressOf (x : Core) : Rv → Nat
  | .load _ _ r i => (x.xr r + i) % 2 ^ 64
  | .store _ r _ i => (x.xr r + i) % 2 ^ 64
  | .amo _ _ _ r _ => x.xr r
  | _ => 0

theorem witness_CoreMemoryInstructionsExecute :
    (∀ e ∈ memTests, ((sCore e.1 e.2.1 e.2.2.2.2).here at0).atInstr e.1 e.2.1 e.2.2.1 e.2.2.2.1
      (((sCore e.1 e.2.1 e.2.2.2.2).here at0).fetch e.1).2) ∧
    memTests.map (fun e => regionOf (addressOf (e.2.2.2.2 {}) e.2.2.2.1)) =
      [.tcm 56, .mem 60, .tcm 63, .tcm 56, .mem 95, .reg 0xFFFC, .tcm 0x3FFF8, .tcm 60, .tcm 56, .tcm 56] ∧
    memTests.map (fun e => (e.2.2.2.2 {}).dcache.map (·.1)) = [[], [0], [], [], [1], [], [], [], [], []] := by
  have h : memTests.all (fun e => atB ((sCore e.1 e.2.1 e.2.2.2.2).here at0) e.1 e.2.1 e.2.2.1 e.2.2.2.1) = true := by decide +kernel
  refine ⟨fun e he => at_of_test (List.all_eq_true.mp h e he), ?_⟩
  and_intros <;> decide +kernel

theorem test_sc_fails_without_a_reservation :
    ((run (.coreAmo at0 0) (sCore 0 (rType 0x2F 3 12 5 1 6) (fun x => x.xw 1 (tcmBase + 56)))).core 0).xr 5 = 1 := by decide +kernel

/-- Xmiustan: a push of the 64 bytes at the TCM's end to a bound queue, to one that is full, to one that is no queue, to one that is
not bound, and from memory; then the others. -/
def pushW : Nat := rType 0x0B 0 0 5 1 6
def xmTests : List (Nat × Nat × Rv × (Core → Core)) :=
  [(0, pushW, .xm 0 5 1 6, fun x => (x.xw 1 (tcmBase + 0x3FFC0)).xw 6 0x20), (0, pushW, .xm 0 5 1 6, fun x => (x.xw 1 tcmBase).xw 6 0x15),
   (0, pushW, .xm 0 5 1 6, fun x => (x.xw 1 tcmBase).xw 6 0x14), (0, pushW, .xm 0 5 1 6, fun x => (x.xw 1 0x1000).xw 6 0x20),
   (0, rType 0x0B 1 0 0 1 6, .xm 1 0 1 6, id), (0, rType 0x0B 2 0 5 1 6, .xm 2 5 1 6, fun x => x.xw 6 1),
   (0, rType 0x0B 3 0 5 1 0, .xm 3 5 1 0, fun x => x.xw 1 0x3F),
   (0, rType 0x0B 4 0 0 1 6, .xm 4 0 1 6, fun x => x.xw 1 0x2FFFF), (0, rType 0x0B 4 0 0 1 6, .xm 4 0 1 6, fun x => x.xw 1 0x7FFF),
   (0, rType 0x0B 4 0 0 1 6, .xm 4 0 1 6, fun x => x.xw 1 0x3FFFF), (4, 0x500B, .xm 5 0 0 0, id), (4, 0x100F, .fenceI, id),
   (4, rType 0x2B 0 0 0 1 6, .cmo 0 1 6, id), (4, rType 0x2B 1 0 0 1 6, .cmo 1 1 6, id), (4, rType 0x2B 2 0 0 1 6, .cmo 2 1 6, id)]

/-- The state of such a test, with queue 0x20 bound; `full` has no free slot left in it. -/
def sXm (e : Nat × Nat × Rv × (Core → Core)) : State := (sCore e.1 e.2.1 e.2.2.2).onChan 0 (bound 0x20)
def full (s : State) : State := s.onChan 0 (fun c => c.onQueue 0x20 (fun x => { x with
  ents := List.replicate 64 { seq := 0, slot := 0, n := 1, launch := none, started := false, consumed := false } }))

theorem witness_XmiustanInstructionsExecute :
    (∀ e ∈ xmTests, ((sXm e).here at0).atInstr e.1 e.2.1 4 e.2.2.1 (((sXm e).here at0).fetch e.1).2 ∧
      (((sXm e).here at0).fetch e.1).2.coreQuiet e.1 = true) ∧
    (xmTests.take 4).map (fun e => ((e.2.2.2 {}).xmArgs e.2.2.1).2.2 % 256) = [0x20, 0x15, 0x14, 0x20] ∧
    (xmTests.take 4).map (fun e => ((e.2.2.2 {}).pushSource ((e.2.2.2 {}).xmArgs e.2.2.1).2.1).isSome) = [true, true, true, false] ∧
    [0x20, 0x15, 0x14].map (fun q => (qidOk q, ((sXm (0, pushW, .illegal, id)).here at0).qDepth q)) = [(true, 64), (false, 0), (true, 0)] ∧
    (let c := (sXm (0, pushW, .illegal, id)).here at0
     c.canAppend 0x20 (leBytes 64 0) = true) ∧
    (let c := (full (sXm (0, pushW, .illegal, id))).here at0
     c.canAppend 0x20 (leBytes 64 0) = false) ∧
    bits 0x2FFFF 0 16 ≥ 0x8000 ∧ bits 0x2FFFF 16 2 = 2 ∧ bits 0x7FFF 0 16 < 0x8000 ∧ bits 0x3FFFF 16 2 = 3 ∧
    (let s := sCore 0 (rType 0x0B 2 0 5 1 6) (fun x => { x with waiting := true })
     let c := s.here at0
     (c.waitingAt 0).1 = some (.xm 2 5 1 6) ∧ c.tokOk 0 0 = true) := by
  have h : xmTests.all (fun e => atB ((sXm e).here at0) e.1 e.2.1 4 e.2.2.1 && (((sXm e).here at0).fetch e.1).2.coreQuiet e.1) = true := by
    decide +kernel
  refine ⟨fun e he => ?_, ?_⟩
  · have := List.all_eq_true.mp h e he
    simp only [Bool.and_eq_true] at this
    exact ⟨at_of_test this.1, this.2⟩
  · and_intros <;> decide +kernel

theorem test_push : let c := run (.cmdPush at0 0) (sXm (0, pushW, .illegal, fun x => (x.xw 1 (tcmBase + 0x3FFC0)).xw 6 0x20))
    (c.queue 0x20).st = .running ∧ (c.queue 0x20).tail = 1 ∧ (c.core 0).xr 5 = 0 := by decide +kernel
theorem test_push_unbound : ((run (.cmdPush at0 0) (sXm (0, pushW, .illegal, fun x => (x.xw 1 tcmBase).xw 6 0x14))).core 0).xr 5 = 2 := by
  decide +kernel

/-- A dirty line of the highest address in HBM, named by the operands or evicted (the instructions themselves: above). -/
theorem witness_CacheLinesAreWrittenBack :
    (let l := hbmSize / 64 - 1
     let s := sCore 4 (rType 0x2B 0 0 0 1 6) (fun x => { (x.xw 1 (64 * l)).xw 6 64 with dcache := [(l, (true, leBytes 64 5))] })
     let c := s.here at0
     let x := (c.fetch 4).2.core 4
     s.coreLive at0 ∧ atB c 4 (rType 0x2B 0 0 0 1 6) 4 (.cmo 0 1 6) = true ∧
     x.cmoLines (x.xmArgs (.cmo 0 1 6)).2.1 (x.xmArgs (.cmo 0 1 6)).2.2 = [l] ∧
     tget? l (c.core 4).dcache = some (true, leBytes 64 5) ∧ c.flaws = [] ∧ (c.fetch 4).2.flaws = []) := by
  simp only [State.coreLive]; decide +kernel

theorem test_cache_eviction : (run (.cacheEviction at0 4 9) (sCore 4 0 (fun x => { x with dcache := [(9, (true, leBytes 64 5))] }))).peek 576 2
    = [5, 0] := by decide +kernel

/-- Stage core 3 with a watchdog of one microsecond, at its first and its second expiry. -/
theorem witness_StageCoresAreControlled :
    live.writable at0 .homeroom (SC_CTL.off 3) 1 ∧ (live.here at0).flag (SC_CTL.RUN 3) = false ∧ ((live.here at0).core 3).began = false ∧
    live.writable at0 (.core 4) (SC_CTL.off 3) 2 ∧ live.writable at0 (.core 3) (SC_WDOG_KICK.off 3) 1 ∧
    (let s := sCore 3 0 (fun x => { x with began := true })
     s.writable at0 .host (SC_CTL.off 3) 0 ∧ (s.here at0).flag (SC_CTL.RUN 3) = true) ∧
    (let a := stamp tUs
     let s := (sCore 3 0 (fun x => { x with expired := true })).onChan 0 (fun c => c.sf (SC_WDOG.PERIOD_US 3) 1)
     let c := s.here a
     s.coreLive a ∧ c.gf (SC_WDOG.PERIOD_US 3) = 1 ∧ (c.core 3).kick + 1 * tUs ≤ c.now ∧ (c.core 3).expired = true) ∧
    (let s := on (fun c => c.sf SVC_STAT.UP 1)
     s.coreLive at0 ∧ (s.here at0).flag SVC_STAT.UP = true) := by
  simp only [State.writable, State.mayWrite, State.coreLive]; and_intros <;> decide +kernel

/-- Source 511 is presented to target 5, and not acknowledged twice; the sources of software can all be set and cleared. -/
def sIrq : State := on (fun c => (c.wr (CIC_SRC.off 511) (15 + 5 * 2 ^ 4)).wr CIC_SWSRC_SET.off (2 ^ 63))

theorem witness_InterruptControllerServes :
    (sIrq.writable at0 .homeroom (CIC_ACK.off 5) 511 ∧ (sIrq.here at0).presented 5 = some (511, 15) ∧ (live.here at0).presented 5 = none) ∧
    (live.writable at0 .homeroom (CIC_ACK.off 5) 511 ∧ sIrq.writable at0 .homeroom (CIC_EOI.off 5) 1 ∧ (sIrq.here at0).stack 5 = []) ∧
    (let s := on (fun c => c.withPrios [(5, [(511, 15), (0, 1)])])
     s.writable at0 .host (CIC_EOI.off 5) 1 ∧ (s.here at0).stack 5 = [(511, 15), (0, 1)]) ∧
    (live.writable at0 .host (CIC_SRC.off 511) (2 ^ 64 - 1) ∧ live.writable at0 (.core 4) CIC_SWSRC_SET.off (2 ^ 64 - 1) ∧
     live.writable at0 (.te 0) CIC_SWSRC_CLR.off (2 ^ 64 - 1)) := by
  simp only [State.writable, State.mayWrite]; refine ⟨?_, ?_, ?_, ?_⟩ <;> decide +kernel

theorem test_acknowledge : let c := run (.cicAck at0 .homeroom 5 511) sIrq
    c.stack 5 = [(511, 15)] ∧ c.presented 5 = none := by decide +kernel

/-! ### Witnesses: power states, terms and links -/

def ptrans0 (exit : Bool) (old new : Nat) : PTrans :=
  { exit := exit, old := old, new := new, began := 0, andBack := none, cause := 0, entry := 0 }

/-- Every state requested, granted and refused; the idle entry at its delay; entries into 2, 3 and 4; the wake of entry 31. -/
theorem witness_PowerStatesChange :
    (live.writable at0 (.core 4) HR_PSTATE.off 2 ∧ pstateAgent (.core 4) = true ∧ (live.here at0).ptrans = none ∧ bits 2 0 3 ≠ (live.here at0).gf HR_PSTATE.CUR ∧
     (live.here at0).pstateFault 0 2 = none ∧ (live.here at0).pstateFault 0 3 = none ∧ (live.here at0).pstateFault 0 4 = none ∧
     (live.here at0).pstateFault 0 7 = some 7) ∧
    (let s := on (fun c => (c.wr HR_IDLE_DELAY.off 2).withQuietSince (some 0))
     let a := stamp (2 * tUs)
     let c := s.here a
     s.homeLive a ∧ c.gf HR_PSTATE.CUR = 0 ∧ c.flag HR_PSTATE.BUSY = false ∧ c.gf HR_IDLE_DELAY.DELAY_US = 2 ∧ c.queuesQuiet = true ∧
     c.quietSince = some 0 ∧ 0 + 2 * tUs ≤ c.now) ∧
    (∀ n ∈ [2, 3, 4], let s := on (fun c => c.withPtrans (some (ptrans0 false 0 n)))
     s.homeLive at0 ∧ (s.here at0).ptrans = some (ptrans0 false 0 n) ∧ (ptrans0 false 0 n).andBack = none) ∧
    (let s := on (fun c => ((c.wr (HR_WAKE.off 31) (511 + 2 ^ 9)).wr CIC_SWSRC_SET.off (2 ^ 63)).sf HR_PSTATE.CUR 3)
     s.homeLive at0 ∧ (s.here at0).wakeEntry = none ∧ (s.here at0).ptrans = none) ∧
    (let s := on (fun c => ((c.wr (HR_WAKE.off 31) (401 + 2 ^ 9)).sf HR_RECOV_STAT.CLAIMED 1).sf HR_PSTATE.CUR 3)
     s.homeLive at0 ∧ (s.here at0).wakeEntry = some 31 ∧ (s.here at0).ptrans = none ∧ (s.here at0).gf HR_PSTATE.CUR = 3) ∧
    (let s := on (fun c => c.withPtrans (some (ptrans0 true 3 0)))
     s.homeLive at0 ∧ (s.here at0).ptrans = some (ptrans0 true 3 0)) := by
  simp only [State.writable, State.mayWrite, State.homeLive]; refine ⟨?_, ?_, ?_, ?_, ?_, ?_⟩ <;> decide +kernel

def sw0 : TermSw := { new := 0xFFFF, groups := 0x80, image := none, tok := none, began := 0 }
def termV : Nat := 0x7FFF + 0x80 * 2 ^ 16 + 2 ^ 24

theorem witness_TermsSwitch :
    (let s := on (fun c => (c.sf (CE_GRP_CFG.EN 7) 1).wr CH_TERM_TIMEOUT.off 1)
     let c := s.here at0
     s.writable at0 .homeroom CH_TERM_CTL.off termV ∧ bit termV 24 = true ∧ bit termV 27 = false ∧
     later 16 (bits termV 0 16) (c.gf CH_TERM.CUR) = true ∧ c.gf CH_TERM.STATE = 0 ∧ (groupsOf (bits termV 16 8)).all c.ceEn = true ∧
     bit termV 25 = false ∧ c.gf CH_TERM_TIMEOUT.TIMEOUT_US ≠ 0 ∧ later 16 0 (c.gf CH_TERM.CUR) = false ∧ bit (2 ^ 24) 24 = true ∧
     s.writable at0 .host CH_TERM_CTL.off (2 ^ 24)) ∧
    (let s := on (fun c => (c.withTermSw (some sw0)).wr CH_TERM_TIMEOUT.off 1)
     let c := s.here (stamp tUs)
     s.baseLive (stamp tUs) ∧ c.termSw = some sw0 ∧ (groupsOf sw0.groups).all (fun g => c.gf (CE_GRP_STAT.OPEN g) == 0) = true ∧
     sw0.began + c.gf CH_TERM_TIMEOUT.TIMEOUT_US * tUs ≤ c.now) := by
  simp only [State.writable, State.mayWrite, State.baseLive]; refine ⟨?_, ?_⟩ <;> decide +kernel

/-- Port 5 UP, with `f` applied to its state; the first flit that it expects, and one with a wrong CRC. -/
def sLink (st : Nat) (f : Port → Port) : State :=
  on (fun c => let c := c.sf (IV_STAT.STATE 5) st; c.setPort 5 (f (c.port 5)))
/-- What the far end of the Z link at port 5 has sent: flits and link-control messages. -/
def fromZ (fs : List (List Byte)) (ms : List Ctl) (s : State) : State := s.onZFar 0 5 (fun x => { x with wire := fs, ctl := ms })
theorem z_due (fs : List Byte) (r : List (List Byte)) (s : State) (a : At)
    (h : ((s.enter a).zFar a.chan 5).wire = fs :: r) : s.flitDue a 5 fs := fun _ => ⟨r, h⟩
def flit0 : Flit :=
  { lseq := 0, vc := 0, kind := 4, plen := 48, ackSeq := 0xFFFF, crVc := 15, crEn := true, crCnt := 255, payload := leBytes 48 0 }

theorem flit0_ok : flitOk flit0.bytes = true ∧ (parseFlit flit0.bytes) = flit0 ∧ flitOk (leBytes 256 0) = false := by decide +kernel

theorem witness_FlitsAreRetried :
    (let s := fromZ [flit0.bytes] [] (sLink linkUP id)
     s.fabLive at0 ∧ (s.here at0).linkUsable 5 = true ∧ flit0.lseq = ((s.here at0).port 5).rexp ∧ 1 ≤ flit0.kind ∧ flit0.kind ≤ 4 ∧
     isZ 5 = true ∧ ((s.enter at0).zFar 0 5).wire.map (fun f => f != flit0.bytes) = [false] ∧ leBytes 256 0 ≠ flit0.bytes ∧ isZ 3 = false) ∧
    (let s := fromZ [] [.nak 7, .nak 6] (sLink linkHALF (fun x => { x with replay := [⟨7, 0, 1, [], none⟩], nakSeq := 7, nakCount := 15 }))
     let x := (s.here at0).port 5
     .nak 7 ∈ ((s.enter at0).zFar 0 5).ctl ∧ .nak 6 ∈ ((s.enter at0).zFar 0 5).ctl ∧
     s.fabLive at0 ∧ (s.here at0).linkUsable 5 = true ∧ (if x.nakSeq = 7 then x.nakCount + 1 else 1) = 16 ∧
     (if x.nakSeq = 6 then x.nakCount + 1 else 1) = 1) := by
  simp only [State.fabLive, State.homeLive]; refine ⟨?_, ?_⟩ <;> decide +kernel

theorem test_flit_accepted : ((run (.flit at0 5 flit0.bytes) (fromZ [flit0.bytes] [] (sLink linkUP id))).port 5).rexp = 1 := by decide +kernel
theorem test_flit_bad_crc : (run (.flit at0 3 (leBytes 256 0)) (on (fun c => c.sf (IV_STAT.STATE 3) linkUP))).gf (IV_CNT_CRC.COUNT 3) = 1 := by decide +kernel

/-- Ports 5 (a Z link) and 0: lanes spared, CAP and the end of a training, retrains and links that go down. -/
theorem witness_LinksNegotiateAndTrain :
    (let s := fromZ [] [.laneSwap 0 (lanesOf 5)] ((sLink linkUP id).onChan 0 (fun c => c.sf (IV_LANES.GOOD 5) (2 ^ 56 - 1)))
     let c := s.here at0
     .laneSwap 0 (lanesOf 5) ∈ ((s.enter at0).zFar 0 5).ctl ∧ s.fabLive at0 ∧ c.linkUsable 5 = true ∧ c.freeSpare 5 = some (lanesOf 5) ∧ 0 ≠ lanesOf 5 ∧ (c.port 5).spared.contains 0 = false) ∧
    (let s := (((sLink linkTRAINING (fun x => { x with capSeen := true, trained := true, fails := 2, retraining := true })).onChan 0
       (fun c => c.sf (IV_LANES.GOOD 5) (2 ^ lanesOf 5 - 1))).onZFar 0 5 (fun x => { x with ctl := [.cap (leBytes 16 3)], capSeen := true })).onChan
         (zPeer 0 5).1 (fun c => c.sf (IV_STAT.STATE 4) linkTRAINING)
     let c := s.here at0
     .cap (leBytes 16 3) ∈ ((s.enter at0).zFar 0 5).ctl ∧ (s.enter at0).zReady 0 5 = true ∧ (c.port 5).retraining = true ∧ s.fabLive at0 ∧ c.linkState 5 = linkTRAINING ∧ (c.port 5).capSeen = true ∧ c.widthOf 5 = some (true, 0) ∧
     c.gf (IV_STAT.MM_REASON 5) = 0 ∧ (c.port 5).trained = true ∧ (c.port 5).fails = 2) ∧
    (let c := ((sLink linkTRAINING (fun x => { x with trained := true, fails := 1, retraining := true })).onChan 0
       (fun c => (c.sf (IV_LANES.GOOD 5) (2 ^ (lanesOf 5 / 2) - 1)).sf (IV_STAT.MM_REASON 5) 3)).here at0
     c.widthOf 5 = some (false, 0) ∧ (c.port 5).retraining = true ∧ (c.port 5).fails < 2 ∧ c.gf (IV_STAT.MM_REASON 5) ≠ 0) ∧
    (let s := sLink linkMISMATCH id
     s.fabLive at0 ∧ (s.here at0).linkState 5 = linkMISMATCH ∧ s.writable at0 .homeroom (IV_CTL.off 5) 1 ∧
     2 ≤ ((s.onChan 0 (fun c => c.sf HR_CSTATE.PHASE 2)).here at0).gf HR_CSTATE.PHASE ∧ s.writable at0 .homeroom (IV_CTL.off 5) 2 ∧ (s.chan at0.chan).gf (IV_CTL.DISABLE 5) = 0 ∧
     (s.here at0).flag (IV_CTL.DISABLE 5) = false) ∧
    (let s := (sLink linkDOWN id).onChan 0 (fun c => c.sf (IV_CTL.DISABLE 5) 1)
     s.writable at0 .host (IV_CTL.off 5) 0 ∧ (s.here at0).flag (IV_CTL.DISABLE 5) = true) ∧
    (let s := sLink linkDOWN id
     s.fabLive at0 ∧ (s.here at0).linkState 5 = linkDOWN ∧ (s.here at0).flag (IV_CTL.DISABLE 5) = false ∧
     (let t := (s.onChan 0 (fun c => (c.sf HR_CSTATE.PHASE 2).sf (IV_STAT.STATE 3) linkDOWN))
      2 ≤ (t.here at0).gf HR_CSTATE.PHASE ∧ (t.here at0).linkState 3 = linkDOWN ∧ (t.enter at0).zReady 0 3 = true)) ∧
    (let s := sLink linkTRAINING id
     let a := stamp (60 * tSec)
     s.fabLive a ∧ (s.here a).linkState 5 = linkTRAINING ∧ ((s.here a).port 5).retraining = false ∧ (s.here a).t0 + 60 * tSec ≤ (s.here a).now) := by
  simp only [State.writable, State.mayWrite, State.fabLive, State.homeLive]
  refine ⟨?_, ?_, ?_, ?_, ?_, ?_, ?_⟩ <;> decide +kernel

/-! ### Witnesses: packets -/

/-- Channel 0 as node 5, changed by `f`, with the packet `k` whole at port `p` and virtual channel `vc`. -/
def sPkt (p vc : Nat) (k : Pkt) (f : Chan → Chan) : State :=
  on (fun c =>
    let c := f (c.sf CS_CFG.NODE 5)
    if p = 6 then c.withLoop [(vc, k.bytes)]
    else c.onPort p (fun x => { x with rx := [(vc, { pkts := [(k.bytes, flitsOf k.bytes.length)] })] }))

/-- What `Chan.takes` gives for the head of a virtual channel, and whether the packet is `k`. -/
def taken0 (c : Chan) (p vc : Nat) : Chan := (c.dropHead p vc).freePlaces (some (p, vc)) (((c.headPkt p vc).map (·.2)).getD 0)
def takesB (c : Chan) (p vc : Nat) (k : Pkt) : Bool := decide ((c.headPkt p vc).map (fun b => parsePkt b.1) = some k)

theorem takes_of_test {c : Chan} {p vc : Nat} {k : Pkt} (t : takesB c p vc k = true) : c.takes p vc k (taken0 c p vc) := by
  simp only [takesB, decide_eq_true_eq] at t
  cases e : c.headPkt p vc with
  | none => rw [e] at t; cases t
  | some b =>
    rw [e] at t
    refine ⟨b.1, b.2, e, by simpa using t, ?_⟩
    simp [taken0, e]

/-- The packet for node 5, at port 5 and virtual channel 15 (or the loop), and the rest of the channel. -/
def pkt5 (t addr aux aux2 : Nat) (data : List Byte) : Pkt :=
  { pkt0 with ptype := t, dst := 5, src := 6, tid := 8191, len := data.length, addr := addr, aux := aux, aux2 := aux2, data := data }
def readP : Pkt := { pkt5 pREAD (fabAddr 5 (hbmSize - 256)) 0 0 [] with len := 256 }
def writeP : Pkt := pkt5 pWRITE (fabAddr 5 spBase) 0 0 [1, 2, 3]
def atomicP : Pkt := pkt5 pATOMIC (fabAddr 5 0x1008) 2 77 (leBytes 8 0)
def oddP : Pkt := pkt5 pATOMIC (fabAddr 5 0x1009) 0 77 []
def farP : Pkt := { pkt5 pREAD (fabAddr 5 (hbmSize + spSize)) 0 0 [] with len := 1 }
def farWr : Pkt := pkt5 pWRITE (fabAddr 5 (hbmSize + spSize)) 0 0 [1]
def dataP : Pkt := pkt5 pDELIVER_DATA (fabAddr 5 0x101000) 7 3 [1, 2, 3]
def descP : Pkt := pkt5 pDELIVER_DESC (fabAddr 5 0x102000) 15 0 (leBytes 64 0)
def xP : Pkt := pkt5 pDELIVER_X (fabAddr 5 0x101000) 7 0 (leBytes 128 0)
def passP : Pkt := pkt5 pPASS 0 0 (7 + 7 * 2 ^ 3 + 255 * 2 ^ 8) []
def partP : Pkt := pkt5 pCE_PARTIAL 0 0 4 (cmd 68 [(0, 9), (4, 1)])
def bellP (kind : Nat) (d : List Byte) : Pkt := bell kind 6 5 d
def oddType : Pkt := pkt5 0x7F 0 0 0 []

def slot7 (c : Chan) : Chan := (configured 7 c).sf (SS_STAT.STATE 7) ssBOUND
def ctx7 (c : Chan) : Chan := ((c.wr (CE_GRP_CFG.off 7) (1 + 3 * 2 ^ 8 + 9 * 2 ^ 24)).wr (CE_GRP_REC.off 7) 0x300000)
def fenced (c : Chan) : Chan := c.sf HR_CSTATE.STATE 5

def pktTests : List (Nat × Nat × Pkt × (Chan → Chan)) :=
  [(5, 15, readP, id), (6, 12, writeP, id), (0, 12, atomicP, id), (0, 12, oddP, id), (0, 12, farP, id), (0, 12, farWr, id), (0, 12, readP, fenced), (5, 2, dataP, slot7),
   (5, 3, descP, slot7), (5, 2, xP, slot7), (5, 3, passP, slot7), (6, 4, passP, id), (5, 4, partP, ctx7),
   (5, 0, bellP bATTENDANCE (cmd 10 [(0, 9), (4, 1)]), ctx7), (5, 0, bellP bBREAK [2, 7, 0], id), (5, 1, bellP bMEND [2, 7, 0], id),
   (5, 0, oddType, id)]

/-- Does the packet of a test arrive at a live switch? -/
def arrivesB (e : Nat × Nat × Pkt × (Chan → Chan)) : Bool :=
  let s := sPkt e.1 e.2.1 e.2.2.1 e.2.2.2
  decide (((s.enter at0).hpd.good = true ∧ (s.here at0).homeOn = true) ∧ (s.here at0).refLost = false) &&
    takesB (s.here at0) e.1 e.2.1 e.2.2.1 && decide (e.1 = 6 ∨ e.2.2.1.dst = (s.here at0).node)

theorem arrives_of_tests {l : List (Nat × Nat × Pkt × (Chan → Chan))} (t : l.all arrivesB = true) (e) (he : e ∈ l) :
    let s := sPkt e.1 e.2.1 e.2.2.1 e.2.2.2
    s.fabLive at0 ∧ (s.here at0).arrives e.1 e.2.1 e.2.2.1 (taken0 (s.here at0) e.1 e.2.1) := by
  have h := List.all_eq_true.mp t e he
  simp only [arrivesB, Bool.and_eq_true, decide_eq_true_eq] at h
  exact ⟨h.1.1, takes_of_test h.1.2, h.2⟩

/-- Every packet arrives at a live switch. -/
theorem witness_arrives : ∀ e ∈ pktTests, let s := sPkt e.1 e.2.1 e.2.2.1 e.2.2.2
    s.fabLive at0 ∧ (s.here at0).arrives e.1 e.2.1 e.2.2.1 (taken0 (s.here at0) e.1 e.2.1) :=
  arrives_of_tests (by decide +kernel)

/-- READ of the last bytes of the HBM and WRITE of the first of the scratchpad; what lies outside; and a fenced channel. -/
theorem witness_RequestsAreAnswered :
    (let c := (sPkt 5 15 readP id).here at0
     readP.ptype = pREAD ∧ c.homeErr = 0 ∧ c.homeAddr readP readP.len = some (hbmSize - 256) ∧ c.flawsIn (hbmSize - 256) 256 = [] ∧
     c.homeAddr writeP 3 = some spBase ∧ c.flawsIn spBase 3 = [] ∧ c.homeAddr farP 1 = none ∧ c.homeAddr farWr 1 = none) ∧
    ((sPkt 0 12 readP fenced).here at0).homeErr = 2 := by decide +kernel

theorem witness_AtomicsReturnTheOldValue :
    let c := (sPkt 0 12 atomicP id).here at0
    c.homeErr = 0 ∧ c.homeAddr atomicP 8 = some 0x1008 ∧ 0x1008 % 8 = 0 ∧ c.flawsIn 0x1008 8 = [] ∧ bits atomicP.aux 0 2 = 2 ∧
    c.homeAddr oddP 8 = some 0x1009 ∧ 0x1009 % 8 ≠ 0 := by decide +kernel

theorem test_compare_swap : (run (.atomicRequest at0 0 12) (sPkt 0 12 atomicP id)).peekLe 0x1008 8 = 77 := by decide +kernel
theorem test_write_request : (run (.write at0 6 0) (sPkt 6 12 writeP id)).peek spBase 4 = [1, 2, 3, 0] := by decide +kernel

def okIs (r : Except Nat (Nat × Nat)) (x : Nat × Nat) : Bool :=
  match r with
  | .ok e => e == x
  | .error _ => false
def errIs (r : Except Nat (Nat × Nat)) (x : Nat) : Bool :=
  match r with
  | .ok _ => false
  | .error e => e == x

theorem witness_DeliversAreTaken :
    (let c := (sPkt 5 2 dataP slot7).here at0
     c.homeErr = 0 ∧ c.flaws = [] ∧ c.homeAddr dataP dataP.data.length = some 0x101000 ∧ dlvOffset dataP = 0 ∧
     okIs (c.dlvOpen dataP 0x101000 (dlvTotal dataP)) (0, 0) = true) ∧
    (let c := (sPkt 5 2 { dataP with aux := 0 } slot7).here at0
     errIs (c.dlvOpen { dataP with aux := 0 } 0x101000 3) 0 = true) ∧
    (let c := (sPkt 5 3 descP slot7).here at0
     c.homeAddr descP 0 = some 0x102000 ∧ dlvTotal descP = 0 ∧
     okIs (c.dlvOpen descP 0x102000 0) (3, 0) = true) ∧
    (let c := (sPkt 5 2 xP slot7).here at0
     64 ≤ xP.data.length ∧ c.homeAddr xP 64 = some 0x101000 ∧
     okIs (c.dlvOpen xP 0x101000 64) (0, 0) = true) := by
  refine ⟨?_, ?_, ?_, ?_⟩ <;> decide +kernel

theorem witness_OtherPacketsAct :
    (let c := (sPkt 5 3 passP slot7).here at0
     c.headVc 5 3 < 4 ∧ c.ssState (bits passP.aux2 0 3) ≠ ssUNBOUND ∧ ((sPkt 6 4 passP id).here at0).headVc 6 0 = 4 ∧
     ((sPkt 6 4 passP id).here at0).bkts = []) ∧
    (let c := (sPkt 5 4 partP ctx7).here at0
     c.ceCtx 9 = [7] ∧ leAt partP.data 0 2 = 9 ∧ c.bkts = [] ∧ later 16 (c.ceTerm 7) 0 = false ∧ leAt partP.data 2 2 = 0 ∧
     c.findBkt 7 0 1 0 = none ∧ c.bktDone 7 0 1 0 = false ∧ c.flawsIn (c.recAddr 7 0) 8 = [] ∧ leAt partP.data 4 4 = 1 ∧ leAt partP.data 8 2 = 0 ∧ c.homeErr = 0 ∧
     bits partP.aux2 0 32 ≤ (partP.data.drop 64).length ∧ bits partP.aux2 32 32 = 0 ∧
     isBell bATTENDANCE (bellP bATTENDANCE (cmd 10 [(0, 9), (4, 1)])) = true) ∧
    (isBell bBREAK (bellP bBREAK [2, 7, 0]) = true ∧ isBell bMEND (bellP bMEND [2, 7, 0]) = true ∧ ptypeKnown oddType.ptype = false) := by
  refine ⟨?_, ?_, ?_⟩ <;> decide +kernel

theorem test_break : (run (.brk at0 5 0) (sPkt 5 0 (bellP bBREAK [2, 7, 0]) id)).known 2 = [7] := by decide +kernel

/-- An operation 8191 outstanding with the continuation `k`. -/
def opFor (k : OpCont) : Op := { tid := 8191, kind := 0, host := false, q := 0xFF, cmd := 0, pkt := pkt0, sent := 0, cont := k }
def respP (t : Nat) : Pkt := pkt5 t 0 0 0 [8, 7, 6, 5, 4, 3, 2, 1]
def respTests : List (Nat × Nat × Pkt × (Chan → Chan)) :=
  [(5, 15, respP pREAD_DATA, fun c => c.withOps [opFor (.toMem 0x1000)]), (5, 15, respP pWRITE_ACK, fun c => c.withOps [opFor .ack]),
   (5, 14, respP pATOMIC_DATA, fun c => c.withOps [opFor (.core 4 31 8 false false)]),
   (5, 14, respP pATOMIC_DATA, fun c => c.withOps [{ opFor (.result 0x1000) with q := 0x18 }]),
   (5, 14, respP pERROR_RESP, fun c => c.withOps [opFor (.core 4 31 8 false false)]), (5, 14, respP pWRITE_ACK, id)]

/-- The responses arrive, with and without their operation; and one has timed out. -/
theorem witness_ResponsesEndOperations :
    (∀ e ∈ respTests, (sPkt e.1 e.2.1 e.2.2.1 e.2.2.2).fabLive at0 ∧ ((sPkt e.1 e.2.1 e.2.2.1 e.2.2.2).here at0).arrives e.1 e.2.1 e.2.2.1
      (taken0 ((sPkt e.1 e.2.1 e.2.2.1 e.2.2.2).here at0) e.1 e.2.1)) ∧
    respTests.map (fun e => (((sPkt e.1 e.2.1 e.2.2.1 e.2.2.2).here at0).opOf e.2.2.1.tid false).map (·.cont)) =
      [some (.toMem 0x1000), some .ack, some (.core 4 31 8 false false), some (.result 0x1000), some (.core 4 31 8 false false), none] ∧
    ((sPkt 5 15 (respP pREAD_DATA) (fun c => c.withOps [opFor (.toMem 0x1000)])).here at0).flaws = [] ∧
    (let s := on (fun c => (c.withOps [opFor (.coreStore 4)]).wr CS_TO.off 3)
     let a := stamp (3 * tUs)
     let c := s.here a
     s.fabLive a ∧ c.opOf 8191 false = some (opFor (.coreStore 4)) ∧ 0 + c.gf CS_TO.RESP_TIMEOUT_US * tUs ≤ c.now ∧
     c.gf CS_TO.RESP_TIMEOUT_US = 3) := by
  simp only [State.fabLive, State.homeLive]
  refine ⟨arrives_of_tests ?_, ?_, ?_, ?_⟩ <;> decide +kernel

/-! ### Witnesses: start-up and roll call -/

/-- SHAKE256 of the empty string and of one byte 0xFF (FIPS 202, worked out apart from the model). -/
def dEmpty : Nat := 0x2f76d56e64270cb5821bb862ea52cd3f24eb3e74eb3f3b23138da80b2bddb946
def dFF : Nat := 0x5c74671cc482482c5651631a6605c48fc4edc8d5e410a93c0a5922f3998dd9c0
theorem test_shake256 : ofLe (shake256 []) = dEmpty ∧ ofLe (shake256 [0xFF]) = dFF := by decide +kernel

/-- A header with the four sections that a channel needs: single bytes 0xFF, and an ENVIRONMENT at the edges of its ranges. -/
def envSection : List Byte :=
  [4800, 5800, 4400, 6000, 240, 640, 192, 720, 2000, 1600].flatMap (fun v => leBytes 2 v)
def dEnv : Nat := 0x6cd75e8ca05620bb2d1bfdaa6b237b1b3e61a3775a7cd20867bef3fa82e05394
def hdr0 : List Byte := cmd 512 ((6, 4) :: ([(1, 0x1000, 1, dFF), (2, 0x1000, 1, dFF), (3, 0x2000, 20, dEnv), (16, 0x1000, 1, dFF)].zipIdx.flatMap
  (fun e => [(256 + 64 * e.2, e.1.1), (258 + 64 * e.2, 1), (260 + 64 * e.2, e.1.2.1), (264 + 64 * e.2, e.1.2.2.1), (288 + 64 * e.2, e.1.2.2.2)])))
def flash0 : Tbl Byte := envSection.zipIdx.foldl (fun t e => tput flashDefault t (0x2000 + e.2) e.1) []

/-- A channel in BOOT, phase P1, and so far in it; and one in phase `n`. -/
def sBoot (b : Boot) : State := on (fun c => (c.withBoot b).sf HR_CSTATE.PHASE 1)
def sPhase (n : Nat) (f : Chan → Chan) : State := on (fun c => f (c.sf HR_CSTATE.PHASE n))
def withHdr (b : Bool) (s : State) : State := s.onHpd (fun h => (h.withHeader (some hdr0)).withFlash (if b then flash0 else []))

theorem witness_ChannelsStartUp :
    live.homeLive at0 ∧
    (let s := withHdr true (sBoot {})
     let c := s.here at0
     s.homeLive at0 ∧ c.inP1 = true ∧ c.boot.loaded = false ∧ c.gf HR_CSTATE.FAULT ≠ 2 ∧ c.boot.secBad = false ∧ c.ucUp = true ∧ c.refLost = false ∧ (s.enter at0).hpd.sylOp = none ∧
     (s.enter at0).hpd.header = some hdr0 ∧ ((s.enter at0).hpd.deliver hdr0 c.num).isSome = true) ∧
    (let s := withHdr false (sBoot {})
     (s.enter at0).hpd.deliver hdr0 (s.here at0).num = none) ∧
    (let c := (sBoot { loaded := true }).here at0
     c.p1Runs = true ∧ c.boot.loaded = true ∧ c.boot.base = false ∧ c.envBad = false ∧
     (c.sf HR_ENV_STAT.VIN_BAND 2).envBad = true) ∧
    (let a := stamp (7 * tSec)
     let c := (sBoot { loaded := true, base := true }).here a
     c.p1Runs = true ∧ c.boot.base = true ∧ c.boot.compute = false ∧ 7 * tSec + c.staggerSlot * (50 * tMs) ≤ c.localTick ∧
     c.boot.envBad = false ∧ c.envForbids = false) ∧
    (let c := ((sBoot { loaded := true, base := true }).onChan 0 (fun c => c.sf HR_THERM.T_BASE (95 * 16))).here at0
     c.envForbids = true) ∧
    (let c := (sBoot { loaded := true, base := true, compute := true }).here at0
     c.p1Runs = true ∧ c.boot.compute = true) ∧
    (let k := bell bROLLCALL 6 5 (leBytes 148 0)
     isRoll 0 k = true ∧ takesB ((sPkt 5 0 k id).here at0) 5 0 k = true ∧ ((sPkt 5 0 k id).here at0).phase < 3 ∧
     (let c := (sPkt 5 0 k (fun c => (c.sf HR_CSTATE.PHASE 3).sf (IV_STAT.STATE 5) linkUP)).here at0
      takesB c 5 0 k = true ∧ c.phase = 3 ∧ c.linkUsable 5 = true ∧ (c.nbr 5).checked = false)) ∧
    (let a := stamp tSec
     let c := (sPhase 3 (fun c => c.sf (IV_STAT.STATE 5) linkUP)).here a
     c.phase = 3 ∧ c.linkUsable 5 = true ∧ (c.nbr 5).checked = false ∧ (c.nbr 5).bell = none ∧
     max (c.boot.p2.getD 0) ((c.nbr 5).upAt.getD 0) + tSec ≤ c.now) := by
  simp only [State.homeLive]; refine ⟨?_, ?_, ?_, ?_, ?_, ?_, ?_, ?_, ?_⟩ <;> decide +kernel

theorem test_section_load : let c := run (.sectionLoad at0) (withHdr true (sBoot {}))
    c.boot.loaded = true ∧ c.sections.length = 4 := by decide +kernel

/-- Bells of roll call, held ones, and a member in P4 with the link of the axis up. -/
def roll (ph ax head : Nat) : RollBell :=
  { phase := ph, axis := ax, line := false, minus := false, state := 0, head := head, hall := 0, node := 5, seat := 0, present := 0,
    bypass := 0, npres := 7, nbyp := 9 }
def rollK (ph ax head : Nat) : Pkt := bell bROLLCALL 6 5 (RollBell.bytes (roll ph ax head))
def rollOk (ph ax head : Nat) : Bool := decide (parseRoll (rollK ph ax head).data = roll ph ax head) && isRoll ph (rollK ph ax head)
def inP4 (c : Chan) : Chan := (((c.sf HR_CSTATE.PHASE 4).sf (IV_STAT.STATE 4) linkUP).sf (IV_STAT.STATE 0) linkUP).sf CS_CFG.NODE 4

theorem witness_RollCallRuns :
    (let s := on inP4
     let c := s.here at0
     s.homeLive at0 ∧ c.axisReady 2 = true ∧ c.candidate 2 = true ∧ (c.lap 2).started = false ∧ c.axisClosed 2 = false ∧
     (c.lap 2).low = none ∧ c.linkUsable 4 = true) ∧
    (let c := (sPkt 5 0 (rollK 1 2 1) inP4).here at0
     takesB c 5 0 (rollK 1 2 1) = true ∧ rollOk 1 2 1 = true ∧ (c.lap 2).low = none ∧ c.lapComplete (roll 1 2 1) = false ∧
     c.axisReady 2 = true ∧ c.linkUsable 4 = true) ∧
    (let c := (sPkt 5 0 (rollK 1 0 1) id).here at0
     takesB c 5 0 (rollK 1 0 1) = true ∧ rollOk 1 0 1 = true ∧ c.lapComplete (roll 1 0 1) = false ∧ c.mayRelease 0 = false) ∧
    (let c := (sPkt 5 0 (rollK 1 2 1) (fun c => c.setLap 2 { low := some 0 })).here at0
     takesB c 5 0 (rollK 1 2 1) = true ∧ (c.lap 2).low = some 0 ∧ ¬ (roll 1 2 1).head ≤ 0) ∧
    (let x := RollBell.bytes (roll 1 0 1)
     let a := stamp (70 * tSec)
     let s := on (fun c => (inP4 c).setLap 0 { held := [(x, false)] })
     let c := s.here a
     s.homeLive a ∧ (c.lap 0).held[0]? = some (x, false) ∧ (parseRoll x).axis = 0 ∧ (parseRoll x).phase ≠ 2 ∧ (c.lap 0).low = none ∧
     c.linkUsable 0 = true ∧ c.axisReady 0 = true ∧ c.pastHold 0 = true) ∧
    (let c := (sPkt 5 0 (rollK 2 2 1) (fun c => (inP4 c).setLap 2 { low := some 1 })).here at0
     takesB c 5 0 (rollK 2 2 1) = true ∧ rollOk 2 2 1 = true ∧ (c.lap 2).low = some 1 ∧ c.lapComplete (roll 2 2 1) = false ∧
     c.axisClosed 2 = false ∧ c.linkUsable 4 = true) ∧
    (let c := (sPkt 5 0 (rollK 3 0 0) (fun c => c.sf HR_CSTATE.ROLE 1)).here at0
     takesB c 5 0 (rollK 3 0 0) = true ∧ (rollK 3 0 0).dst = c.node ∧ rollOk 3 0 0 = true ∧ c.gf HR_CSTATE.ROLE ≠ 0) ∧
    (let c (r : Nat) := (on (fun c => c.sf HR_CSTATE.ROLE r)).here (stamp (72 * tSec))
     (c 1).boot.gotAll = false ∧ (c 1).boot.sentAll = false ∧ (c 1).gf HR_CSTATE.ROLE = 1 ∧ 70 * tSec ≤ (c 1).localTick ∧
     (c 2).gf HR_CSTATE.ROLE = 2 ∧ 72 * tSec ≤ (c 2).localTick) ∧
    (let k := bell bALL_PRESENT 6 5 [7, 1, 0, 0]
     let c := (sPkt 5 0 k id).here at0
     let d := (sPkt 5 0 k (fun c => c.withBoot { c.boot with gotAll := true })).here at0
     takesB c 5 0 k = true ∧ isBell bALL_PRESENT k = true ∧ bit (leAt k.data 0 1) 3 = false ∧ c.boot.gotAll = false ∧
     takesB d 5 0 k = true ∧ d.boot.gotAll = true) := by
  simp only [State.homeLive]; refine ⟨?_, ?_, ?_, ?_, ?_, ?_, ?_, ?_, ?_⟩ <;> decide +kernel

/-! ### Witnesses: heartbeats, recovery and bootstrap -/

def sState (n : Nat) (f : Chan → Chan) : State := on (fun c => f ((c.sf HR_CSTATE.STATE n).wr CS_CFG.off (5 + 511 * 2 ^ 24)))
/-- The same with a packet at port 6. -/
def sBell (n : Nat) (k : Pkt) (f : Chan → Chan) : State := sPkt 6 0 k (fun c => f ((c.sf HR_CSTATE.STATE n).sf CS_CFG.TC0_HOP_LIMIT 511))

theorem witness_HeartbeatsAndFences :
    (let s := sState csREADY id
     let c := s.here at0
     s.homeLive at0 ∧ c.hbOn = true ∧ c.hbSent ≠ c.hbMs ∧ c.hbPorts = [0, 1, 2, 3, 4, 5] ∧ c.tc0.length + c.hbPorts.length ≤ 64 ∧
     (∀ q ∈ c.hbPorts, c.beyond q = c.node ∨ c.routeLinks (c.beyond q) ≤ c.gf CS_CFG.TC0_HOP_LIMIT)) ∧
    (let k := bell bHEARTBEAT 6 5 [6, 0, 0, 2]
     let c := (sBell csREADY k id).here at0
     takesB c 6 0 k = true ∧ isBell bHEARTBEAT k = true ∧ c.beyond 4 = leAt k.data 0 3 % 2 ^ 18) ∧
    (let c := (sState csREADY (fun c => (c.sf HR_HB_STAT.MONITORED 0x30).withHbs [(4, { heard := true }), (5, { misses := 2, state := 2 })])).here at0
     c.hbTick ≠ c.hbMs ∧ bit (c.gf HR_HB_STAT.MONITORED) 4 = true ∧ bit (c.gf HR_HB_STAT.MONITORED) 5 = true ∧ (c.hb 4).heard = true ∧
     (c.hb 5).heard = false ∧ (c.hb 5).misses = 2 ∧ (c.hb 5).state ≠ csFENCED ∧ (c.hb 5).state ≠ csBYPASS) ∧
    (let s := sState csREADY id
     s.writable at0 .host HR_RECOV_CTL.off 1 ∧ (s.here at0).cstate ≠ csFENCED ∧ (s.here at0).cstate ≠ csBYPASS) ∧
    (let k := bell bFAILURE 6 5 (cmd 32 [(0, 1), (2, 5)])
     let c := (sBell csSERVICE k id).here at0
     takesB c 6 0 k = true ∧ isFail 1 k = true ∧ fFAILED k.data = c.node ∧ c.cstate = csSERVICE) ∧
    (let c := (sState csFENCED (fun c => c.withFencedAt (some 0))).here at0
     c.fencedAt = some 0 ∧ c.cstate = csFENCED) := by
  simp only [State.homeLive, State.writable, State.mayWrite]; refine ⟨?_, ?_, ?_, ?_, ?_, ?_⟩ <;> decide +kernel

/-- A chart of four seats at nodes 4 to 7, and a seat of job 1 for a channel. -/
def chart4 (job term gen : Nat) : List Byte :=
  cmd 32 [(0, job), (2, term), (4, gen), (16, 2 ^ 31 + 4), (20, 2 ^ 31 + 5), (24, 2 ^ 31 + 6), (28, 2 ^ 31 + 7)]
def seated (nx : Nat) (c : Chan) : Chan :=
  ((c.withChart (chart4 1 0 0)).wr CH_SEAT.off (2 ^ 14 + 2 ^ 16 + 2 ^ 32)).sf CS_RING.NX_M1 nx
def search0 (st : Nat) (called : Option (Nat × Nat)) (cands : List Nat) : Search :=
  { seat := 0, failed := 4, cause := 1, job := 1, term := 0, cands := cands, called := called, sub := 516, stage := st, old := 0, gen := 0, left := 0 }
def noticeK (seat failed : Nat) : Pkt := bell bFAILURE 6 5 (cmd 32 [(0, 0), (1, 1), (2, failed), (8, 1), (14, seat)])
def subK (op : Nat) : Pkt := bell bSUBSTITUTE 516 5 (cmd 32 [(0, op), (2, 5), (5, 516), (8, 1)])
def alt0 : AltWait := { seat := 2, failed := 6, cause := 1, job := 1, term := 0, since := 0 }
def claim0 : Claim := { job := 1, seat := 0, caller := 5, term := 0, since := 0, up := true }

theorem witness_SubstitutesAreCalled :
    (let k := noticeK 0 4
     let s := sBell csREADY k (seated 1)
     let c := s.here at0
     s.fabLive at0 ∧ takesB c 6 0 k = true ∧ isFail 0 k = true ∧ c.working = true ∧ fJOB k.data = c.job ∧ fOLD k.data = c.gf CH_TERM.CUR ∧
     c.acted.contains (fJOB k.data, fOLD k.data, fSEAT k.data) = false ∧ c.node = c.coordNode (fSEAT k.data) ∧
     c.candidates (fFAILED k.data) = [516] ∧ ((sBell csREADY k (seated 0)).here at0).candidates (fFAILED k.data) = []) ∧
    (let k := noticeK 2 6
     let c := (sBell csREADY k (seated 0)).here at0
     takesB c 6 0 k = true ∧ c.node ≠ c.coordNode (fSEAT k.data) ∧ c.node = c.altNode (fSEAT k.data) ∧ c.altWaits = []) ∧
    (let c := (sState csREADY (fun c => (seated 0 c).withAltWaits [alt0])).here (stamp (5 * tSec))
     c.altWaits.find? (fun w => decide (w.since + 5 * tSec ≤ c.now)) = some alt0 ∧ c.working = true) ∧
    (let c := (sBell csSUBSTITUTE (subK 0) id).here at0
     takesB c 6 0 (subK 0) = true ∧ isSub 0 (subK 0) = true ∧ c.cstate = csSUBSTITUTE ∧ c.claim = none ∧
     ((sBell csREADY (subK 0) id).here at0).cstate ≠ csSUBSTITUTE ∧
     ((sBell csSUBSTITUTE (subK 0) (fun c => c.withClaim (some claim0))).here at0).claim = some claim0) ∧
    (let u := search0 0 (some (516, 0)) [4]
     let c (op : Nat) := (sBell csREADY (subK op) (fun c => c.withSearches [u])).here at0
     takesB (c 1) 6 0 (subK 1) = true ∧ isSub 1 (subK 1) = true ∧ isSub 2 (subK 2) = true ∧
     (c 1).searchOf (subK 1).data (fun u => u.waits (uCALLEE (subK 1).data)) = some u ∧
     (c 2).searchOf (subK 2).data (fun u => u.waits (uCALLEE (subK 2).data)) = some u) ∧
    (let u (l : List Nat) := search0 0 (some (516, 0)) l
     let c (l : List Nat) := (sState csREADY (fun c => c.withSearches [u l])).here (stamp (10 * tMs))
     (c [4]).searches.find? (fun u => u.stage == 0 && u.called.any (fun b => decide (b.2 + 10 * tMs ≤ (c [4]).now))) = some (u [4]) ∧
     (c []).searches.find? (fun u => u.stage == 0 && u.called.any (fun b => decide (b.2 + 10 * tMs ≤ (c []).now))) = some (u [])) ∧
    (let c := (sState csSUBSTITUTE (fun c => c.withClaim (some claim0))).here (stamp (60 * tSec))
     c.claim = some claim0 ∧ c.subRecover = none ∧ claim0.since + 60 * tSec ≤ c.now) := by
  simp only [State.fabLive, State.homeLive]; refine ⟨?_, ?_, ?_, ?_, ?_, ?_, ?_⟩ <;> decide +kernel

/-- RECOVER of seat 1 with term 1; and the same for seat 3, held as well. -/
def recoverB (seat : Nat) : List Byte := cmd 32 [(0, 2), (2, 4), (8, 1), (12, 1), (14, seat)]
def recoverK : Pkt := bell bFAILURE 6 5 (recoverB 1)

theorem witness_RecoversAreApplied :
    (let c := (sBell csREADY recoverK (seated 0)).here at0
     takesB c 6 0 recoverK = true ∧ isFail 2 recoverK = true ∧ c.recSeen.contains (recKey recoverK.data) = false ∧
     ((sBell csREADY recoverK (fun c => c.withRecSeen [(1, 1, 1)])).here at0).recSeen.contains (recKey recoverK.data) = true) ∧
    (let a := stamp (2 * tMs)
     let c := (sState csREADY (fun c => (seated 0 c).withRecovers [(recoverB 3, 0), (recoverB 1, 0)])).here a
     c.working = true ∧ c.applying = none ∧ (recoverB 1, 0) ∈ c.recovers ∧ fOLD (recoverB 1) = c.gf CH_TERM.CUR ∧ 0 + 2 * tMs ≤ c.now ∧
     (∀ r ∈ c.recovers, fOLD r.1 = c.gf CH_TERM.CUR → r.1 = recoverB 1 ∨ fSEAT (recoverB 1) < fSEAT r.1)) ∧
    (let c := (sBell csREADY (subK 3) (fun c => c.withSearches [search0 1 none []])).here at0
     takesB c 6 0 (subK 3) = true ∧ isSub 3 (subK 3) = true ∧
     c.searchOf (subK 3).data (fun u => u.stage == 1 && u.sub == uCALLEE (subK 3).data) = some (search0 1 none [])) ∧
    (let m := chart4 1 1 0
     let f (c : Chan) : Chan := (((c.withClaim (some claim0)).withSubRecover (some (recoverB 1))).withSections [(0, secFABRIC, cmd 384 [(2, 1), (64, 0xFF), (128, 0xFF)])]).poke subImage m
     let c := (sBell csSUBSTITUTE (subK 4) f).here at0
     let y := (taken0 c 6 0).sf CH_CHART_SRC.ADDR (subImage / 64)
     takesB c 6 0 (subK 4) = true ∧ isSub 4 (subK 4) = true ∧ c.claim = some claim0 ∧ claim0.job = uJOB (subK 4).data ∧
     claim0.seat = uSEAT (subK 4).data ∧ c.cstate = csSUBSTITUTE ∧ c.computeOn = true ∧ y.chartAt = (some m, y) ∧ c.subRecover = some (recoverB 1) ∧
     chartOk c.fabric m = true ∧ chJOB m = fJOB (recoverB 1) ∧ chTERM m = fNEW (recoverB 1) ∧ chGEN m = fGEN (recoverB 1) ∧
     chNode m (fSEAT (recoverB 1)) = c.node ∧ chSeatOf m c.node = some 1 ∧ c.flag CH_SEAT.SEATED = false ∧ c.gf CH_TERM.STATE = 0) := by
  refine ⟨?_, ?_, ?_, ?_⟩ <;> decide +kernel

/-- READY with a BOOTSTRAP section, and where it is FLASH a program of one empty piece in section 3. -/
def program0 : List Byte := cmd 32 [(0, 0x5047), (2, 1), (16, 0x1000)]
def sStrap (src : Nat) : State :=
  sState csREADY (fun c => (c.sf SVC_STAT.UP 1).withSections [(2, secBOOTSTRAP, cmd 128 [(0, src), (2, 3), (3, 15), (12, 0x2000), (20, 64)]),
    (3, secPROGRAM, program0)])

theorem witness_BootstrapBegins :
    (∀ n ∈ [0, 1, 2, 3], let c := (sStrap n).here at0
     (sStrap n).homeLive at0 ∧ c.cstate = csREADY ∧ c.flag SVC_STAT.UP = true ∧ c.boot.strapped = false ∧ c.bootstrap = none ∧ c.bsSOURCE = n) ∧
    inMem ((sStrap 1).here at0).bsLOAD ((sStrap 1).here at0).bsLEN = true ∧
    (let c := (sStrap 2).here at0
     c.sections.find? (fun e => e.1 == c.bsPROG && e.2.1 == secPROGRAM) = some (3, secPROGRAM, program0) ∧ digestGiven c.bsDIGEST = false ∧
     imagePieces program0 = some [(0x1000, 0, 0)]) ∧
    (let b : Bootstrap := ⟨3, 2, 0, 0⟩
     let c := (sState csREADY (fun c => c.withBootstrap (some b))).here (stamp tSec)
     c.bootstrap = some b ∧ b.stage = 3 ∧ b.since + tSec ≤ c.now) := by
  simp only [State.homeLive]; refine ⟨?_, ?_, ?_, ?_⟩ <;> decide +kernel

/-! ### Witnesses: the host and network ports -/

/-- A host queue of 64 slots: W = 65536 (R431). -/
def hostWr (chan addr n : Nat) : HostWr := { chan := chan, tid := 7, addr := addr, bytes := leBytes n 1, block := 0, unit := 0, seq := 0 }
def withMb (m : List Byte) (s : State) : State :=
  (s.onChan 0 (fun c => (c.sf HPC_STAT.MB_H2D_BUSY 1).sf SVC_STAT.UP 1)).onHpd (fun h =>
    { h with h2d := m.zipIdx.foldl (fun t e => tput (fun _ => 0) t e.2 e.1) [], h2dMsg := [(0, (1, m.length))] })
def bootMsg : List Byte := cmd 56 [(0, 0x0102), (8, 0x2000), (16, 32),
  (24, 0xaf5e615bda6eff135e3a40b73d04d9829d9cc79f3e693d11be213fef5e25dfe5)]

theorem witness_HostAccessesAct :
    (let s := on (bound 0x80)
     let c := s.here at0
     (s.enter at0).hpd.good = true ∧ (s.enter at0).hpd.flag HP_LINK.UP = true ∧ 64 ≠ c.gf HPC_HQ_CNT.TAIL_CNT ∧ 64 < c.hqW ∧
     (64 + c.hqW - c.gf HPC_HQ_CNT.TAIL_CNT) % c.hqW ≤ c.qDepth 0x80 - c.qFill 0x80 ∧
     ¬ (65 + c.hqW - c.gf HPC_HQ_CNT.TAIL_CNT) % c.hqW ≤ c.qDepth 0x80 - c.qFill 0x80 ∧ (live.here at0).hqW = 0 ∧
     c.gf UC_STAT.STATE ≠ 0 ∧ ((on (fun c => c.sf UC_STAT.STATE 0)).here at0).gf UC_STAT.STATE = 0) ∧
    (let s := withMb bootMsg (sState csREADY id)
     let c := s.here at0
     mbMessage c (s.enter at0).hpd = some (1, bootMsg) ∧ leAt bootMsg 0 2 = 0x0102 ∧ c.flag SVC_STAT.UP = true ∧ c.ucUp = true ∧
     c.cstate = csREADY ∧ ((withMb bootMsg live).here at0).cstate ≠ csREADY) ∧
    (let s := withMb bootMsg (sState csREADY (fun c => c.poke 0x2000 program0))
     let c := s.here at0
     let x := c.peek (leAt bootMsg 8 8) (leAt bootMsg 16 4)
     (∀ y, c.bootstrap = some y → y.stage = 2) ∧ c.flaws = [] ∧ inMem (leAt bootMsg 8 8) (leAt bootMsg 16 4) = true ∧ c.cstate = csREADY ∧
     [c.bsDIGEST, (bootMsg.drop 24).take 32].filter digestGiven ≠ [] ∧
     ([c.bsDIGEST, (bootMsg.drop 24).take 32].filter digestGiven).all (fun g => shake256 x == g) = true ∧ imagePieces x = some [(0x1000, 0, 0)]) ∧
    (let s := onHpd (fun h => { h with inq := [(3, [hostWr 3 4090 8])] })
     let h := (s.enter at0).hpd
     h.hostOpen = true ∧ h.nextIn = some 3 ∧ h.inqOf 3 = [hostWr 3 4090 8] ∧ h.outbFill + h.partLen (hostWr 3 4090 8) ≤ outbMax ∧
     h.partLen (hostWr 3 4090 8) = 6 ∧ h.partLen (hostWr 3 4096 8) = 8) ∧
    (let s := (onHpd (fun h => h.withReads [⟨3, 7, 4096, 2⟩])).onChan 3 (fun c => c.withOps [{ opFor (.toMem 0x1000) with tid := 7, host := true }])
     let h := (s.enter at0).hpd
     let t := (s.enter at0).chan (finOf 3)
     h.flag HP_LINK.UP = true ∧ h.reads[0]? = some ⟨3, 7, 4096, 2⟩ ∧ (t.opOf 7 true).map (·.cont) = some (.toMem 0x1000) ∧ t.flaws = []) ∧
    (((onHpd (fun h => h.sf HP_LINK.CXL 1)).enter at0).hpd.flag HP_LINK.CXL = true ∧
     ((onHpd (fun h => h.sf HP_LINK.CXL 1)).enter at0).hpd.flag HP_LINK.UP = true ∧
     ¬ ((((onHpd (fun h => h.sf HP_LINK.CXL 1)).enter at0).hpd.decoder 3).lock = true ∧
        (((onHpd (fun h => h.sf HP_LINK.CXL 1)).enter at0).hpd.decoder 3).commit = true) ∧
     (let h := ((onHpd (fun h => { h with pba := 2 ^ 63, mask := 0 })).enter at0).hpd
      bit h.pba 63 = true ∧ bit h.mask 63 = false)) := by
  refine ⟨?_, ?_, ?_, ?_, ?_, ?_⟩ <;> decide +kernel

theorem test_doorbell : (run (.doorbell at0 64) (on (bound 0x80))).gf HPC_HQ_CNT.TAIL_CNT = 64 ∧
    (run (.doorbell at0 65) (on (bound 0x80))).gf HPC_CNT_DBREF.COUNT = 1 := by decide +kernel

theorem witness_HostLinkComesAndGoes :
    (live.enter at0).hpd.good = true ∧ (live.enter at0).hpd.flag HP_LINK.UP = true ∧
    ((onHpd (fun h => h.sf HP_LINK.UP 0)).enter at0).hpd.flag HP_LINK.UP = false ∧
    (((on (bound 0x80)).enter at0).chan 0).qDepth 0x80 ≠ 0 := by decide +kernel

/-- The network port up, queue pair 63 ready to send, and region 63 over 4,097 bytes at 0x10000. -/
def sEn (f : Chan → Chan) : State :=
  on (fun c => f ([(EN_CFG.off, 1 + 3 * 2 ^ 2 + 2 * 2 ^ 32 + 7 * 2 ^ 48), (EN_STAT.off, 1), (EN_QP_A.off 63, 3), (EN_MR_A.off 63, 7 + 9 * 2 ^ 8),
    (EN_MR_B.off 63, 0x10000), (EN_MR_C.off 63, 4097), (EN_QP_E.off 63, 10 + (2 ^ 24 - 1) * 2 ^ 24), (EN_QP_F.off 63, 0x20000 + 2 ^ 40),
    (EN_CC.off, 128 + 4 * 2 ^ 16 + 10 * 2 ^ 48)].foldl
    (fun c e => c.wr e.1 e.2) c))
def mrKey : Nat := 63 + 9 * 2 ^ 8
def onQp (f : Qp → Qp) (c : Chan) : Chan := c.withEn { c.en with qps := [(63, f (c.qp 63))] }
def msg0 (op : Nat) : EnMsg := { te := 0, cmd := 0, op := op, psn := 7, pkts := 2, va := 0, key := 0, lcl := 0x30000, len := 4098, got := 0 }

theorem witness_RdmaMessagesAct :
    (live.writable at0 .homeroom (EN_QP_A.off 63) 1 ∧ (live.here at0).qpState 63 = qpRESET ∧ bits 1 0 3 = qpINIT) ∧
    (let s := sEn id
     let c := s.here at0
     s.writable at0 .host (EN_QP_A.off 63) 6 ∧ c.qpState 63 ≠ qpRESET ∧ qpMove (c.qpState 63) (bits 6 0 3) = false ∧
     s.writable at0 .host (EN_QP_A.off 63) 0 ∧ setBits (c.rd (EN_QP_A.off 63)) 0 3 0 = setBits (bits 0 0 6 + bits 0 8 40 * 2 ^ 8) 0 3 0 ∧
     qpMove (c.qpState 63) (bits 0 0 3) = true) ∧
    (let s := sEn id
     let c := s.here at0
     s.baseLive at0 ∧ c.enOn = true ∧ c.en.pausedTo = none ∧ c.en.held = [] ∧ c.qpHears 63 = true ∧ c.psnTurn 63 (2 ^ 24 - 1) = 0 ∧
     c.mrOk mrKey 0x10000 4097 false = true ∧ c.mrOk mrKey 0x10000 4098 false = false ∧ c.mrOk mrKey 0x11000 1 true = true ∧
     c.mrOk mrKey 0xFFFF 1 true = false ∧ c.flaws = [] ∧
     c.gf (EN_QP_F.DEPTH 63) ≠ 0 ∧ (c.gf (EN_QP_G.PROD 63) + 65536 - c.gf (EN_QP_G.CONS 63)) % 65536 ≠ c.gf (EN_QP_F.DEPTH 63)) ∧
    (let c := (sEn (fun c => c.wr (EN_QP_G.off 63) 0x10000)).here at0
     (c.gf (EN_QP_G.PROD 63) + 65536 - c.gf (EN_QP_G.CONS 63)) % 65536 = c.gf (EN_QP_F.DEPTH 63) ∧ c.gf (EN_QP_F.DEPTH 63) ≠ 0) ∧
    ((sEn (fun c => c.wr (EN_QP_F.off 63) 0x20000)).here at0).gf (EN_QP_F.DEPTH 63) = 0 ∧
    (let s := sEn (onQp (fun x => { x with msgs := [msg0 0], retries := 7 }))
     let c := s.here at0
     s.baseLive at0 ∧ c.qpSends 63 = true ∧ (c.qp 63).msgs = [msg0 0] ∧ (msg0 0).op = 0 ∧ 7 = ((msg0 0).psn + (msg0 0).got / 4096) % 2 ^ 24 ∧
     (msg0 0).got + 4096 < (msg0 0).len ∧ c.psnSent 63 9 = true ∧ c.gf EN_CFG.RETRY ≤ (c.qp 63).retries) ∧
    (let s := sEn (onQp (fun x => { x with msgs := [msg0 1], retries := 6 }))
     let a := stamp (2 * tUs)
     let c := s.here a
     c.qpSends 63 = true ∧ (c.qp 63).msgs = [msg0 1] ∧ (msg0 1).op ≠ 0 ∧ c.psnSent 63 7 = true ∧ psnGe 7 ((msg0 1).psn + (msg0 1).got) = true ∧
     (c.qp 63).retries < c.gf EN_CFG.RETRY ∧ c.qpState 63 = qpRTS ∧ (c.qp 63).since + c.gf EN_CFG.ACK_TO_US * tUs ≤ c.now ∧ c.flaws = []) := by
  simp only [State.writable, State.mayWrite, State.baseLive]; refine ⟨?_, ?_, ?_, ?_, ?_, ?_, ?_⟩ <;> decide +kernel

theorem test_rdma_write : (run (.rdmaWriteRequest at0 63 (2 ^ 24 - 1) 0x10000 mrKey [9] false) (sEn id)).peek 0x10000 2 = [9, 0] := by decide +kernel

theorem witness_EthernetPortActs :
    (let s := sEn id
     let c := s.here at0
     s.baseLive at0 ∧ c.enOn = true ∧ (c.qp 63).fell = none ∧ bit 0x8 (c.gf EN_CFG.PRIO) = true ∧ c.flag EN_CFG.IPV6 = false ∧
     5 ≠ c.rd EN_IP0.off % 2 ^ 32 ∧ 0 = c.rd EN_IP0.off % 2 ^ 32) ∧
    (let c := (sEn (fun c => (c.sf EN_STAT.RX_PAUSING 1).withEn { c.en with fill := 0x80000 })).here (stamp 300000)
     c.enOn = true ∧ c.flag EN_STAT.RX_PAUSING = true ∧ 0x80000 ≤ c.en.fill ∧ c.en.xoffAt + 250000 ≤ c.now) ∧
    (let c := (sEn (fun c => c.withEn { c.en with pausedTo := some 5, held := [(live.chan 0).frameOf 1 .cnp] })).here (stamp 5)
     c.enOn = true ∧ c.en.pausedTo = some 5 ∧ 5 ≤ c.now) ∧
    (let c := (sEn (fun c => c.sf EN_CFG.IPV6 1)).here at0
     c.enOn = true ∧ c.flag EN_CFG.IPV6 = true ∧ 0 = c.rd EN_IP0.off + c.rd EN_IP1.off * 2 ^ 64) ∧
    (let c := (sEn id).here (stamp (4 * tUs))
     c.qpState 63 = qpRTS ∧ (c.qp 63).changed + c.gf EN_CC.INC_US * tUs ≤ c.now) ∧
    (let c := (sEn (fun c => c.sf EN_STAT.UP 0)).here at0
     c.flag EN_CFG.EN = true ∧ c.flag EN_STAT.UP = false ∧ c.en.pausedTo = none) := by
  simp only [State.baseLive]; refine ⟨?_, ?_, ?_, ?_, ?_, ?_⟩ <;> decide +kernel

/-- Half of any pause time is within the 250,000 ticks that the refresh of `witness_EthernetPortActs` waits. -/
theorem witness_half_pause : pauseTicks Config.xoffQuanta.toNat / 2 ≤ 250000 := by
  have := Config.xoffQuanta.isLt
  unfold pauseTicks; omega

/-! ### Witnesses: the die link, clocks, sensors and power -/

def sUc (step since : Nat) (f : Chan → Chan) : State :=
  on (fun c => f (((c.sf UC_MAP_LOCAL.GOOD (2 ^ 64 - 1)).sf UC_STAT.FAILS 2).withUc { c.uc with step := step, since := since }))

/-- Every step of the training (the check of a map is the implementation's: it is taken as it is); capabilities 2, 3 and another;
maps of every lane and of none; the last moments before and the first after 1 ms and 10 ms. -/
theorem witness_DieLinkTrains :
    (live.writable at0 .homeroom UC_CTL.off 1 ∧ live.homeLive at0 ∧ (live.here at0).ucUp = true) ∧
    ((sUc 1 0 id).homeLive at0 ∧ ((sUc 1 0 id).here at0).uc.step = 1 ∧ (4 : Nat) ≠ 2 ∧ (4 : Nat) ≠ 3) ∧
    (let s := sUc 4 0 id
     let c := s.here at0
     let g (map : Nat) : Nat := c.ucMapOwn &&& ((2 ^ 68 - 1 - (tget (fun _ => 0) (s.enter at0).hpd.bad 0 ||| (2 ^ 68 - 1 - map % 2 ^ 68))) % 2 ^ 68)
     s.homeLive at0 ∧ c.uc.step = 4 ∧ c.gf UC_STAT.FAILS < 3 ∧ (ucWidth (g (2 ^ 68 - 1)) c.ucRed).isSome = true ∧
     (ucWidth (g 0) c.ucRed).isSome = false) ∧
    (let c := (sUc 5 0 (fun c => (c.sf UC_MAP_PEER.GOOD (2 ^ 64 - 1)).sf UC_VER.PEER_GEN 2)).here at0
     c.uc.step = 5 ∧ c.gf UC_STAT.FAILS < 3 ∧ ucWidth c.ucG c.ucRed = some (3, 0) ∧ ucWidth c.ucG c.ucRed ≠ some (2, 0)) ∧
    (let c := (sUc 5 0 id).here (stamp tMs)
     c.uc.step = 5 ∧ c.uc.since + tMs ≤ c.now ∧ c.gf UC_STAT.FAILS < 3) ∧
    (let c := (sUc 6 0 (fun c => (c.sf UC_MAP_PEER.GOOD (2 ^ 64 - 1)).sf UC_VER.PEER_GEN 2)).here at0
     c.uc.step = 6 ∧ c.gf UC_STAT.FAILS < 3 ∧ ucWidth c.ucG c.ucRed = some (3, 0)) ∧
    (let c := (sUc 7 0 id).here (stamp (10 * tMs))
     c.uc.step = 7 ∧ c.uc.since + 10 * tMs ≤ c.now) := by
  simp only [State.writable, State.mayWrite, State.homeLive]; refine ⟨?_, ?_, ?_, ?_, ?_, ?_, ?_⟩ <;> decide +kernel

theorem test_retrain : (run (.ucRetrain at0 .homeroom) live).gf UC_STAT.STATE = 1 ∧
    (run (.ucLinkUp at0) (sUc 7 0 id)).gf UC_STAT.STATE = 3 := by decide +kernel

/-- Base temperatures at the edges of the bands of R505, and readings of the environment that worsen, better and reach band 3. -/
def sTemp (t : Nat) (f : Chan → Chan) : State := on (fun c => f ((c.sf HR_THERM.T_BASE (t * 16)).withThermTick 7))
theorem witness_ClocksAndSensorsAct :
    (live.homeLive at0 ∧ (live.here at0).computeOn = true ∧ (live.here at0).cstate ≠ csFENCED ∧ (live.here at0).cstate ≠ csBYPASS ∧
     ((on (fun c => c.withRefLost true)).here at0).refLost = true ∧
     ((on (fun c => c.sf HR_CSTATE.PHASE 2)).here at0).mayTrain 5 = true ∧ ((on id).here at0).mayTrain 5 = false ∧
     (live.here at0).sampTick ≠ (live.here at0).localTick / (100 * tUs) + 1 ∧
     (live.here at0).envTick ≠ (live.here at0).localTick / (10 * tMs) + 1) ∧
    (tempOk (some (-40 * 16)) = true ∧ tempOk (some (150 * 16)) = true ∧ tempOk (some (-40 * 16 - 1)) = false ∧ tempOk none = false ∧
     ((List.range 16).filter (fun n => tempOk ((((List.replicate 8 (some 0))[n]? : Option (Option Int))).getD none))).length = 8) ∧
    (∀ t ∈ [92, 93, 95, 105], ((sTemp t id).here at0).thermTick ≠ ((sTemp t id).here at0).localTick / tMs + 1 ∧
     ((sTemp t id).here at0).tooHot = none ∧ toSigned 16 (((sTemp t id).here at0).gf HR_THERM.T_BASE) = (t * 16 : Nat)) ∧
    (let c := (sTemp 103 (fun c => c.sf HR_THERM.HOLD 1)).here at0
     c.flag HR_THERM.HOLD = true ∧ 103 * 16 ≤ toSigned 16 (c.gf HR_THERM.T_BASE) ∧ c.tooHot = none) ∧
    (let c := (sTemp 0 (fun c => ((c.sf (HR_TEMP.VALID 24) 1).sf (HR_TEMP.T 24) (105 * 16)))).here at0
     c.tooHot.isSome = true ∧ c.cstate ≠ csFENCED ∧ c.cstate ≠ csBYPASS ∧ c.thermTick ≠ c.localTick / tMs + 1) ∧
    (let c := (sTemp 0 (fun c => ((c.sf (HR_TEMP.VALID 24) 1).sf (HR_TEMP.T 24) (105 * 16)).sf HR_CSTATE.STATE csBYPASS)).here at0
     c.tooHot.isSome = true ∧ c.cstate = csBYPASS ∧ c.thermTick ≠ c.localTick / tMs + 1) ∧
    (let c := (on (fun c => c.withBands [(0, { seen := 3, run := 2, better := 0 })])).here at0
     envBand c.envBounds 0 (some 0) = 3 ∧ c.gf (bandFld 0) < 3 ∧ (tget (fun _ => ({} : Band)) c.bands 0).seen = 3 ∧
     3 ≤ (tget (fun _ => ({} : Band)) c.bands 0).run + 1) ∧
    (let c := (on (fun c => (c.sf HR_ENV_STAT.FLOW_BAND 2).withBands [(2, { seen := 2, run := 3, better := 99 })])).here at0
     envBand c.envBounds 2 (some 2000) = 0 ∧ 0 < c.gf (bandFld 2) ∧ 100 ≤ (tget (fun _ => ({} : Band)) c.bands 2).better + 1) ∧
    envBand (live.here at0).envBounds 1 none = 2 := by
  simp only [State.homeLive]; refine ⟨?_, ?_, ?_, ?_, ?_, ?_, ?_, ?_, ?_⟩ <;> decide +kernel

theorem witness_PowerComesAndGoes :
    ((State.reset.enter at0).hpd.good = false ∧ (State.reset.enter at0).hpd.conv = true) ∧
    (let h := ((onHpd (fun h => h.sf SEC_STAT.STATE secOPERATIONAL)).enter at0).hpd
     (live.chan 1).cstate = csBOOT ∧ (live.chan 1).phase = 0 ∧ ((on (fun c => c.sf UC_STAT.STATE 0)).chan 0).gf UC_STAT.STATE = 0 ∧
     h.good = true ∧ h.p0 = false ∧ h.gf SEC_STAT.STATE = secOPERATIONAL ∧ h.copyCode 0 true ≠ 0 ∧ h.copyCode 1 true ≠ 0 ∧ h.header = none) ∧
    ((live.enter at0).hpd.good = true ∧ (999 : Nat) < 1000 ∧ (tget (fun _ => (0, 0)) (live.enter at0).hpd.rate 1).2 < 100) ∧
    ((live.enter at0).hpd.conv = true ∧ (live.here at0).gf HR_PSTATE.CUR ≠ 4) := by
  refine ⟨?_, ?_, ?_, ?_⟩ <;> decide +kernel

theorem test_power_good : let s := after (exec (.powerGood at0 0) State.reset)
    s.hpd.good = true ∧ s.hpd.gf SEC_STAT.STATE = secOPERATIONAL ∧ s.hpd.gf MG_STAT.PON_CNT = 1 := by decide +kernel

/-! ### Witnesses: the flash and the security module -/

/-- SYL_CMD of one byte at the last page of copy B, of the last block, and one byte past the flash. -/
def sylV (op addr len : Nat) : Nat := op + addr * 2 ^ 4 + len * 2 ^ 32
def sFlash (op len : Nat) (f : Hpd → Hpd) : State :=
  onHpd (fun h => f ((h.sf SYL_STAT.BUSY 1).withSylOp (some { op := op, copy := 0, addr := 0x3DF0000, len := len, began := 0 })))
theorem witness_FlashOperationsAct :
    (let h := (live.enter at0).hpd
     h.flag SYL_STAT.BUSY = false ∧
     (∀ v ∈ [sylV 1 0x3DF0000 0, sylV 2 0x3DFFFFF 1, sylV 3 0x3FFF000 4096, sylV 4 0 0],
       live.writableHpd at0 .host SYL_CMD.off v ∧ live.writableHpd at0 .monitor SYL_CMD.off v ∧ h.sylRefusal .host v = 0) ∧
     (∀ v ∈ [sylV 1 0x3E00000 0, sylV 2 0x3DFFFFF 2, sylV 3 0x3FFF001 4096],
       live.writableHpd at0 .host SYL_CMD.off v ∧ h.sylRefusal .host v ≠ 0)) ∧
    (∀ op ∈ [1, 2, 3, 4], let h := ((sFlash op 2 id).enter at0).hpd
     h.good = true ∧ h.sylOp = some { op := op, copy := 0, addr := 0x3DF0000, len := 2, began := 0 }) ∧
    ((∀ i, i < 2 → ((sFlash 2 2 id).enter at0).hpd.flashByte (0x3DF0000 + i) = 0xFF) ∧
     ∃ i, i < 2 ∧ ((sFlash 2 2 (fun h => h.withFlash [(0x3DF0001, 0)])).enter at0).hpd.flashByte (0x3DF0000 + i) ≠ 0xFF) := by
  simp only [State.writableHpd, State.mayWriteHpd]
  refine ⟨?_, ?_, ?_, 1, ?_⟩ <;> decide +kernel

theorem test_erase : let s := after (exec (.flashOpDone at0 true) (sFlash 1 0 (fun h => h.withFlash [(0x3DF0000, 0), (0x3DFFFFF, 1)])))
    s.hpd.flash = [] ∧ s.hpd.flag SYL_STAT.BUSY = false := by decide +kernel

/-- UNLOCK of scope 3, ENROL of slot 4 and REVOKE of slot 4, whose fields are all as they must be; the key of slot 0 is the
implementation's, and so is whether a signature is by it. -/
def sSec (op : Nat) (t : List Byte) (f : Hpd → Hpd) : State :=
  onHpd (fun h => f ((((h.sf SEC_STAT.BUSY 1).sf SEC_STAT.STATE secOPERATIONAL).withSecOp (some op)).withSecBuf
    (t.zipIdx.foldl (fun b e => tput bufDefault b e.2 e.1) [])))
theorem witness_SecurityOperationsAct :
    ((∀ e ∈ [(1, 1), (2, 2), (3, 3), (4, 4), (5, 5), (6, 6), (7, 7 + 0x5A * 256), (8, 8)],
      live.writableHpd at0 .host SEC_CTL.off e.2 ∧ live.writableHpd at0 .monitor SEC_CTL.off e.2 ∧
      ¬ (Agent.host = .host ∧ secPolicy e.1 = true ∧ (live.enter at0).hpd.may 7 = false)) ∧
     (live.enter at0).hpd.flag SEC_STAT.BUSY = false ∧ (live.enter at0).hpd.gf SEC_STAT.STATE ≠ secERROR) ∧
    (∀ op ∈ [1, 2, 3, 8], secPolicy op = true ∧ (onHpd (fun h => h.withPerm 0x7F)).writableHpd at0 .host SEC_CTL.off op ∧
      ((onHpd (fun h => h.withPerm 0x7F)).enter at0).hpd.may 7 = false) ∧
    (∀ op ∈ [1, 2, 3, 4, 5, 6, 7, 8], let h := ((sSec op [] id).enter at0).hpd
      h.good = true ∧ h.secOp = some op ∧ h.gf SEC_STAT.STATE ≠ secERROR) ∧
    (((sSec 2 [] (fun h => h.withSeeds none)).enter at0).hpd.noKey = true ∧ ((sSec 2 [] id).enter at0).hpd.noKey = false ∧
     ((sSec 2 [] id).enter at0).hpd.gf SEC_IDX.NEXT % 1024 = 0 ∧
     ((sSec 2 [] (fun h => h.sf SEC_IDX.NEXT (4096 * 1024 - 1))).enter at0).hpd.gf SEC_IDX.NEXT < 4096 * 1024 ∧
     ((sSec 2 [] (fun h => h.sf SEC_STAT.STATE secERROR)).enter at0).hpd.gf SEC_STAT.STATE = secERROR) ∧
    (let h := ((sSec 4 (cmd 64 [(0, 0x4B4E4C55), (44, 3)]) (fun h => h.withNonce true)).enter at0).hpd
     let t := peekBuf h.secBuf 0 64
     leAt t 0 4 = 0x4B4E4C55 ∧ ofLe ((t.drop 45).take 19) = 0 ∧ leAt t 44 1 = 3 ∧ leAt t 4 8 = h.rd SEC_SERIAL.off ∧ h.nonce = true ∧
     (t.drop 12).take 32 = h.nonceBytes) ∧
    (let h := ((sSec 5 (cmd 84 [(0, 0x4C524E45), (12, 4)]) id).enter at0).hpd
     let t := peekBuf h.secBuf 0 84
     leAt t 0 4 = 0x4C524E45 ∧ leAt t 12 1 = 4 ∧ leAt t 13 3 = 0 ∧ leAt t 4 8 = h.rd SEC_SERIAL.off ∧ h.enrolled 4 = false) ∧
    (let h := ((sSec 6 (cmd 64 [(0, 0x4B564552), (12, 4)]) (fun h => (h.withNonce true).sf SEC_FUSE.ENROLLED 8)).enter at0).hpd
     let t := peekBuf h.secBuf 0 64
     leAt t 0 4 = 0x4B564552 ∧ leAt t 12 1 = 4 ∧ ofLe ((t.drop 44).take 20) = 0 ∧ leAt t 4 8 = h.rd SEC_SERIAL.off ∧ h.nonce = true ∧
     (t.drop 13).take 31 = h.nonceBytes.take 31 ∧ h.enrolled 4 = true) := by
  simp only [State.writableHpd, State.mayWriteHpd]
  refine ⟨?_, ?_, ?_, ?_, ?_, ?_, ?_⟩ <;> decide +kernel

theorem test_zeroise : (after (exec (.secOpDone at0 true) (sSec 7 [] id))).hpd.noKey = true := by decide +kernel

/-! ### Witnesses: the monitor and telemetry -/

def mailed (l : String) : State :=
  withMb (cmd 8 [(0, 0x0201)] ++ ascii l ++ [13, 10]) live
theorem witness_MonitorRequestsAreAnswered :
    ((live.enter at0).hpd.good = true ∧ monAligned 4 0x3FFF8 = true ∧ monAligned 4 0x40000 = false ∧ monAligned 3 0xA6000 = false ∧ monAligned 3 0x1FFFF8 = true ∧ monAligned 0 4 = false ∧
     (live.enter at0).monFar 3 = false ∧ (live.enter at0).monFar 4 = false ∧ (live.enter at0).monFar 5 = false ∧
     ((on (fun c => c.sf HR_PSTATE.CUR 4)).enter at0).monFar 0 = true ∧
     ((onHpd (fun h => h.withPerm 0)).enter at0).hpd.monMay 0 0 0 = false ∧
     ((onHpd (fun h => h.withPerm 0)).enter at0).hpd.monMay 0 HR_PSTATE.off 4 = false ∧
     (live.enter at0).hpd.monMay 0 0 0 = true ∧ (live.enter at0).hpd.monMay 0 HR_PSTATE.off 4 = true) ∧
    (((on (fun c => c.sf HR_PSTATE.CUR 4)).enter at0).chan 0).gf HR_PSTATE.CUR = 4 ∧
    (let d := (live.enter at0).chan 0
     d.gf HR_PSTATE.CUR ≠ 4 ∧ d.homeOn = true ∧ d.ptrans = none ∧ d.cstate ≠ csSERVICE) ∧
    (bit ((live.enter at0).hpd.gf SEC_STAT.DEBUG) 0 = false ∧ bit (((onHpd (fun h => h.sf SEC_STAT.DEBUG 1)).enter at0).hpd.gf SEC_STAT.DEBUG) 0 = true) ∧
    ((mailed "PWR").enter at0).mailLine 0 = some (ascii "PWR" ++ [13, 10]) := by
  refine ⟨?_, ?_, ?_, ?_, ?_⟩ <;> decide +kernel

/-- Every request of R546 as a line, and lines that are none. -/
theorem test_lines :
    let p (l : String) : Option MonReq := parseLine (ascii l ++ [13, 10])
    (p "ID" = some .id ∧ p "SENS" = some .sens ∧ p "PWR" = some .pwr ∧ p "RD h 18" = some (.rd 4 0x18) ∧ p "WR c3 8 FF" = some (.wr 3 8 255)) ∧
    (p "LOG c0 0 40" = some (.log 0 0 64) ∧ p "PWR c1 ON" = some (.pwrOn 1) ∧ p "PWR c2 OFF" = some (.pwrOff 2) ∧ p "BAUD 5" = some (.baud 5)) ∧
    (p "SVC c0 HALT" = some (.svcHalt 0) ∧ p "SVC c0 RUN" = some (.svcRun 0) ∧ p "SVC c0 REG 20" = some (.svcReg 0 32)) ∧
    (p "BAUD 6" = none ∧ p "" = none ∧ parseLine (ascii "ID") = none) := by
  refine ⟨?_, ?_, ?_, ?_⟩ <;> decide +kernel

theorem witness_TelemetryIsAnswered :
    ((live.enter at0).hpd.good = true ∧ (live.enter at0).monFar 5 = false ∧ (8 : Nat) ≤ 254 ∧ ((7 : Nat) < 8 ∨ 254 < 7) ∧ (254 : Nat) < 255 ∧
     (0 : Nat) ≠ 1 ∧ (3 : Nat) ≠ 2 ∧ (3 : Nat) ≠ 4) ∧
    ((onHpd (fun h => h.sf MG_ALERT.PEND 1)).enter at0).hpd.flag MG_ALERT.PEND = true ∧
    (let s := on (fun c => c.sf HR_PSTATE.CUR 4)
     s.writableHpd at0 .host MG_PWR_CTL.off (4 + 0 % 4) ∧ s.writableHpd at0 .monitor MG_PWR_CTL.off (4 + 0 % 4) ∧
     ((s.enter at0).chan (finOf 0)).gf HR_PSTATE.CUR = 4) := by
  simp only [State.writableHpd, State.mayWriteHpd]; refine ⟨?_, ?_, ?_⟩ <;> decide +kernel

/-! ### Witnesses: data, formats and invariants -/

def rawCopy : List Byte := cmd 64 [(0, 0x20), (24, 0x100000), (32, 0x3FFFFFFFC0), (40, 64), (44, 1)]
def rawWr : List Byte := cmd 256 [(0, 0x61), (1, 1), (21, 24), (24, 0x100000), (32, 192)]
def sData (q : Nat) (raw : List Byte) : State := on (queued q raw)

theorem data_starts : startsB ((sData 0x18 rawCopy).here at0) 0x18 0x20 specCopy = true ∧
    startsB ((sData 0x80 rawWr).here at0) 0x80 0x61 specHqWrite = true := by decide +kernel

theorem witness_DataCommandsMoveData :
    (let c := (sData 0x18 rawCopy).here at0
     c.startable 0x18 0x20 specCopy (hd c 0x18) ∧ c.flaws = [] ∧ (c.head 0x18).2 = c ∧ (c.queue 0x18).seg = none ∧
     operand none (hd c 0x18).raw 24 true (rowsExtent 1 (copyLen (hd c 0x18).raw) (copySrcStride (hd c 0x18).raw)) = .addr 0x100000 ∧
     copyRows (hd c 0x18).raw = 1 ∧ locOf 0x100000 = .lcl 0x100000 ∧ locOf (opdGlobal none (hd c 0x18).raw 32) = .lcl 0x3FFFFFFFC0) ∧
    (let c := (sData 0x80 rawWr).here at0
     c.startable 0x80 0x61 specHqWrite (hd c 0x80) ∧ c.flaws = [] ∧ (c.head 0x80).2 = c ∧ (c.queue 0x80).seg = none ∧
     locOf (opdGlobal none (hd c 0x80).raw 24) = .lcl 0x100000) ∧
    ((sData 0x18 rawCopy).enter at0).hpd.good = true := by
  refine ⟨⟨startable_of_test data_starts.1, ?_, ?_, ?_⟩, ⟨startable_of_test data_starts.2, ?_, ?_, ?_⟩, ?_⟩ <;> decide +kernel

theorem witness_FlitsAndPacketsRoundTrip :
    (rollK 1 2 1).ptype < 2 ^ 8 ∧ (rollK 1 2 1).len < 2 ^ 16 ∧ (roll 1 2 1).phase < 2 ^ 8 ∧ (roll 1 2 1).npres < 2 ^ 16 ∧
    flit0.plen ≤ 240 ∧ flit0.payload.length = flit0.plen ∧ flit0.ackSeq < 2 ^ 16 ∧ flit0.crVc < 2 ^ 4 ∧ flit0.crCnt < 2 ^ 8 ∧
    parsePkt (rollK 1 2 1).bytes = rollK 1 2 1 := by decide +kernel

theorem reset_memOk : State.reset.memOk := by unfold State.memOk; decide +kernel
theorem witness_EveryStepKeepsMemoryCanonical :
    (on (fun c => c.poke 5 [7])).memOk ∧ ((on (fun c => c.poke 5 [7])).chan 0).mem ≠ [] := by
  unfold State.memOk; decide +kernel
theorem witness_NothingIsHeldWithoutALink : State.reset.hpd.linkOk ∧ live.hpd.linkOk := by
  unfold Hpd.linkOk; decide +kernel
theorem witness_FusesAreNeverCleared :
    let s := onHpd (fun h => (h.sf SEC_FUSE.ENROLLED 9).sf SEC_FUSE.REVOKED 8)
    s.hpd.enrolled 4 = true ∧ s.hpd.revoked 4 = true ∧ s.hpd.enrolled 1 = true ∧ step s = .next s := by
  refine ⟨?_, ?_, ?_, rfl⟩ <;> decide +kernel

/-! ### Witnesses: the effects of queued commands -/

/-- `Chan.clean` of the head, as a test. -/
def cleanB (c : Chan) (q op : Nat) (spec : CmdSpec) : Bool :=
  startsB c q op spec && decide (c.flaws = []) && decide ((c.head q).2 = c) && (c.queue q).started.all (fun y => y.seq != (c.queue q).sseq)

theorem clean_of_test {c : Chan} {q op : Nat} {spec : CmdSpec} (t : cleanB c q op spec = true) : c.clean q op spec (hd c q) := by
  simp only [cleanB, Bool.and_eq_true, decide_eq_true_eq, List.all_eq_true, bne_iff_ne] at t
  exact ⟨startable_of_test t.1.1.1, t.1.1.2, t.1.2, fun _ => t.2⟩

/-- A COPY of two rows within memory, of two rows of its own bytes, and of two rows from another channel to memory and to the host; the
others as they start above, a REG_WR of a plain register among them. -/
def copyNear : List Byte := cmd 64 [(0, 0x20), (24, 0x100000), (32, 0x110000), (40, 64), (44, 2), (48, 128), (52, 64)]
/-- An INLINE operand (Table 3-3): the command's own payload from byte `n` of it on. -/
def inl (n : Nat) : Nat := 3 * 2 ^ 62 + 2 ^ 59 + n
def copyOwn : List Byte := cmd 256 [(0, 0x20), (1, 1), (21, 8), (24, inl 48), (32, 0x110000), (40, 8), (44, 2), (48, 8), (52, 8)]
def copyFar (dst : Nat) : List Byte := cmd 64 [(0, 0x20), (24, fabAddr 5 0x200000), (32, dst), (40, 64), (44, 2), (48, 64), (52, 64)]
def regWrPlain : List Byte := cmd 64 [(0, 0x24), (24, CIC_TOKSRC.off 15), (32, 7)]
def effectTests : List (Nat × Nat × CmdSpec × List Byte × (Chan → Chan)) :=
  [(0x18, 0x20, specCopy, copyNear, id), (0x18, 0x20, specCopy, copyOwn, id), (0x18, 0x20, specCopy, copyFar 0x110000, id),
   (0x18, 0x20, specCopy, copyFar (2 ^ 63 + 4096), id), (0x1F, 0x24, specRegWr, regWrPlain, id),
   (0x18, 0x25, specRegRd, cmd 64 [(0, 0x25), (24, CH_ID.off), (32, 0x110000)], id),
   (0x1F, 0x21, specDeliver, cmd 256 [(0, 0x21), (1, 1), (21, 24), (24, inl 64), (32, fabAddr 5 0x200000), (40, 128), (48, inl 0)], id)]
  ++ transferTests.take 3 ++ transferTests.drop 5

def cleanHere (e : Nat × Nat × CmdSpec × List Byte × (Chan → Chan)) : Bool :=
  ((placed e).enter at0).hpd.good && ((placed e).here at0).computeOn && cleanB ((placed e).here at0) e.1 e.2.1 e.2.2.1

theorem clean_compute : computeTests.all cleanHere = true := by decide +kernel
theorem clean_effects : effectTests.all cleanHere = true := by decide +kernel

/-- Every command whose effect is stated has a state in which it has it. -/
theorem witness_clean : ∀ e ∈ computeTests ++ effectTests, (placed e).coreLive at0 ∧
    ((placed e).here at0).clean e.1 e.2.1 e.2.2.1 (hd ((placed e).here at0) e.1) := by
  intro e he
  have h : cleanHere e = true := by
    simp only [List.mem_append] at he
    exact he.elim (List.all_eq_true.mp clean_compute e) (List.all_eq_true.mp clean_effects e)
  simp only [cleanHere, Bool.and_eq_true] at h
  exact ⟨h.1, clean_of_test h.2⟩

/-- The channel and the head's bytes of a test. -/
def chanAt (l : List (Nat × Nat × CmdSpec × List Byte × (Chan → Chan))) (n : Nat) : Chan :=
  (l[n]?.map (fun e => (placed e).here at0)).getD (live.chan 0)
def rawAt (l : List (Nat × Nat × CmdSpec × List Byte × (Chan → Chan))) (n : Nat) : List Byte :=
  (l[n]?.map (fun e => (hd ((placed e).here at0) e.1).raw)).getD []

/-- What an engine reads for a command has been read. -/
def given {α : Type} (r : Option α × Chan) : Bool := r.1.isSome

/-- The rows of the COPYs, within memory, from the command, and from afar to memory and to the host. -/
theorem witness_DataCommandsMoveData_rows :
    (let raw := rawAt effectTests 0
     raw = copyNear ∧ operand none raw 24 true (rowsExtent (copyRows raw) (copyLen raw) (copySrcStride raw)) = .addr 0x100000 ∧
     copyRows raw = 2 ∧ copyLen raw = 64 ∧ copyLen raw ≤ copyDstStride raw ∧ opdGlobal none raw 32 = 0x110000 ∧
     ∀ i, i < 2 → locOf (0x100000 + i * copySrcStride raw) = .lcl (0x100000 + i * copySrcStride raw) ∧
       locOf (0x110000 + i * copyDstStride raw) = .lcl (0x110000 + i * copyDstStride raw) ∧ 0x100000 + i * copySrcStride raw + 64 ≤ 0x110000) ∧
    (let raw := rawAt effectTests 1
     operand none raw 24 true (rowsExtent (copyRows raw) (copyLen raw) (copySrcStride raw)) = .inl 112 ∧ copyRows raw = 2 ∧
     ∀ i, i < 2 → ((raw.drop (112 + i * copySrcStride raw)).take (copyLen raw)).length = copyLen raw) ∧
    (let raw := rawAt effectTests 2
     operand none raw 24 true (rowsExtent (copyRows raw) (copyLen raw) (copySrcStride raw)) = .addr (fabAddr 5 0x200000) ∧
     ∀ i, i < 2 → locOf (fabAddr 5 0x200000 + i * copySrcStride raw) = .fab 5 (0x200000 + i * 64) ∧
       locOf (opdGlobal none raw 32 + i * copyDstStride raw) = .lcl (0x110000 + i * 64)) ∧
    (let raw := rawAt effectTests 3
     ∀ i, i < 2 → locOf (opdGlobal none raw 32 + i * copyDstStride raw) = .host (4096 + i * 64)) ∧
    (let raw := rawAt transferTests 0
     ∀ i, i < 2 → locOf (opdGlobal none raw 32 + i * copyDstStride raw) = .fab 5 (0x200000 + i * 64)) := by
  and_intros <;> decide +kernel

/-- The registers and the packets of the other transfer commands, and what the host queue's commands name. -/
theorem witness_DataCommandsMoveData_packets :
    (let c := chanAt effectTests 4
     let off := fieldOf (rawAt effectTests 4) 24 27
     (chanDesc off).isSome = true ∧ actsOnWrite off = false ∧ (precReg off && c.claimed off) = false ∧
     c.outranked (.te (0x1F - 0x18)) off = false ∧ off ≠ Q_ERR.off 0x1F ∧ off ≠ HR_LOG_STAT.off) ∧
    (locOf (opdGlobal none (rawAt effectTests 5) 32) = .lcl 0x110000 ∧ locOf (opdGlobal none (rawAt transferTests 5) 32) = .host (2 ^ 52 - 8) ∧
     locOf (opdGlobal none (rawAt transferTests 2) 24) = .fab 5 0x3FFFFFFFF8) ∧
    (∀ e ∈ [(chanAt effectTests 6, rawAt effectTests 6), (chanAt transferTests 1, rawAt transferTests 1)],
      ((e.1.atHand none e.2 24 (dlvLen e.2)).1.any (·.isSome)) = true ∧
      ((e.1.atHand none e.2 48 64).1.any (fun r => r.any (fun ds => ds.length == 64))) = true) ∧
    (extOf (rawAt effectTests 6) = true ∧ locOf (opdGlobal none (rawAt transferTests 1) 32) = .fab 0x3FFFF 0x200000) ∧
    (let raw := rawAt transferTests 12
     locOf (opdGlobal none raw 24) = .lcl 0x100000 ∧ locOf (opdGlobal none raw 32) = .host 4096) ∧
    (let raw := rawAt transferTests 13
     locOf (opdGlobal none raw 24) = .host 4096 ∧ locOf (opdGlobal none raw 32) = .lcl 0x100000) ∧
    (let raw := rawAt transferTests 14
     (((chanAt transferTests 14).atHand none raw 32 0).1.any (·.isSome)) = true ∧ locOf (opdGlobal none raw 24) = .lcl 0x100000 ∧
     locOf (opdGlobal none raw 24 + 64) = .lcl 0x100040) ∧
    locOf (opdGlobal none (rawAt transferTests 15) 24) = .host 8 := by
  and_intros <;> decide +kernel

/-- The operands of the vector engines' commands can be read, with the length that queue 0x10 has at reset. -/
theorem witness_DataCommandsMoveData_vectors :
    (let c := chanAt computeTests 5
     let raw := rawAt computeTests 5
     ∀ e ∈ [(32, 26), (40, 27), (48, 28)], given (c.readStream none raw e.1 (fieldOf raw e.2 e.2) (c.vl 0x13)) = true) ∧
    (let c := chanAt computeTests 6
     let raw := rawAt computeTests 6
     given (c.readStream none raw 32 (fieldOf raw 26 26) (c.vl 0x10)) = true) ∧
    (let c := chanAt computeTests 7
     let raw := rawAt computeTests 7
     let len := c.vl 0x10
     given (c.fetchOpd none raw 40 (elemBytes 0x10 len)) = true ∧
     given (c.fetchOpd none raw 32 (opdBytes none raw 32 (fieldOf raw 26 26) len)) = true ∧ opdPlace none raw 48 + 4 * len ≤ opdPlace none raw 56) ∧
    (let c := chanAt computeTests 8
     let raw := rawAt computeTests 8
     let len := c.vl 0x13
     given (c.fetchOpd none raw 40 (elemBytes 0x10 len)) = true ∧
     given (c.fetchOpd none raw 32 (elemBits (fieldOf raw 26 26) / 8 * len)) = true) := by
  and_intros <;> decide +kernel

/-- A drain with bias and one scale a column, and free ports; the places of the loads stand above. -/
theorem witness_LoaderRampsAndStagesMove_commands :
    (∀ n ∈ [0, 1, 2, 3, 4], ((chanAt computeTests n).me 15).port = [] ∧ ((chanAt computeTests n).me 0).port = [] ∧
      ((chanAt computeTests n).me 15).passes = [] ∧ ((chanAt computeTests n).me 0).passes = []) ∧
    (let e := (0x0F, 0x12, specMeDrain, cmd 64 [(0, 0x12), (24, 0x100000), (32, 1024), (36, 2), (38, 2046), (42, 12), (48, 0x140000)],
       fun c : Chan => c)
     let c := (placed e).here at0
     let raw := (hd c 15).raw
     let p := c.drainParm 15 raw
     cleanHere e = true ∧ p.perCol = true ∧ p.biasEn = true ∧ p.rows = 2 ∧ p.accRow = 2046 ∧ actGrant p.act = false ∧
     given (c.fetchOpd none raw 48 p.vecBytes) = true) := by
  and_intros <;> decide +kernel

/-! ### Witnesses: the other clauses on slots, versions, updates and collectives -/

/-- A BIND without its backward lesson; a START beyond V3; a DRAIN whose calls have all begun; an UNBIND with a record left; discards from
empty queues. -/
theorem witness_SlotActionsAct_refused :
    (let s := on (fun c => (configured 7 c).wr (SS_VS_BLESSON.off 7 0) 0)
     s.writable at0 .homeroom (SS_CTL.off 7) 1 ∧ (s.here at0).ssState 7 = ssUNBOUND ∧ (s.here at0).bindCheck 7 = 5 ∧
     (s.here at0).bindImages 7 = (false, s.here at0)) ∧
    (let s := sBound.onChan 0 (fun c => (c.sf (SS_CFG.VSTAGES 7) 3).sf (VS_CFG.MODE 7) 2)
     s.writable at0 .host (SS_CTL.off 7) 2 ∧ (s.here at0).ssState 7 = ssBOUND ∧
     4 < ((s.here at0).gf (SS_CFG.VSTAGES 7) + 1) * (s.here at0).vsE 7) ∧
    (let s := sSlot (fun x => { x with launches := [launch0], recs := [rec0] })
     s.writable at0 .host (SS_CTL.off 7) 3 ∧ (s.here at0).ssState 7 = ssACTIVE ∧ (s.here at0).callsStarted 7 = true ∧
     ((s.here at0).slot 7).launches ≠ []) ∧
    (let s := sBound.onChan 0 (fun c => c.onSlot 7 (fun x => { x with recs := [rec0] }))
     s.writable at0 .host (SS_CTL.off 7) 4 ∧ (s.here at0).ssState 7 = ssBOUND ∧ ((s.here at0).slot 7).recs ≠ [] ∧
     s.writable at0 .host (SS_CTL.off 7) 6 ∧ ((s.here at0).slot 7).headEnt false = none ∧
     s.writable at0 .host (SS_CTL.off 7) 7 ∧ ((s.here at0).slot 7).headEnt true = none) ∧
    (live.writable at0 .host (SS_CTL.off 7) 6 ∧ live.writable at0 .host (SS_CTL.off 7) 7 ∧ (live.here at0).ssState 7 = ssUNBOUND) := by
  simp only [State.writable, State.mayWrite]; refine ⟨?_, ?_, ?_, ?_, ?_⟩ <;> decide +kernel

/-- A VS_DONE of a bound slot, refused even in the cycle of a hardware write of it. -/
theorem witness_ConfigurationIsTakenWhenIdle_store :
    (chanDesc (VS_DONE.off 7)).isSome = true ∧ sBound.writable at0 .host (VS_DONE.off 7) 9 ∧ (sBound.here at0).ssState 7 ≠ ssUNBOUND ∧
    live.writable at0 .host (VS_DONE.off 7) 9 ∧ (precReg (VS_DONE.off 7) && (live.here at0).claimed (VS_DONE.off 7)) = false := by
  simp only [State.writable, State.mayWrite]; and_intros <;> decide +kernel

/-- Entry 0 of slot 7 is due to retire; a cycle later it does. -/
def sRetire : State :=
  on (fun c => (((c.sf (VS_CFG.MODE 7) 2).wr (VS_ENT_A.off 7 0) 1).sf (VS_ENT_A.STATE 7 3) 1).sf (VS_ENT_A.BASE_STEP 7 3) 1)

theorem test_retires_at_the_end_of_the_cycle :
    (run (.vsRetired at0 7 0) sRetire).vsReady 7 0 = true ∧ (run (.vsRetired at0 7 0) sRetire).retiring = [(7, 0)] ∧
    ((run (.vsRetired at0 7 0) sRetire).advance 4).vsReady 7 0 = false := by decide +kernel

/-- One of a marked entry that is still due, and one that is not any more. -/
theorem witness_VersionsAndJournalsAdvance_retiring :
    (sRetire.here at0).vsReady 7 0 = true ∧ (run (.vsRetired at0 7 0) sRetire).retiring = [(7, 0)] ∧
    (live.here at0).vsReady 7 0 = false ∧ ((live.here at0).withRetiring [(7, 0)]).retiring = [(7, 0)] ∧ (live.here at0).now / 4 < 4 / 4 := by
  decide +kernel

/-- An update of an older term; a block whose inputs are at hand; a derivation. -/
def staleCmd : List Byte := cmd 64 [(0, 0x40), (24, 0x50000), (32, 0x40000), (40, 1), (48, 0x60000)]
def staleTest : Nat × Nat × CmdSpec × List Byte × (Chan → Chan) := (0x14, 0x40, specUuUpdate, staleCmd, withTable)
def blk2 : UuBlk := ⟨0, 2, leBytes 256 0, leBytes 256 1, []⟩
def run2 : UuRun := ⟨0, cmd 128 [(0, 0x4254), (2, 1), (64, 0x20000), (72, 0x30000), (96, 64)], cmd 320 [(2, 1), (76, 1)], 0, none, 0, 1, [], [blk2]⟩

theorem witness_VersionsAndJournalsAdvance_update :
    (let c := (placed staleTest).here at0
     cleanHere staleTest = true ∧ c.ops = [] ∧ c.opq = [] ∧ c.gathered = [] ∧
     (c.updateInputs none (hd c 0x14).raw).1.any (fun t => t.length == 64 + 64 * tNBLK t) = true ∧
     (c.updateInputs none (hd c 0x14).raw).2.isSome = true ∧ fieldOf (hd c 0x14).raw 40 41 ≠ c.gf UU_TERM.TERM) ∧
    (let s := on (fun c => (startedQ 0x14 (cmd 64 [(0, 0x40)]) c).withUu (some run2))
     let c := s.here at0
     let e := tEntry run2.table 0
     s.coreLive at0 ∧ c.uu = some run2 ∧ c.isRunning qUU 0 = true ∧ run2.blks.find? (fun y => y.j == 0) = some blk2 ∧ blk2.st = 2 ∧
     (∀ y ∈ run2.blks, y.st ≠ 0) ∧ c.flaws = [] ∧ eBUDDY e = 0 ∧ c.openCycle c.cyc8 = true ∧
     locOf (slotAt run2.parm e (!(c.journal e).2)) = .lcl (0x30000 + slotBytes run2.parm 64) ∧
     eJOURNAL e + 32 ≤ 0x30000) ∧
    (let c := chanAt computeTests 11
     let raw := rawAt computeTests 11
     ((c.atHand none raw 24 (dvMaster raw)).1.any (·.isSome)) = true ∧ locOf (opdGlobal none raw 32) = .lcl 0x110000 ∧
     (let fmt := c.promote 0x14 (fieldOf raw 41 41)
      isMx fmt = true ∧ locOf (0x110000 + mxBase fmt (dvCount raw)) = .lcl (0x110000 + mxBase fmt (dvCount raw)))) := by
  simp only [State.coreLive]; and_intros <;> decide +kernel

/-- The collective commands find no bucket, in the term of their context; and one of another term. -/
def staleCe : Nat × Nat × CmdSpec × List Byte × (Chan → Chan) :=
  (0x20, 0x50, specCeCmd, cmd 64 [(0, 0x50), (24, 1), (35, 2), (36, 32), (40, 0x100000), (48, 0x110000)],
   fun c => (c.wr (CE_GRP_CFG.off 0) (1 + 3 * 2 ^ 8 + 2 ^ 24)).wr (CE_GRP_TERM.off 0) 1)

theorem witness_ContextsAndDeadlines_commands :
    (∀ e ∈ [(7, 7), (8, 0), (9, 0)], let c := chanAt transferTests e.1
     let raw := rawAt transferTests e.1
     (c.ceCtx (ceGROUP raw)).head? = some e.2 ∧ (hd c 0x20).redo = none ∧ c.bkts = [] ∧ ceTERM raw = c.ceTerm e.2 ∧
     c.bktDone e.2 (ceTERM raw) (ceSTEP raw) (ceBUCKET raw) = false ∧ c.gf (CE_GRP_CARRY.ADDR e.2) = 0 ∧
     given (c.fetchOpd none raw 40 (if e.1 = 8 then c.ceExtent raw false else 4 * ceCOUNT raw)) = true) ∧
    (let c := (placed staleCe).here at0
     cleanHere staleCe = true ∧ c.ceCtx 1 = [0] ∧ (hd c 0x20).redo = none ∧ c.bkts = [] ∧ ceTERM (hd c 0x20).raw ≠ c.ceTerm 0) ∧
    (lateBkt.gathers = false ∧ ({ lateBkt with asm := [(3 * 256, [])] } : Bkt).gathers = true ∧
     lateBkt.seen.any (fun e => decide (e.1 ≤ 2)) = false) := by
  refine ⟨?_, ?_, ?_⟩ <;> decide +kernel

/-! ### Witnesses: the other instructions of the cores -/

/-- mstatus with FS initial; and the user mode with TW. -/
def fsInit (x : Core) : Core := x.setCs csrMSTATUS (2 ^ 13)
def userTw (x : Core) : Core := { x.setCs csrMSTATUS (2 ^ 21) with user := true }

/-- LUI, AUIPC, JALR; CSR accesses that read and write, only read, and are refused; floating-point operations on both register files, one
of a reserved rounding mode and one while FS is Off; fused ones; FENCE; WFI. -/
def moreTests : List (Nat × Nat × Nat × Rv × (Core → Core)) :=
  [(0, 0xFFFFFFB7, 4, .lui 31 (2 ^ 64 - 4096), id), (4, 0x1097, 4, .auipc 1 4096, id), (3, iType 0x67 0 1 5 0xFFF, 4, .jalr 1 5 (2 ^ 64 - 1), id),
   (4, iType 0x73 1 1 2 0x340, 4, .csr 1 1 2 0x340, id), (0, iType 0x73 2 1 0 csrMEPC, 4, .csr 2 1 0 csrMEPC, id),
   (0, iType 0x73 1 1 2 0xF14, 4, .csr 1 1 2 0xF14, id), (0, iType 0x73 2 1 0 0x7C0, 4, .csr 2 1 0 0x7C0, id),
   (0, rType 0x53 0 0 1 2 3, 4, .fop .add 1 2 3 0, fsInit), (0, rType 0x53 2 0x50 1 2 3, 4, .fop .eq 1 2 3 2, fsInit),
   (0, rType 0x53 5 0 1 2 3, 4, .fop .add 1 2 3 5, fsInit), (0, rType 0x53 0 0 1 2 3, 4, .fop .add 1 2 3 0, id),
   (4, rType 0x43 0 0x10 1 2 3, 4, .fma 0 1 2 3 4 0, fsInit), (4, rType 0x43 0 0x10 1 2 3, 4, .fma 0 1 2 3 4 0, id),
   (0, 0x0FF0000F, 4, .fence, id), (0, 0x10500073, 4, .wfi, id), (0, 0x10500073, 4, .wfi, userTw)]

theorem more_tests : moreTests.all (fun e => ((sCore e.1 e.2.1 e.2.2.2.2).enter at0).hpd.good &&
    ((sCore e.1 e.2.1 e.2.2.2.2).here at0).computeOn &&
    atB ((sCore e.1 e.2.1 e.2.2.2.2).here at0) e.1 e.2.1 e.2.2.1 e.2.2.2.1) = true := by decide +kernel

/-- The instructions that a core can be at. -/
theorem witness_CoreInstructionsExecute : ∀ e ∈ moreTests, (sCore e.1 e.2.1 e.2.2.2.2).coreLive at0 ∧
    ((sCore e.1 e.2.1 e.2.2.2.2).here at0).atInstr e.1 e.2.1 e.2.2.1 e.2.2.2.1 (((sCore e.1 e.2.1 e.2.2.2.2).here at0).fetch e.1).2 := by
  intro e he
  have h := List.all_eq_true.mp more_tests e he
  simp only [Bool.and_eq_true] at h
  exact ⟨h.1, at_of_test h.2⟩

/-- Core 0 with a store of its own outstanding, at a FENCE and at an AMO that releases. -/
def sStores (w : Nat) : State := (sCore 0 w (fun x => x.xw 1 tcmBase)).onChan 0 (fun c => c.withOps [opFor (.coreStore 0)])

/-- What each of them finds in its core. -/
theorem witness_CoreInstructionsExecute_cases :
    (let c := (sCore 0 0 id).here at0
     (c.csrRead 0 0x340).isSome = true ∧ (c.core 0).csrAllowed 0x340 true = true ∧ (c.core 0).csrAllowed csrMEPC false = true ∧
     (c.core 0).csrAllowed 0xF14 true = false ∧ (c.csrRead 0 0xF14).isSome = true ∧ c.csrRead 0 0x7C0 = none ∧ (c.core 0).fsOn = false) ∧
    (let x := fsInit {}
     x.fsOn = true ∧ x.rnd 0 = some .rne ∧ x.rnd 5 = none ∧ Fop.add.rounds = true ∧ Fop.eq.rounds = false ∧
     (fopRun .add .rne 0 0 0).1.1 = true ∧ (fopRun .eq .rne 0 0 0).1.1 = false) ∧
    (atB ((sStores 0x0FF0000F).here at0) 0 0x0FF0000F 4 .fence = true ∧ (((sStores 0x0FF0000F).here at0).fetch 0).2.coreWaitsRemote 0 = true ∧
     ((live.here at0).coreWaitsRemote 0) = false) ∧
    ((userTw {}).user = true ∧ bit ((userTw {}).cs csrMSTATUS) 21 = true ∧ ({} : Core).user = false) := by
  and_intros <;> decide +kernel

theorem test_fence_waits : ((run (.coreInstruction at0 0) (sStores 0x0FF0000F)).core 0).pc = BitVec.ofNat 64 tcmBase ∧
    ((run (.coreInstruction at0 0) (sCore 0 0x0FF0000F id)).core 0).pc = BitVec.ofNat 64 (tcmBase + 4) := by decide +kernel

/-- Floating-point loads and stores of the TCM's last word, with FS on and Off; an AMO that waits for its core's stores. -/
theorem witness_CoreMemoryInstructionsExecute_float :
    (∀ f ∈ [fsInit, id], let g (x : Core) : Core := f (x.xw 1 (tcmBase + 0x3FFFC))
     atB ((sCore 0 (iType 0x07 2 5 1 0) g).here at0) 0 (iType 0x07 2 5 1 0) 4 (.flw 5 1 0) = true ∧
     atB ((sCore 0 (rType 0x27 2 0 0 1 5) g).here at0) 0 (rType 0x27 2 0 0 1 5) 4 (.fsw 1 5 0) = true) ∧
    regionOf (tcmBase + 0x3FFFC) = .tcm 0x3FFFC ∧ (fsInit {}).fsOn = true ∧ ({} : Core).fsOn = false ∧
    (let w := rType 0x2F 3 1 5 1 6
     atB ((sStores w).here at0) 0 w 4 (.amo 0 true 5 1 6) = true ∧ bit w 25 = true ∧
     (((sStores w).here at0).fetch 0).2.coreWaitsRemote 0 = true) := by
  and_intros <;> decide +kernel

/-! ### Witnesses: the other clauses on packets and links -/

/-- The later packet of a transfer whose slot holds three of its six bytes, without and with its descriptor, and one of no transfer; a
descriptor that comes after all its data, before, and without any. -/
def laterP : Pkt := pkt5 pDELIVER_DATA (fabAddr 5 0x101003) 7 (6 + 3 * 2 ^ 32) [4, 5, 6]
def lastP : Pkt := pkt5 pDELIVER_DESC (fabAddr 5 0x102000) 15 6 (leBytes 64 0)
def filled (bwd : Bool) (d got : Nat) (desc : Option (List Byte)) (c : Chan) : Chan :=
  (slot7 c).onSlot 7 (fun x => x.setDoor bwd d 0 { st := 1, src := 6, total := 6, got := got, desc := desc })
def laterTests : List (Nat × Nat × Pkt × (Chan → Chan)) :=
  [(5, 2, laterP, filled false 0 3 none), (5, 2, laterP, filled false 0 3 (some (leBytes 64 0))), (5, 2, laterP, slot7),
   (5, 3, lastP, filled true 3 6 none), (5, 3, lastP, filled true 3 3 none), (5, 3, lastP, slot7)]

theorem witness_DeliversAreTaken_later :
    (∀ e ∈ laterTests, let s := sPkt e.1 e.2.1 e.2.2.1 e.2.2.2
      s.fabLive at0 ∧ (s.here at0).arrives e.1 e.2.1 e.2.2.1 (taken0 (s.here at0) e.1 e.2.1)) ∧
    (dlvOffset laterP = 3 ∧ dlvTotal lastP = 6 ∧ rxSlot laterP = 7 ∧ rxBwd laterP = false ∧ rxSlot lastP = 7 ∧ rxBwd lastP = true) ∧
    (∀ f ∈ [filled false 0 3 none, filled false 0 3 (some (leBytes 64 0))], let c := (sPkt 5 2 laterP f).here at0
      c.homeErr = 0 ∧ c.flaws = [] ∧ c.homeAddr laterP 3 = some 0x101003 ∧ okIs (c.dlvLater laterP 0x101003) (0, 0) = true) ∧
    (errIs (((sPkt 5 2 laterP slot7).here at0).dlvLater laterP 0x101003) 4 = true ∧
     errIs (((sPkt 5 3 lastP slot7).here at0).dlvLater lastP 0x102000) 4 = true) ∧
    (∀ n ∈ [6, 3], let c := (sPkt 5 3 lastP (filled true 3 n none)).here at0
      c.homeAddr lastP 0 = some 0x102000 ∧ okIs (c.dlvLater lastP 0x102000) (3, 0) = true ∧
      ((c.slot 7).doorSlot true 3 0).got = n ∧ ((c.slot 7).doorSlot true 3 0).total = 6) := by
  refine ⟨arrives_of_tests ?_, ?_, ?_, ?_, ?_⟩ <;> decide +kernel

/-- An attendance for a bucket that has had one, and that has not; BREAK and MEND where the onward link is up, and where it trains. -/
def attP : Pkt := bellP bATTENDANCE (cmd 10 [(0, 9), (4, 1)])
def heardBkt (b : Bool) : Bkt := { id := 0, g := 7, term := 0, step := 1, bkt := 0, timer := some 0, bell := b }
def ringTests : List (Nat × Nat × Pkt × (Chan → Chan)) :=
  [(5, 0, attP, fun c => (ctx7 c).withBkts [heardBkt true]), (5, 0, attP, fun c => (ctx7 c).withBkts [heardBkt false]),
   (5, 0, bellP bBREAK [2, 7, 0], fun c => c.sf (IV_STAT.STATE 4) linkUP), (5, 0, bellP bMEND [2, 7, 0], fun c => c.sf (IV_STAT.STATE 4) linkTRAINING)]

theorem witness_OtherPacketsAct_ring :
    (∀ e ∈ ringTests, let s := sPkt e.1 e.2.1 e.2.2.1 e.2.2.2
      s.fabLive at0 ∧ (s.here at0).arrives e.1 e.2.1 e.2.2.1 (taken0 (s.here at0) e.1 e.2.1)) ∧
    (∀ b : Bool, let c := (sPkt 5 0 attP (fun c => (ctx7 c).withBkts [heardBkt b])).here at0
      c.ceCtx (leAt attP.data 0 2) = [7] ∧ later 16 (c.ceTerm 7) (leAt attP.data 2 2) = false ∧
      c.findBkt 7 (leAt attP.data 2 2) (leAt attP.data 4 4) (leAt attP.data 8 2) = some (heardBkt b) ∧ c.bkt? 0 = some (heardBkt b)) ∧
    (axisOf 5 = 2 ∧ oppositePort 5 = 4 ∧
     (let c := (sPkt 5 0 (bellP bBREAK [2, 7, 0]) (fun c => c.sf (IV_STAT.STATE 4) linkUP)).here at0
      c.linkId 4 ≠ 7 ∧ c.linkUsable 4 = true) ∧
     (let c := (sPkt 5 0 (bellP bMEND [2, 7, 0]) (fun c => c.sf (IV_STAT.STATE 4) linkTRAINING)).here at0
      c.linkId 4 ≠ 7 ∧ c.linkState 4 = linkTRAINING)) := by
  refine ⟨arrives_of_tests ?_, ?_, ?_⟩ <;> decide +kernel

/-- A damaged flit and a NAK inside a lane exchange; a lane in use that a spare can replace, and one that is not in use. -/
theorem witness_FlitsAreRetried_quiet :
    (let s := fromZ [flit0.bytes] [.nak 7] (sLink linkUP (fun x => { x with quietUntil := 20 * tUs }))
     s.fabLive at0 ∧ (s.here at0).linkUsable 5 = true ∧ (s.here at0).now < ((s.here at0).port 5).quietUntil ∧
     .nak 7 ∈ ((s.enter at0).zFar 0 5).ctl) ∧
    ((sLink linkUP id).here at0).now ≥ (((sLink linkUP id).here at0).port 5).quietUntil := by
  simp only [State.fabLive, State.homeLive]; refine ⟨?_, ?_⟩ <;> decide +kernel

theorem witness_LinksNegotiateAndTrain_lanes :
    (let s := (sLink linkUP (fun x => { x with lanes := List.range (lanesOf 5) })).onChan 0 (fun c => c.sf (IV_LANES.GOOD 5) (2 ^ 56 - 1))
     let c := s.here at0
     s.fabLive at0 ∧ c.linkUsable 5 = true ∧ (c.port 5).lanes.contains 0 = true ∧ c.freeSpare 5 = some (lanesOf 5) ∧
     (c.port 5).lanes.contains (lanesOf 5) = false) := by
  simp only [State.fabLive, State.homeLive]; decide +kernel

/-! ### Witnesses: the other clauses on failures, the ports and the monitor -/

/-- A channel fenced in P1 with its sections loaded, and one fenced later. -/
theorem witness_HeartbeatsAndFences_powerdown :
    (let c := (sState csFENCED (fun c => ((c.withFencedAt (some 0)).sf HR_CSTATE.PHASE 1).withBoot { c.boot with loaded := true })).here at0
     c.fencedAt = some 0 ∧ c.cstate = csFENCED ∧ c.phase = 1 ∧ c.boot.loaded = true) ∧
    ((sState csFENCED (fun c => (c.withFencedAt (some 0)).sf HR_CSTATE.PHASE 5)).here at0).phase ≠ 1 := by
  refine ⟨?_, ?_⟩ <;> decide +kernel

/-- A notice that the alternate hears for the first time, has heard, or whose RECOVER it has seen. -/
theorem witness_SubstitutesAreCalled_alternate :
    (let k := noticeK 2 6
     let c (f : Chan → Chan) := (sBell csREADY k (fun c => f (seated 0 c))).here at0
     ((c id).altHeard.contains (fJOB k.data, fOLD k.data, fSEAT k.data) = false ∧
      (c id).recSeen.contains (fJOB k.data, (fOLD k.data + 1) % 2 ^ 16, fSEAT k.data) = false) ∧
     (c (fun c => c.withAltHeard [(1, 0, 2)])).altHeard.contains (fJOB k.data, fOLD k.data, fSEAT k.data) = true ∧
     (c (fun c => c.withRecSeen [(1, 1, 2)])).recSeen.contains (fJOB k.data, (fOLD k.data + 1) % 2 ^ 16, fSEAT k.data) = true ∧
     (c id).node ≠ (c id).coordNode (fSEAT k.data) ∧ (c id).node = (c id).altNode (fSEAT k.data)) := by decide +kernel

/-- A RECOVER where no port trains, and where the first one of its spreading does. -/
theorem witness_RecoversAreApplied_spreading :
    (let c := (sBell csREADY recoverK (fun c => (seated 0 c).sf (IV_STAT.STATE 0) linkUP)).here at0
     takesB c 6 0 recoverK = true ∧ (∀ q ∈ apPorts 6, c.linkState q ≠ linkTRAINING) ∧ c.spread = [] ∧ c.linkUsable 0 = true) ∧
    (let c := (sBell csREADY recoverK (fun c => (seated 0 c).sf (IV_STAT.STATE 0) linkTRAINING)).here at0
     apPorts 6 = [0, 1, 2, 3, 4, 5] ∧ c.linkState 0 = linkTRAINING ∧ c.spread = []) := by
  refine ⟨?_, ?_⟩ <;> decide +kernel

theorem test_recover_goes_on : let s := sBell csREADY recoverK (fun c => (seated 0 c).sf (IV_STAT.STATE 0) linkTRAINING)
    (run (.recover at0 6 0) s).spread = [copiesBy bFAILURE (apPorts 6) recoverK.data] := by decide +kernel

/-- A core's host read and a COPY's, each the only one outstanding, when the link is lost. -/
theorem witness_HostLinkComesAndGoes_reads :
    (let o : Op := { opFor (.core 4 31 8 false false) with host := true }
     let c := (on (fun c => c.withOps [o])).here at0
     c.ops.filter (·.host) = [o] ∧ o.pkt.ptype ≠ pATOMIC) ∧
    (let o : Op := { opFor (.toMem 0x1000) with host := true, q := 0x1F }
     let c := (on (fun c => (startedQ 0x1F doneCopy c).withOps [o])).here at0
     c.ops.filter (·.host) = [o] ∧ o.pkt.ptype ≠ pATOMIC ∧ o.dead = false ∧ queueId o.q = true ∧ o.q ≠ 0x80 ∧
     (c.queue o.q).cmd? o.cmd = some (started0 doneCopy) ∧ (started0 doneCopy).st = .running ∧ (c.queue o.q).st ≠ .halted) := by
  refine ⟨?_, ?_⟩ <;> decide +kernel

theorem test_lost_read_halts : let s := on (fun c => (startedQ 0x1F doneCopy c).withOps [{ opFor (.toMem 0x1000) with host := true, q := 0x1F }])
    (run (.hostLinkLost at0 1) s).gf (Q_ERR.CODE 0x1F) = haltHOST := by decide +kernel

/-- The queue pair that an RDMA command names. -/
theorem witness_RdmaMessagesAct_command : rdQP (rawAt transferTests 6) = 63 := by
  decide +kernel

/-- The security module after a failed test, also once it has been zeroised, and a fresh one. -/
theorem witness_SecurityOperationsAct_error :
    (let h (f : Hpd → Hpd) := ((onHpd f).enter at0).hpd
     (h (fun h => h.sf SEC_STAT.STATE secERROR)).inError = true ∧
     (h (fun h => (h.sf SEC_STAT.STATE secZEROISED).withSecFailed true)).inError = true ∧ (h id).inError = false ∧ (h id).good = true) := by
  decide +kernel

/-- Permissions for PWR OFF, for the host's PWR and for a REGISTER_WRITE, given and withheld. -/
theorem witness_MonitorRequestsAreAnswered_permissions :
    (let h (p : Nat) := ((onHpd (fun h => h.withPerm p)).enter at0).hpd
     (h 0xFF).may 4 = true ∧ (h 0).may 4 = false ∧ (h 0xFF).may 2 = true ∧ (h 0).may 2 = false ∧
     (h 0).monMay at0.chan (CH_TOK.off 0) 7 = false) ∧
    (CH_TOK.off 0 < 0x10000000 ∧ parseLine (ascii "PWR" ++ [13, 10]) = some .pwr) := by
  refine ⟨?_, ?_⟩ <;> decide +kernel

end Sys2Proof.Tests
end

