-- ==== Sys2Proof/Proofs/InterruptSources.lean ====
section
/-!
PROOF. The interrupt sources (R213): the power that a range of sources follows, the condition of each source of the slots, the
contexts, the die link and the homeroom, and the reserved sources of those ranges.
-/
namespace Sys2Proof.Machine

/-! ### Fields of one bit -/

theorem Chan.flag_eq_true_iff (c : Chan) {f : Fld} (h : f.w = 1) : c.flag f = true ↔ c.gf f = 1 := by
  have hlt : c.gf f < 2 ^ f.w := c.gf_lt f
  rw [h] at hlt
  rw [Chan.flag, bne_iff_ne]
  omega

theorem Chan.and_flag_iff (c : Chan) {f : Fld} (h : f.w = 1) (on : Bool) :
    (on && c.flag f) = true ↔ on = true ∧ c.gf f = 1 := by
  rw [Bool.and_eq_true, c.flag_eq_true_iff h]

/-! ### The power that a range of sources follows (R213) -/

theorem Chan.level_of_compute (c : Chan) {n : Nat} (h : 64 ≤ n ∧ n < 192) : c.level n = (c.computeOn && c.levelCompute n) :=
  if_pos (.inr (.inl h))

theorem Chan.level_of_base (c : Chan) {n : Nat} (h : 320 ≤ n ∧ n < 352) : c.level n = (c.baseOn && c.levelBase n) := by
  have hn : n < 512 := by omega
  rw [Chan.level, if_neg (by omega), if_neg (by omega), if_neg (by omega), decide_eq_true hn, Bool.true_and]

theorem Chan.level_of_home (c : Chan) {n : Nat} (h : 384 ≤ n ∧ n < 448) : c.level n = (c.homeOn && c.levelHome n) := by
  rw [Chan.level, if_neg (by omega), if_neg (by omega), if_pos h]

/-! ### Sources of the slots (R259) -/

/-- The four sources of slot `k`. -/
theorem Chan.levelCompute_slot (c : Chan) {k j : Nat} (hk : k < 8) (hj : j < 4) :
    c.levelCompute (64 + 4 * k + j) =
      if j = 0 then c.flag (SS_STAT.FAULT k) else if j = 1 then c.flag (SS_STAT.STEP_END k)
      else if j = 2 then c.flag (SS_STAT.DRAINED k) else false := by
  have hslot : (64 + 4 * k + j - 64) / 4 = k := by omega
  have hpart : (64 + 4 * k + j) % 4 = j := by omega
  rw [Chan.levelCompute, if_neg (by omega), if_pos (by omega)]
  simp only [hslot, hpart]

theorem Chan.level_slot (c : Chan) {k j : Nat} (hk : k < 8) (hj : j < 4) :
    c.level (64 + 4 * k + j) = (c.computeOn &&
      if j = 0 then c.flag (SS_STAT.FAULT k) else if j = 1 then c.flag (SS_STAT.STEP_END k)
      else if j = 2 then c.flag (SS_STAT.DRAINED k) else false) := by
  rw [c.level_of_compute (by omega), c.levelCompute_slot hk hj]

theorem Chan.level_slot_iff (c : Chan) {k : Nat} (hk : k < 8) :
    (c.level (64 + 4 * k) = true ↔ c.computeOn = true ∧ c.gf (SS_STAT.FAULT k) = 1) ∧
    (c.level (64 + 4 * k + 1) = true ↔ c.computeOn = true ∧ c.gf (SS_STAT.STEP_END k) = 1) ∧
    (c.level (64 + 4 * k + 2) = true ↔ c.computeOn = true ∧ c.gf (SS_STAT.DRAINED k) = 1) ∧
    c.level (64 + 4 * k + 3) = false := by
  refine ⟨?fault, ?stepEnd, ?drained, ?reserved⟩
  case fault =>
    rw [← Nat.add_zero (64 + 4 * k), c.level_slot hk (by decide)]
    exact c.and_flag_iff rfl _
  case stepEnd =>
    rw [c.level_slot hk (by decide)]
    exact c.and_flag_iff rfl _
  case drained =>
    rw [c.level_slot hk (by decide)]
    exact c.and_flag_iff rfl _
  case reserved =>
    rw [c.level_slot hk (by decide)]
    exact Bool.and_false _

/-! ### Sources of the contexts (R324) -/

theorem Chan.levelCompute_tardy (c : Chan) {g : Nat} (hg : g < 8) : c.levelCompute (160 + g) = c.flag (CE_GRP_STAT.TARDY g) := by
  simp (disch := omega) only [Chan.levelCompute, if_neg, if_pos, Nat.add_sub_cancel_left]

theorem Chan.levelCompute_stale (c : Chan) {g : Nat} (hg : g < 8) : c.levelCompute (168 + g) = c.flag (CE_GRP_STAT.STALE g) := by
  simp (disch := omega) only [Chan.levelCompute, if_neg, if_pos, Nat.add_sub_cancel_left]

theorem Chan.levelCompute_carryLost (c : Chan) {g : Nat} (hg : g < 8) :
    c.levelCompute (176 + g) = c.flag (CE_GRP_STAT.CARRY_LOST g) := by
  simp (disch := omega) only [Chan.levelCompute, if_neg, if_pos, Nat.add_sub_cancel_left]

theorem Chan.level_context_iff (c : Chan) {g : Nat} (hg : g < 8) :
    (c.level (160 + g) = true ↔ c.computeOn = true ∧ c.gf (CE_GRP_STAT.TARDY g) = 1) ∧
    (c.level (168 + g) = true ↔ c.computeOn = true ∧ c.gf (CE_GRP_STAT.STALE g) = 1) ∧
    (c.level (176 + g) = true ↔ c.computeOn = true ∧ c.gf (CE_GRP_STAT.CARRY_LOST g) = 1) := by
  rw [c.level_of_compute (n := 160 + g) (by omega), c.level_of_compute (n := 168 + g) (by omega),
    c.level_of_compute (n := 176 + g) (by omega), c.levelCompute_tardy hg, c.levelCompute_stale hg, c.levelCompute_carryLost hg]
  exact ⟨c.and_flag_iff rfl _, c.and_flag_iff rfl _, c.and_flag_iff rfl _⟩

/-! ### Sources of the die link (R487) -/

theorem Chan.level_dieLink_iff (c : Chan) :
    (c.level 320 = true ↔ c.baseOn = true ∧ (c.gf UC_STAT.STATE = 0 ∨ c.gf UC_STAT.STATE = 1)) ∧
    (c.level 321 = true ↔ c.baseOn = true ∧ c.gf UC_STAT.WIDTH ≠ 3) ∧
    (c.level 322 = true ↔ c.baseOn = true ∧ c.gf UC_STAT.STATE = 3) := by
  have down : c.levelBase 320 = (c.gf UC_STAT.STATE == 0 || c.gf UC_STAT.STATE == 1) := rfl
  have narrow : c.levelBase 321 = (c.gf UC_STAT.WIDTH != 3) := rfl
  have failed : c.levelBase 322 = (c.gf UC_STAT.STATE == 3) := rfl
  simp only [c.level_of_base, Nat.reduceLeDiff, Nat.reduceLT, and_self, down, narrow, failed, Bool.and_eq_true, Bool.or_eq_true,
    beq_iff_eq, bne_iff_ne]

/-! ### Sources of the heat limits (R487), of failures and recovery (R419) and of the log (R554) -/

theorem Chan.level_heat_iff (c : Chan) :
    (c.level 384 = true ↔ c.homeOn = true ∧ c.gf HR_THERM.DUTY < 16) ∧
    (c.level 385 = true ↔ c.homeOn = true ∧ c.gf HR_THERM.HOLD = 1) ∧
    (c.level 386 = true ↔ c.homeOn = true ∧ c.gf HR_THERM.SENS_FAULT = 1) ∧
    (c.level 387 = true ↔ c.homeOn = true ∧ c.gf HR_THERM.ENV_CAP < 16) := by
  refine ⟨?duty, c.and_flag_iff rfl _, c.and_flag_iff rfl _, ?envCap⟩
  case duty => rw [c.level_of_home (by decide), Bool.and_eq_true]; exact and_congr_right' decide_eq_true_iff
  case envCap => rw [c.level_of_home (by decide), Bool.and_eq_true]; exact and_congr_right' decide_eq_true_iff

theorem Chan.level_recovery_iff (c : Chan) :
    (c.level 400 = true ↔ c.homeOn = true ∧ c.gf HR_HB_STAT.SUSPECT ≠ 0) ∧
    (c.level 401 = true ↔ c.homeOn = true ∧ c.gf HR_RECOV_STAT.CLAIMED = 1) ∧
    (c.level 402 = true ↔ c.homeOn = true ∧ c.gf HR_RECOV_STAT.RECOVERED = 1) ∧
    (c.level 403 = true ↔ c.homeOn = true ∧ c.gf HR_RECOV_STAT.NO_SUB = 1) := by
  refine ⟨?suspect, c.and_flag_iff rfl _, c.and_flag_iff rfl _, c.and_flag_iff rfl _⟩
  rw [c.level_of_home (by decide), Bool.and_eq_true]
  exact and_congr_right' bne_iff_ne

/-- Records written and not yet read: both counters are 32 bits wide, and their difference wraps. -/
def Chan.unread (c : Chan) : Nat := (c.gf HR_LOG_STAT.WCNT + 2 ^ 32 - c.gf HR_LOG_STAT.RCNT) % 2 ^ 32

theorem Chan.level_log_iff (c : Chan) :
    (c.level 416 = true ↔ c.homeOn = true ∧ c.gf HR_LOG_CFG.THRESH ≠ 0 ∧ c.gf HR_LOG_CFG.THRESH ≤ c.unread) ∧
    (c.level 417 = true ↔ c.homeOn = true ∧ 4096 < c.unread) := by
  have threshold : c.levelHome 416 = true ↔ c.gf HR_LOG_CFG.THRESH ≠ 0 ∧ c.gf HR_LOG_CFG.THRESH ≤ c.unread := by
    simp [Chan.levelHome, Chan.unread]
  have overwritten : c.levelHome 417 = true ↔ 4096 < c.unread := by
    simp [Chan.levelHome, Chan.unread]
  rw [c.level_of_home (n := 416) (by decide), c.level_of_home (n := 417) (by decide), Bool.and_eq_true, Bool.and_eq_true]
  exact ⟨and_congr_right' threshold, and_congr_right' overwritten⟩

/-! ### Reserved sources (R213) -/

theorem Chan.levelCompute_reserved (c : Chan) {n : Nat} (h : (96 ≤ n ∧ n < 128) ∨ (184 ≤ n ∧ n < 192)) :
    c.levelCompute n = false := by
  simp (disch := omega) only [Chan.levelCompute, if_neg]

theorem Chan.levelBase_reserved (c : Chan) {n : Nat} (h : 323 ≤ n ∧ n < 336) : c.levelBase n = false := by
  simp (disch := omega) only [Chan.levelBase, if_neg]

theorem Chan.levelHome_reserved (c : Chan) {n : Nat} (h : (388 ≤ n ∧ n < 400) ∨ (404 ≤ n ∧ n < 416) ∨ (418 ≤ n ∧ n < 448)) :
    c.levelHome n = false := by
  simp (disch := omega) only [Chan.levelHome, if_neg]

theorem Chan.level_reserved (c : Chan) {n : Nat}
    (h : (96 ≤ n ∧ n < 128) ∨ (184 ≤ n ∧ n < 192) ∨ (323 ≤ n ∧ n < 336) ∨ (388 ≤ n ∧ n < 400) ∨ (404 ≤ n ∧ n < 416) ∨
      (418 ≤ n ∧ n < 448)) : c.level n = false := by
  rcases h with h | h | h | h
  · rw [c.level_of_compute (by omega), c.levelCompute_reserved (.inl h), Bool.and_false]
  · rw [c.level_of_compute (by omega), c.levelCompute_reserved (.inr h), Bool.and_false]
  · rw [c.level_of_base (by omega), c.levelBase_reserved h, Bool.and_false]
  · rw [c.level_of_home (by omega), c.levelHome_reserved h, Bool.and_false]

/-- Settles O29: each unit's sources, and the reserved ones, by the lemmas above. -/
theorem interruptSourcesFollowTheirUnits : Obligations.InterruptSourcesFollowTheirUnits := by
  unfold Obligations.InterruptSourcesFollowTheirUnits
  intro c
  obtain ⟨down, narrow, failed⟩ := c.level_dieLink_iff
  obtain ⟨duty, hold, sensor, envCap⟩ := c.level_heat_iff
  obtain ⟨suspect, claimed, recovered, noSub⟩ := c.level_recovery_iff
  exact ⟨fun _ => c.level_slot_iff, fun _ => c.level_context_iff, down, narrow, failed, duty, hold, sensor, envCap,
    suspect, claimed, recovered, noSub, c.level_log_iff, fun _ => c.level_reserved⟩

end Sys2Proof.Machine
end

