-- ==== Sys2Proof/Proofs/HomeAtomic.lean ====
section
/-!
PROOF. A remote ATOMIC at its home channel (R56, R368): what its word holds afterwards, what else of memory it changes, and its
response. The bytes of a number, a packet's arrival and its answer come first, as facts about the model's own functions.
-/
namespace Sys2Proof.Machine

/-! ### Little-endian numbers in memory (R3) -/

@[simp] theorem leBytes_length (n v : Nat) : (leBytes n v).length = n := by
  induction n generalizing v with
  | zero => rfl
  | succ n ih => rw [leBytes, List.length_cons, ih]

/-- The bytes of a number spell its low bytes. -/
theorem ofLe_leBytes (n v : Nat) : ofLe (leBytes n v) = v % 256 ^ n := by
  induction n generalizing v with
  | zero => rw [leBytes, ofLe, pow_zero, Nat.mod_one]
  | succ n ih => rw [leBytes, ofLe, ih, pow_succ', Nat.mod_mul, BitVec.toNat_ofNat]

theorem Chan.peek_congr {c d : Chan} (h : d.mem = c.mem) (a n : Nat) : d.peek a n = c.peek a n := by
  simp only [Chan.peek, Chan.byte, h]

/-- A read of the extent just written gives the bytes written. -/
theorem Chan.peek_poke (c : Chan) (a : Nat) (bs : List Byte) : (c.poke a bs).peek a bs.length = bs := by
  refine List.ext_getElem (by simp [Chan.peek]) fun i _ h => ?_
  simp [Chan.peek, Chan.byte_poke, nth, h]

/-- A number written in `n` bytes reads back modulo `256 ^ n`. -/
theorem Chan.peekLe_poke_leBytes (c : Chan) (a n v : Nat) : (c.poke a (leBytes n v)).peekLe a n = v % 256 ^ n := by
  have h := c.peek_poke a (leBytes n v)
  rw [leBytes_length] at h
  rw [Chan.peekLe, h, ofLe_leBytes]

/-! ### A packet sent leaves memory alone -/

@[simp] theorem Chan.onPort_mem (c : Chan) (p : Nat) (f : Port → Port) : (c.onPort p f).mem = c.mem := (rfl)

@[simp] theorem Chan.txPut_mem (c : Chan) (p vc : Nat) (k : Pkt) (src : Option (Nat × Nat)) : (c.txPut p vc k src).mem = c.mem :=
  c.onPort_mem ..

@[simp] theorem Chan.countNoRoute_mem (c : Chan) (unsup : Bool) : (c.countNoRoute unsup).mem = c.mem := by
  cases unsup <;> simp [Chan.countNoRoute]

@[simp] theorem Chan.emit_mem (c : Chan) (low : Nat) (k : Pkt) : (c.emit low k).mem = c.mem := by
  unfold Chan.emit
  split
  · rw [Chan.withLoop_mem]
  · split <;> simp

@[simp] theorem Chan.respond_mem (c : Chan) (k : Pkt) (ptype err : Nat) (data : List Byte) :
    (c.respond k ptype err data).mem = c.mem := c.emit_mem ..

/-! ### The arrival of a packet -/

theorem Chan.onPort_eq (c : Chan) (p : Nat) (f : Port → Port) : ∃ x, c.onPort p f = c.withPorts x := ⟨_, (rfl)⟩

theorem Chan.dropHead_eq (c : Chan) (p vc : Nat) : ∃ x l, c.dropHead p vc = (c.withPorts x).withLoop l := by
  unfold Chan.dropHead
  split
  · exact ⟨c.ports, _, (rfl)⟩
  · obtain ⟨x, hx⟩ := c.onPort_eq p _
    exact ⟨x, c.loop, hx.trans (rfl)⟩

theorem Chan.freePlaces_eq (c : Chan) (src : Option (Nat × Nat)) (n : Nat) : ∃ x, c.freePlaces src n = c.withPorts x := by
  match src with
  | none => exact ⟨c.ports, (rfl)⟩
  | some (p, vc) =>
    unfold Chan.freePlaces
    dsimp only
    split
    · exact c.onPort_eq p _
    · exact ⟨c.ports, (rfl)⟩

/-- Taking a packet changes the ports and the channel's own traffic, and nothing else. -/
theorem Chan.takes.eq {c e : Chan} {p vc : Nat} {k : Pkt} (h : c.takes p vc k e) :
    ∃ x l, e = (c.withPorts x).withLoop l := by
  obtain ⟨bs, fl, -, -, rfl⟩ := h
  obtain ⟨x, l, hd⟩ := c.dropHead_eq p vc
  obtain ⟨y, hf⟩ := (c.dropHead p vc).freePlaces_eq (some (p, vc)) fl
  rw [hf, hd]
  exact ⟨y, l, (rfl)⟩

theorem Chan.node_congr {c d : Chan} (hn : d.num = c.num) (hr : d.regs = c.regs) : d.node = c.node := Chan.gf_congr hn hr _

theorem Chan.flag_congr {c d : Chan} (hn : d.num = c.num) (hr : d.regs = c.regs) (f : Fld) : d.flag f = c.flag f := by
  rw [Chan.flag, Chan.gf_congr hn hr, Chan.flag]

theorem Chan.homeErr_congr {c d : Chan} (hn : d.num = c.num) (hr : d.regs = c.regs) : d.homeErr = c.homeErr := by
  simp only [Chan.homeErr, Chan.flag_congr hn hr, Chan.gf_congr hn hr]

theorem Chan.homeAddr_congr {c d : Chan} (hn : d.num = c.num) (hr : d.regs = c.regs) (k : Pkt) (n : Nat) :
    d.homeAddr k n = c.homeAddr k n := by
  simp only [Chan.homeAddr, Chan.node_congr hn hr]

theorem Chan.flawsIn_congr {c d : Chan} (h : d.flaws = c.flaws) (a n : Nat) : d.flawsIn a n = c.flawsIn a n := by
  simp only [Chan.flawsIn, h]

/-- A packet for this channel that the command accepts is handled by the home channel. -/
theorem Chan.takePkt_arrives {c e : Chan} {p vc : Nat} {k : Pkt} (h : c.arrives p vc k e) {mine : Pkt → Bool}
    (hm : mine k = true) (home : Chan → Pkt → Chan) : c.takePkt p vc mine home = home e k := by
  obtain ⟨⟨bs, fl, hhead, rfl, rfl⟩, hdst⟩ := h
  obtain ⟨x, l, hd⟩ := c.dropHead_eq p vc
  have hnode : (c.dropHead p vc).node = c.node := by rw [hd]; exact Chan.node_congr (by simp) (by simp)
  rw [Chan.takePkt, hhead]
  dsimp only
  rw [hm, Bool.not_true, if_neg Bool.false_ne_true, hnode, if_pos hdst]

/-! ### An ATOMIC at the home channel (R368) -/

/-- The compare value of a compare-swap. -/
def Pkt.compare (k : Pkt) : Nat := ofLe (k.data.take 8)

/-- An ATOMIC that stores nothing: a compare-swap whose compare value is not the old value. -/
def Chan.atomicHeld (c : Chan) (k : Pkt) (x : Nat) : Prop := bits k.aux 0 2 = 2 ∧ c.peekLe x 8 ≠ k.compare

/-- The word of the ATOMIC `k` at `x` with its new value. -/
def Chan.atomicPoke (c : Chan) (k : Pkt) (x : Nat) : Chan :=
  c.poke x (leBytes 8 (atomicNew (bits k.aux 0 2) (c.peekLe x 8) k.aux2 k.compare))

theorem Chan.homeAtomic_turnedAway {c : Chan} {k : Pkt} (h : c.homeErr ≠ 0) :
    c.homeAtomic k = c.respond k pERROR_RESP c.homeErr [] := if_pos h

theorem Chan.homeAtomic_misaligned {c : Chan} {k : Pkt} {x : Nat} (h : c.homeErr = 0) (hx : c.homeAddr k 8 = some x)
    (ha : x % 8 ≠ 0) : c.homeAtomic k = c.respond k pERROR_RESP 4 [] := by
  simp only [Chan.homeAtomic, h, hx, ha, ne_eq, not_true_eq_false, not_false_eq_true, if_false, if_true]

/-- At an aligned address without bad symbols the word takes its new value, or keeps the old, and the old value is returned. -/
theorem Chan.homeAtomic_aligned {c : Chan} {k : Pkt} {x : Nat} (h : c.homeErr = 0) (hx : c.homeAddr k 8 = some x)
    (ha : x % 8 = 0) (hf : c.flawsIn x 8 = []) :
    (c.atomicHeld k x → c.homeAtomic k = c.respond k pATOMIC_DATA 0 (c.peek x 8)) ∧
    (¬ c.atomicHeld k x → c.homeAtomic k = (c.atomicPoke k x).respond k pATOMIC_DATA 0 (c.peek x 8)) := by
  have hstore (v : Nat) : c.store x (leBytes 8 v) = (false, c.poke x (leBytes 8 v)) :=
    c.store_clean x _ (by rw [leBytes_length]; exact hf)
  simp only [Chan.homeAtomic, h, hx, ha, c.load_clean x 8 hf, hstore, Chan.atomicHeld, Chan.atomicPoke, Chan.peekLe, Pkt.compare,
    ne_eq, not_true_eq_false, if_false]
  exact ⟨fun hc => by rw [if_pos hc], fun hc => by rw [if_neg hc]⟩

/-- The word of an ATOMIC that stores holds its new value. -/
theorem Chan.peekLe_atomicPoke (c : Chan) (k : Pkt) (x : Nat) :
    (c.atomicPoke k x).peekLe x 8 = atomicNew (bits k.aux 0 2) (c.peekLe x 8) k.aux2 k.compare % 2 ^ 64 :=
  c.peekLe_poke_leBytes x 8 _

theorem Chan.sameMemBut_atomicPoke (c : Chan) (k : Pkt) (x : Nat) : c.sameMemBut (c.atomicPoke k x) x 8 := by
  have h := c.sameMemBut_poke x (leBytes 8 (atomicNew (bits k.aux 0 2) (c.peekLe x 8) k.aux2 k.compare))
  rwa [leBytes_length] at h

/-- What an ATOMIC leaves in memory: its word, by the operation it names, and every other byte as before. -/
structure Chan.atomicDone (c d : Chan) (k : Pkt) (x : Nat) : Prop where
  fetchAdd : bits k.aux 0 2 = 0 → d.peekLe x 8 = (c.peekLe x 8 + k.aux2) % 2 ^ 64
  swap : bits k.aux 0 2 = 1 → d.peekLe x 8 = k.aux2 % 2 ^ 64
  compareSwap : bits k.aux 0 2 = 2 → d.peekLe x 8 = if c.peekLe x 8 = k.compare then k.aux2 % 2 ^ 64 else c.peekLe x 8
  others : c.sameMemBut d x 8

theorem Chan.atomicDone_of_held {c d : Chan} {k : Pkt} {x : Nat} (h : c.atomicHeld k x) (hd : d.mem = c.mem) :
    c.atomicDone d k x where
  fetchAdd h0 := absurd (h.1.symm.trans h0) (by decide)
  swap h1 := absurd (h.1.symm.trans h1) (by decide)
  compareSwap _ := by rw [if_neg h.2, Chan.peekLe, Chan.peek_congr hd, Chan.peekLe]
  others y _ := Chan.sameMem_of_mem hd y

theorem Chan.atomicDone_of_poke {c d : Chan} {k : Pkt} {x : Nat} (h : ¬ c.atomicHeld k x) (hd : d.mem = (c.atomicPoke k x).mem) :
    c.atomicDone d k x := by
  have hnew := c.peekLe_atomicPoke k x
  rw [Chan.peekLe, ← Chan.peek_congr hd, ← Chan.peekLe] at hnew
  refine ⟨fun h0 => ?_, fun h1 => ?_, fun h2 => ?_, fun y hy => ?_⟩
  · rw [hnew, h0, atomicNew, if_pos rfl, Nat.mod_mod]
  · rw [hnew, h1, atomicNew, if_neg one_ne_zero, if_pos rfl]
  · have heq : c.peekLe x 8 = k.compare := by_contra fun hne => h ⟨h2, hne⟩
    rw [hnew, h2, atomicNew, if_neg two_ne_zero, if_neg (by decide), if_pos heq, if_pos heq]
  · rw [Chan.sameMem_of_mem hd y, c.sameMemBut_atomicPoke k x y hy]

/-- An ATOMIC at an aligned address without bad symbols is performed and returns the old value. -/
theorem Chan.homeAtomic_performed {c : Chan} {k : Pkt} {x : Nat} (h : c.homeErr = 0) (hx : c.homeAddr k 8 = some x)
    (ha : x % 8 = 0) (hf : c.flawsIn x 8 = []) :
    c.atomicDone (c.homeAtomic k) k x ∧ ∃ y : Chan, c.homeAtomic k = y.respond k pATOMIC_DATA 0 (c.peek x 8) := by
  obtain ⟨held, poked⟩ := Chan.homeAtomic_aligned h hx ha hf
  by_cases hc : c.atomicHeld k x
  · rw [held hc]
    exact ⟨Chan.atomicDone_of_held hc (by simp), _, rfl⟩
  · rw [poked hc]
    exact ⟨Chan.atomicDone_of_poke hc (by simp), _, rfl⟩

/-- What an ATOMIC does in the channel that has taken it, it does in the channel that it reached. -/
theorem Chan.atomicDone.congr {c e d : Chan} {k : Pkt} {x : Nat} (hm : e.mem = c.mem) (h : e.atomicDone d k x) :
    c.atomicDone d k x := by
  have hp : e.peekLe x 8 = c.peekLe x 8 := congrArg ofLe (Chan.peek_congr hm x 8)
  obtain ⟨add, swap, cas, others⟩ := h
  rw [hp] at add cas
  exact ⟨add, swap, cas, fun y hy => (others y hy).trans (Chan.sameMem_of_mem hm y)⟩

theorem exec_atomicRequest (a : At) (p vc : Nat) (s : State) :
    exec (.atomicRequest a p vc) s = execAtomicRequest a p vc s := by
  rfl

/-- An ATOMIC that arrives at a live switch is handled by the home channel. -/
theorem gives_atomicRequest {a : At} {p vc : Nat} {k : Pkt} {e : Chan} {s : State} (hs : s.fabLive a)
    (h : (s.here a).arrives p vc k e) (ht : k.ptype = pATOMIC) {P : Chan → Prop} (hP : P (e.homeAtomic k)) :
    Gives (.atomicRequest a p vc) s a P := by
  refine ⟨e.homeAtomic k, ?_, hP⟩
  rw [exec_atomicRequest, execAtomicRequest, State.runFab_live hs,
    Chan.takePkt_arrives h (by rw [isType, ht, beq_self_eq_true])]

/-- Settles O35: the home channel finds the packet's channel as it was but for ports and traffic (`Chan.takes.eq`), so that it
performs, answers or turns away the ATOMIC by the lemmas above. -/
theorem atomicsReturnTheOldValue : Obligations.AtomicsReturnTheOldValue := by
  unfold Obligations.AtomicsReturnTheOldValue
  intro a p vc x k e s hs c harr ht _ _ _
  obtain ⟨ports, loop, he⟩ := harr.1.eq
  have hn : e.num = c.num := by rw [he]; simp
  have hr : e.regs = c.regs := by rw [he]; simp
  have hm : e.mem = c.mem := by rw [he]; simp
  have hfl : e.flaws = c.flaws := by rw [he]; simp
  rw [← Chan.homeErr_congr hn hr, ← Chan.homeAddr_congr hn hr, ← Chan.flawsIn_congr hfl, ← Chan.peek_congr hm]
  have answered (err : Nat) : c.sameMem (e.respond k pERROR_RESP err []) := Chan.sameMem_of_mem (by rw [Chan.respond_mem, hm])
  refine ⟨fun h hx ha hf => ?_, fun h hx ha => ?_, fun h => ?_⟩ <;> apply gives_atomicRequest hs harr ht
  · obtain ⟨done, returned⟩ := Chan.homeAtomic_performed h hx ha hf
    obtain ⟨add, swap, cas, others⟩ := done.congr hm
    exact ⟨add, swap, cas, others, returned⟩
  · rw [Chan.homeAtomic_misaligned h hx ha]
    exact ⟨rfl, answered 4⟩
  · rw [Chan.homeAtomic_turnedAway h]
    exact ⟨rfl, answered _⟩

end Sys2Proof.Machine
end
